-- ==== Sys2Proof/Word.lean ====
section
/-! DEFINITION. The quantities the manual treats as bits (00_scope.md R5, R6) and the number of an
accumulator. Bit 0 of the manual is the most significant bit; nothing here depends on the numbering. -/

namespace Sys2Proof

/-- A 16-bit word, the unit of every memory access (20_memory.md R60). -/
abbrev Word := BitVec 16

/-- A 15-bit logical word address (20_memory.md R60, R75). -/
abbrev Addr := BitVec 15

/-- An 8-bit byte (20_memory.md R61). -/
abbrev Byte := BitVec 8

/-- The 64 bits of a floating point accumulator (10_state.md R23). -/
abbrev Quad := BitVec 64

/-- The number of a fixed point or floating point accumulator (30_encoding.md R110). -/
inductive Acc where
  | a0
  | a1
  | a2
  | a3
  deriving DecidableEq, Repr

end Sys2Proof
end

