-- ==== Sys2Proof/Config.lean ====
section
/-! DEFINITION. What an implementation fixes before reset (00_scope.md R4, R11) and the free values:
constants without a body, one for each width the spec leaves a value open in. -/

namespace Sys2Proof

/-- The five models of the line (00_scope.md R4). -/
inductive Model where
  | s100
  | s200
  | s230
  | c300
  | c330
  deriving DecidableEq, Repr

/-- Which MAP unit is installed (00_scope.md R4, 46_map.md). -/
inductive MapKind where
  | none
  | map200
  | map230
  deriving DecidableEq, Repr

/-- The parameters of 00_scope.md R4 and R11. They are data of the state that no step changes. -/
structure Config where
  /-- MODEL; a label, the option flags decide behaviour -/
  model : Model
  mapKind : MapKind
  hasFpu : Bool
  hasEap : Bool
  hasWcs : Bool
  hasErcc : Bool
  hasRtc : Bool
  hasPfar : Bool
  /-- MEM_WORDS, installed physical memory in words -/
  memWords : Nat
  /-- NXM_READ, what a read of non-existent memory returns (20_memory.md R65) -/
  nxmRead : Word
  /-- LINE_HZ; a label, clock pulses are host inputs -/
  lineHz : Nat
  /-- EDIT_OPCODES: entry k is the k-th sub-operation's code (48_commercial.md R451) -/
  editOpcodes : List Byte
  /-- the device codes on the bus, closest to the CPU first (49_io.md R505, R517) -/
  busOrder : List (BitVec 6)
  /-- UNASSIGNED_OP is given (30_encoding.md R108, D7): what an unassigned word does is `Machine.unassignedOp` -/
  unassignedOp : Bool
  /-- the WCS entry effects are given (45_xop_wcs.md R292, U5): they are `Machine.wcsEntryEffect` -/
  wcsEffects : Bool
  deriving DecidableEq, Repr

/-- The largest memory each MAP variant can address (00_scope.md R4, 90_conflicts.md C1). -/
def MapKind.maxWords : MapKind → Nat
  | .none => 32768
  | .map200 => 131072
  | .map230 => 262144

/-- What 00_scope.md R4 says about which parameters go together: the EAP brings the floating point
feature, is a feature of the C series only, and the WCS of the S series only; each MAP variant belongs
to two models; memory is at least one word and at most what the MAP variant addresses. -/
def Config.wf (c : Config) : Bool :=
  (!c.hasEap || c.hasFpu)
    && (!c.hasEap || c.model == .c300 || c.model == .c330)
    && (!c.hasWcs || c.model == .s100 || c.model == .s200 || c.model == .s230)
    && (c.mapKind != .map200 || c.model == .s200 || c.model == .c300)
    && (c.mapKind != .map230 || c.model == .s230 || c.model == .c330)
    && decide (1 ≤ c.memWords) && decide (c.memWords ≤ c.mapKind.maxWords)
    && decide (c.editOpcodes.length = 24)

/-- A free value of 16 bits (log entry 6): nothing constrains it. -/
opaque Config.freeWord : Nat → BitVec 16

/-- A free value of 64 bits (log entry 6): nothing constrains it. -/
opaque Config.freeQuad : Nat → BitVec 64

/-- A free moment, counted in memory cycles, for the numbered element of the state of an instruction that is cut off (log
entry 45): nothing constrains it. The first argument is the counter of the free values. -/
opaque Config.freeMoment : Nat → Nat → Nat

end Sys2Proof
end

