-- ==== Sys2Proof/Syntax.lean ====
section
/-! DEFINITION. The instructions: one constructor per row of spec/opcode_table.json, with the operand
fields of 30_encoding.md R102 to R116 as named types. -/

namespace Sys2Proof

/-- The two index bits (20_memory.md R74). -/
inductive Index where
  | absolute
  | relative
  | ac2
  | ac3
  deriving DecidableEq, Repr

/-- Operand of the short class (30_encoding.md R103): indirect bit, index bits, displacement. -/
structure ShortMem where
  ind : Bool
  index : Index
  disp : BitVec 8
  deriving DecidableEq, Repr

/-- Operand of the extended class (30_encoding.md R104): the index bits of the first word, the
indirect bit and the displacement of the second. -/
structure ExtMem where
  index : Index
  ind : Bool
  disp : BitVec 15
  deriving DecidableEq, Repr

/-- Action of the shifter, field SH (30_encoding.md R102). -/
inductive AluShift where
  | keep
  | left
  | right
  | swap
  deriving DecidableEq, Repr

/-- Initialisation of the carry, field C (30_encoding.md R102). -/
inductive AluCarry where
  | keep
  | zero
  | one
  | complement
  deriving DecidableEq, Repr

/-- The skip test, field SKIP (30_encoding.md R102). -/
inductive AluSkip where
  | never
  | always
  | szc
  | snc
  | szr
  | snr
  | sez
  | sbn
  deriving DecidableEq, Repr

/-- The fields of the Two Accumulator-Multiple Operation format (30_encoding.md R102). -/
structure Alu where
  acs : Acc
  acd : Acc
  shift : AluShift
  carry : AluCarry
  noLoad : Bool
  skip : AluSkip
  deriving DecidableEq, Repr

/-- The F field of an I/O instruction (30_encoding.md R105; 49_io.md R504, R512). -/
inductive IoF where
  | none
  | start
  | clear
  | pulse
  deriving DecidableEq, Repr

/-- The T field of an I/O skip (30_encoding.md R105; 49_io.md R503, R521). -/
inductive IoTest where
  | bn
  | bz
  | dn
  | dz
  deriving DecidableEq, Repr

/-- One constructor per row of spec/opcode_table.json (rule numbers are those of 30_encoding.md
unless a file is named). -/
inductive Instr where
  -- Arithmetic/logical class (30_encoding.md R102)
  | com (f : Alu)
  | neg (f : Alu)
  | mov (f : Alu)
  | inc (f : Alu)
  | adc (f : Alu)
  | sub (f : Alu)
  | add (f : Alu)
  | and (f : Alu)
  -- Short class without an accumulator (R103)
  | jmp (m : ShortMem)
  | jsr (m : ShortMem)
  | isz (m : ShortMem)
  | dsz (m : ShortMem)
  -- Short class with an accumulator (R103; LEF only in LEF mode, R109)
  | lda (ac : Acc) (m : ShortMem)
  | sta (ac : Acc) (m : ShortMem)
  | lef (ac : Acc) (m : ShortMem)
  -- Extended class without an accumulator (R104)
  | ejmp (m : ExtMem)
  | ejsr (m : ExtMem)
  | eisz (m : ExtMem)
  | edsz (m : ExtMem)
  | pshj (m : ExtMem)
  -- Extended class with an accumulator (R104)
  | elda (ac : Acc) (m : ExtMem)
  | esta (ac : Acc) (m : ExtMem)
  | elef (ac : Acc) (m : ExtMem)
  | dspa (ac : Acc) (m : ExtMem)
  -- Extended byte instructions: the second word is a byte displacement (R113)
  | eldb (ac : Acc) (ix : Index) (disp : Word)
  | estb (ac : Acc) (ix : Index) (disp : Word)
  -- Immediate-count rows, operand N + 1 (R111)
  | adi (n : BitVec 2) (ac : Acc)
  | sbi (n : BitVec 2) (ac : Acc)
  | hxl (n : BitVec 2) (ac : Acc)
  | hxr (n : BitVec 2) (ac : Acc)
  | dhxl (n : BitVec 2) (ac : Acc)
  | dhxr (n : BitVec 2) (ac : Acc)
  -- Two-accumulator rows (R107 tables A and C)
  | dad (acs acd : Acc)
  | dsb (acs acd : Acc)
  | ior (acs acd : Acc)
  | xor (acs acd : Acc)
  | anc (acs acd : Acc)
  | xch (acs acd : Acc)
  | sgt (acs acd : Acc)
  | sge (acs acd : Acc)
  | lsh (acs acd : Acc)
  | dlsh (acs acd : Acc)
  | bto (acs acd : Acc)
  | btz (acs acd : Acc)
  | szb (acs acd : Acc)
  | szbo (acs acd : Acc)
  | lob (acs acd : Acc)
  | lrb (acs acd : Acc)
  | cob (acs acd : Acc)
  | ldb (acs acd : Acc)
  | stb (acs acd : Acc)
  | psh (acs acd : Acc)
  | pop (acs acd : Acc)
  | syc (acs acd : Acc)
  | clm (acs acd : Acc)
  | snb (acs acd : Acc)
  -- One-accumulator rows (R107 table C)
  | msp (ac : Acc)
  | xct (ac : Acc)
  | hlv (ac : Acc)
  -- 16-bit immediates (R112)
  | iori (ac : Acc) (imm : Word)
  | xori (ac : Acc) (imm : Word)
  | andi (ac : Acc) (imm : Word)
  | addi (ac : Acc) (imm : Word)
  -- Rows without operands (R107 table A1)
  | pshr
  | popb
  | bam
  | popj
  | rtn
  | blm
  | divx
  | mul
  | muls
  | div
  | divs
  | rstr
  -- SAVE with its frame size (R112)
  | save (frame : Word)
  -- LOAD MAP of the two MAP variants (46_map.md R306, R330)
  | lmp200
  | lmp230
  -- Extended operations (R114)
  | xop (acs acd : Acc) (op : BitVec 5)
  | xop1 (acs acd : Acc) (entry : BitVec 4)
  -- Floating point, register to register (R107 table B)
  | fas (facs facd : Acc)
  | fad (facs facd : Acc)
  | fss (facs facd : Acc)
  | fsd (facs facd : Acc)
  | fms (facs facd : Acc)
  | fmd (facs facd : Acc)
  | fds (facs facd : Acc)
  | fdd (facs facd : Acc)
  | fcmp (facs facd : Acc)
  | fmov (facs facd : Acc)
  -- Floating point with a memory operand (R104)
  | fams (fpac : Acc) (m : ExtMem)
  | famd (fpac : Acc) (m : ExtMem)
  | fsms (fpac : Acc) (m : ExtMem)
  | fsmd (fpac : Acc) (m : ExtMem)
  | fmms (fpac : Acc) (m : ExtMem)
  | fmmd (fpac : Acc) (m : ExtMem)
  | fdms (fpac : Acc) (m : ExtMem)
  | fdmd (fpac : Acc) (m : ExtMem)
  | flds (fpac : Acc) (m : ExtMem)
  | fldd (fpac : Acc) (m : ExtMem)
  | fsts (fpac : Acc) (m : ExtMem)
  | fstd (fpac : Acc) (m : ExtMem)
  | flmd (fpac : Acc) (m : ExtMem)
  | ffmd (fpac : Acc) (m : ExtMem)
  -- Conversions with a fixed point accumulator
  | flas (ac fpac : Acc)
  | ffas (ac fpac : Acc)
  -- Floating point, one accumulator
  | fnom (fpac : Acc)
  | frh (fpac : Acc)
  | fab (fpac : Acc)
  | fneg (fpac : Acc)
  | fscal (fpac : Acc)
  | fexp (fpac : Acc)
  | fint (fpac : Acc)
  | fhlv (fpac : Acc)
  -- Floating point status to and from memory
  | fsst (m : ExtMem)
  | flst (m : ExtMem)
  -- Floating point control
  | fte
  | ftd
  | fcle
  | fpsh
  | fpop
  -- Floating point skips (R107 table B1)
  | fns
  | fsa
  | fseq
  | fsne
  | fslt
  | fsge
  | fsle
  | fsgt
  | fsnm
  | fsnd
  | fsnu
  | fsnud
  | fsno
  | fsnod
  | fsnuo
  | fsner
  -- Commercial instruction set
  | ldi (fpac : Acc)
  | sti (fpac : Acc)
  | ldix
  | stix
  | cmv
  | cmp
  | ctr
  | cmt
  | edit
  | lsn
  -- I/O format (R105); the accumulator field of NIO and SKP is not used
  | nio (ac : Acc) (f : IoF) (dev : BitVec 6)
  | dia (ac : Acc) (f : IoF) (dev : BitVec 6)
  | doa (ac : Acc) (f : IoF) (dev : BitVec 6)
  | dib (ac : Acc) (f : IoF) (dev : BitVec 6)
  | dob (ac : Acc) (f : IoF) (dev : BitVec 6)
  | dic (ac : Acc) (f : IoF) (dev : BitVec 6)
  | doc (ac : Acc) (f : IoF) (dev : BitVec 6)
  | skp (ac : Acc) (t : IoTest) (dev : BitVec 6)
  -- Device 0o77, the CPU (49_io.md R510)
  | inten
  | intds
  | reads (ac : Acc) (f : IoF)
  | inta (ac : Acc) (f : IoF)
  | msko (ac : Acc) (f : IoF)
  | iorst (ac : Acc) (f : IoF)
  | halt (ac : Acc) (f : IoF)
  | skpCpu (t : IoTest)
  -- VECTOR: stack change bit and table address (R115)
  | vct (change : Bool) (table : Addr)
  -- Device 3, the MAP, both variants (46_map.md)
  | doaMap200 (ac : Acc)
  | doaMap230 (ac : Acc)
  | dobMap200 (ac : Acc)
  | dobMap230 (ac : Acc)
  | docMap200 (ac : Acc)
  | docMap230 (ac : Acc)
  | diaMap200 (ac : Acc)
  | diaMap230 (ac : Acc)
  | dicMap200 (ac : Acc)
  | dicMap230 (ac : Acc)
  | niopMap200
  | niopMap230
  -- Device 1, the WCS (45_xop_wcs.md R294 to R296)
  | doaWcs (ac : Acc)
  | dobWcs (ac : Acc)
  | docWcs (ac : Acc)
  -- Device 2, the ERCC (49_io.md R531 to R533), and device 0o14, the clock (R541)
  | doaErcc (ac : Acc) (f : IoF)
  | diaErcc (ac : Acc) (f : IoF)
  | dibErcc (ac : Acc) (f : IoF)
  | doaRtc (ac : Acc) (f : IoF)
  deriving DecidableEq, Repr

end Sys2Proof
end

