-- ==== Sys2Proof/WellFormed.lean ====
section
/-! DEFINITION. Which terms of Instr a word of the machine can stand for: the exclusions of
30_encoding.md R106 and R109 and the ownership of I/O words by the special rows (section 4.11). -/

namespace Sys2Proof

/-- What the meaning of a word depends on besides the word (30_encoding.md R109): the MAP variant and
whether LEF mode is in force (user mode and the LEF bit of the current user, 46_map.md R311, R337). -/
structure DecodeCtx where
  mapKind : MapKind
  lef : Bool
  deriving DecidableEq, Repr

/-- LEF mode needs a MAP (30_encoding.md R109 (a)). -/
def DecodeCtx.lefMode (c : DecodeCtx) : Bool := c.mapKind != .none && c.lef

/-- A MAP is installed, so device 3 has its special rows. -/
def DecodeCtx.hasMap (c : DecodeCtx) : Bool := c.mapKind != .none

/-- No-load with never-skip is not an arithmetic/logical instruction (30_encoding.md R106). -/
def Alu.wf (f : Alu) : Bool := !(f.noLoad && f.skip == .never)

/-- The I/O words that belong to a special row of 30_encoding.md section 4.11 or to a device row are
not the general row's; the operand is the special rows' claim on the word. -/
def ioFree (c : DecodeCtx) (owned : Bool) : Bool := !c.lefMode && !owned

/-- Device 3 owns a data transfer with F omitted when a MAP is installed (46_map.md R327). -/
def mapOwns (c : DecodeCtx) (f : IoF) (dev : BitVec 6) : Bool := c.hasMap && dev == 3 && f == .none

/-- Well-formed: some word decodes to the term in the given context. -/
def Instr.wf (c : DecodeCtx) : Instr → Bool
  | .com f => f.wf
  | .neg f => f.wf
  | .mov f => f.wf
  | .inc f => f.wf
  | .adc f => f.wf
  | .sub f => f.wf
  | .add f => f.wf
  | .and f => f.wf
  | .lef _ _ => c.lefMode
  | .lmp200 => c.mapKind == .map200
  | .lmp230 => c.mapKind == .map230
  | .nio ac f dev => ioFree c ((dev == 0o77 && ac == .a0 && (f == .start || f == .clear))
      || (c.hasMap && dev == 3 && ac == .a0 && f == .pulse))
  | .dia _ f dev => ioFree c (dev == 0o77 || dev == 2 || mapOwns c f dev)
  | .doa _ f dev => ioFree c (dev == 2 || dev == 0o14 || (dev == 1 && f == .none) || mapOwns c f dev)
  | .dib _ _ dev => ioFree c (dev == 0o77 || dev == 2)
  | .dob _ f dev => ioFree c (dev == 0o77 || (dev == 1 && f == .none) || mapOwns c f dev)
  | .dic _ f dev => ioFree c (dev == 0o77 || mapOwns c f dev)
  | .doc _ f dev => ioFree c (dev == 0o77 || (dev == 1 && f == .none) || mapOwns c f dev)
  | .skp ac _ dev => ioFree c (dev == 0o77 && ac == .a0)
  | .inta ac f => ioFree c (ac == .a0 && f == .pulse)
  | .inten | .intds | .reads _ _ | .msko _ _ | .iorst _ _ | .halt _ _ | .skpCpu _ | .vct _ _ => ioFree c false
  | .doaMap200 _ | .dobMap200 _ | .docMap200 _ | .diaMap200 _ | .dicMap200 _ | .niopMap200 =>
      c.mapKind == .map200 && !c.lef
  | .doaMap230 _ | .dobMap230 _ | .docMap230 _ | .diaMap230 _ | .dicMap230 _ | .niopMap230 =>
      c.mapKind == .map230 && !c.lef
  | .doaWcs _ | .dobWcs _ | .docWcs _ | .doaErcc _ _ | .diaErcc _ _ | .dibErcc _ _ | .doaRtc _ _ => ioFree c false
  | .jmp _ | .jsr _ | .isz _ | .dsz _ | .lda _ _ | .sta _ _ | .ejmp _ | .ejsr _ | .eisz _ | .edsz _ | .pshj _
  | .elda _ _ | .esta _ _ | .elef _ _ | .dspa _ _ | .eldb _ _ _ | .estb _ _ _ | .adi _ _ | .sbi _ _
  | .hxl _ _ | .hxr _ _ | .dhxl _ _ | .dhxr _ _ | .dad _ _ | .dsb _ _ | .ior _ _ | .xor _ _ | .anc _ _
  | .xch _ _ | .sgt _ _ | .sge _ _ | .lsh _ _ | .dlsh _ _ | .bto _ _ | .btz _ _ | .szb _ _ | .szbo _ _
  | .lob _ _ | .lrb _ _ | .cob _ _ | .ldb _ _ | .stb _ _ | .psh _ _ | .pop _ _ | .syc _ _ | .clm _ _
  | .snb _ _ | .msp _ | .xct _ | .hlv _ | .iori _ _ | .xori _ _ | .andi _ _ | .addi _ _ | .pshr | .popb
  | .bam | .popj | .rtn | .blm | .divx | .mul | .muls | .div | .divs | .rstr | .save _ | .xop _ _ _
  | .xop1 _ _ _ | .fas _ _ | .fad _ _ | .fss _ _ | .fsd _ _ | .fms _ _ | .fmd _ _ | .fds _ _ | .fdd _ _
  | .fcmp _ _ | .fmov _ _ | .fams _ _ | .famd _ _ | .fsms _ _ | .fsmd _ _ | .fmms _ _ | .fmmd _ _ | .fdms _ _
  | .fdmd _ _ | .flds _ _ | .fldd _ _ | .fsts _ _ | .fstd _ _ | .flmd _ _ | .ffmd _ _ | .flas _ _ | .ffas _ _
  | .fnom _ | .frh _ | .fab _ | .fneg _ | .fscal _ | .fexp _ | .fint _ | .fhlv _ | .fsst _ | .flst _ | .fte
  | .ftd | .fcle | .fpsh | .fpop | .fns | .fsa | .fseq | .fsne | .fslt | .fsge | .fsle | .fsgt | .fsnm
  | .fsnd | .fsnu | .fsnud | .fsno | .fsnod | .fsnuo | .fsner | .ldi _ | .sti _ | .ldix | .stix | .cmv | .cmp
  | .ctr | .cmt | .edit | .lsn => true

end Sys2Proof
end

