-- ==== Sys2Proof/Decode.lean ====
section
/-! DEFINITION. The decoder of 30_encoding.md (R100 to R116 and section 4), the encoder written from the
same tables, the bit-field helpers they use, and the order of bytes in memory. -/

namespace Sys2Proof

/-- Why a word is no instruction: the manual assigns it to nothing (30_encoding.md R108). -/
inductive DecodeError where
  | unassigned (w : Word)
  deriving DecidableEq, Repr

/-- Bits a to a+n-1 of a word, the manual's bit 0 being the leftmost (00_scope.md R6, R8). -/
def fld (w : Word) (a n : Nat) : BitVec n := w.extractLsb' (16 - (a + n)) n

/-- The high-order byte of a word, its bits 0-7 (20_memory.md R61). -/
def hiByte (w : Word) : Byte := fld w 0 8

/-- The low-order byte of a word, its bits 8-15 (20_memory.md R61). -/
def loByte (w : Word) : Byte := fld w 8 8

/-- The word of two bytes, the high-order one first (20_memory.md R61). -/
def wordOfBytes (hi lo : Byte) : Word := hi ++ lo

def accOfBits (b : BitVec 2) : Acc :=
  match b.toNat with
  | 0 => .a0
  | 1 => .a1
  | 2 => .a2
  | _ => .a3

def accBits : Acc → BitVec 2
  | .a0 => 0
  | .a1 => 1
  | .a2 => 2
  | .a3 => 3

def indexOfBits (b : BitVec 2) : Index :=
  match b.toNat with
  | 0 => .absolute
  | 1 => .relative
  | 2 => .ac2
  | _ => .ac3

def indexBits : Index → BitVec 2
  | .absolute => 0
  | .relative => 1
  | .ac2 => 2
  | .ac3 => 3

def shiftOfBits (b : BitVec 2) : AluShift :=
  match b.toNat with
  | 0 => .keep
  | 1 => .left
  | 2 => .right
  | _ => .swap

def shiftBits : AluShift → BitVec 2
  | .keep => 0
  | .left => 1
  | .right => 2
  | .swap => 3

def carryOfBits (b : BitVec 2) : AluCarry :=
  match b.toNat with
  | 0 => .keep
  | 1 => .zero
  | 2 => .one
  | _ => .complement

def carryBits : AluCarry → BitVec 2
  | .keep => 0
  | .zero => 1
  | .one => 2
  | .complement => 3

def skipOfBits (b : BitVec 3) : AluSkip :=
  match b.toNat with
  | 0 => .never
  | 1 => .always
  | 2 => .szc
  | 3 => .snc
  | 4 => .szr
  | 5 => .snr
  | 6 => .sez
  | _ => .sbn

def skipBits : AluSkip → BitVec 3
  | .never => 0
  | .always => 1
  | .szc => 2
  | .snc => 3
  | .szr => 4
  | .snr => 5
  | .sez => 6
  | .sbn => 7

def ioFOfBits (b : BitVec 2) : IoF :=
  match b.toNat with
  | 0 => .none
  | 1 => .start
  | 2 => .clear
  | _ => .pulse

def ioFBits : IoF → BitVec 2
  | .none => 0
  | .start => 1
  | .clear => 2
  | .pulse => 3

def ioTestOfBits (b : BitVec 2) : IoTest :=
  match b.toNat with
  | 0 => .bn
  | 1 => .bz
  | 2 => .dn
  | _ => .dz

def ioTestBits : IoTest → BitVec 2
  | .bn => 0
  | .bz => 1
  | .dn => 2
  | .dz => 3

/-- The operand fields of a short class word (30_encoding.md R103). -/
def shortMem (w : Word) : ShortMem :=
  { ind := (fld w 5 1 == 1), index := indexOfBits (fld w 6 2), disp := fld w 8 8 }

/-- The operand of an extended class instruction (30_encoding.md R104). -/
def extMem (ix : BitVec 2) (w2 : Word) : ExtMem :=
  { index := indexOfBits ix, ind := (fld w2 0 1 == 1), disp := fld w2 1 15 }

/-- Table A1 of 30_encoding.md R107: the rows without operand fields, selected by bits 1-4. -/
def decodeNoOperand (w w2 : Word) : Except DecodeError Instr :=
  match (fld w 1 4).toNat with
  | 0 => .ok .pshr
  | 1 => .ok .popb
  | 2 => .ok .bam
  | 3 => .ok .popj
  | 5 => .ok .rtn
  | 6 => .ok .blm
  | 7 => .ok .divx
  | 8 => .ok .mul
  | 9 => .ok .muls
  | 10 => .ok .div
  | 11 => .ok .divs
  | 12 => .ok (.save w2)
  | 13 => .ok .rstr
  | _ => .error (.unassigned w)

/-- LOAD MAP needs a MAP unit (46_map.md R306, R330); without one the word has no meaning. -/
def decodeLmp (c : DecodeCtx) (w : Word) : Except DecodeError Instr :=
  if fld w 1 4 = 2 then
    match c.mapKind with
    | .none => .error (.unassigned w)
    | .map200 => .ok .lmp200
    | .map230 => .ok .lmp230
  else .error (.unassigned w)

/-- Table A of 30_encoding.md R107, tail 001000, selected by bits 5-9. -/
def decodeTableA (c : DecodeCtx) (w w2 : Word) : Except DecodeError Instr :=
  let s := accOfBits (fld w 1 2)
  let d := accOfBits (fld w 3 2)
  match (fld w 5 5).toNat with
  | 0 => .ok (.adi (fld w 1 2) d)
  | 1 => .ok (.sbi (fld w 1 2) d)
  | 2 => .ok (.dad s d)
  | 3 => .ok (.dsb s d)
  | 4 => .ok (.ior s d)
  | 5 => .ok (.xor s d)
  | 6 => .ok (.anc s d)
  | 7 => .ok (.xch s d)
  | 8 => .ok (.sgt s d)
  | 9 => .ok (.sge s d)
  | 10 => .ok (.lsh s d)
  | 11 => .ok (.dlsh s d)
  | 12 => .ok (.hxl (fld w 1 2) d)
  | 13 => .ok (.hxr (fld w 1 2) d)
  | 14 => .ok (.dhxl (fld w 1 2) d)
  | 15 => .ok (.dhxr (fld w 1 2) d)
  | 16 => .ok (.bto s d)
  | 17 => .ok (.btz s d)
  | 18 => .ok (.szb s d)
  | 19 => .ok (.szbo s d)
  | 20 => .ok (.lob s d)
  | 21 => .ok (.lrb s d)
  | 22 => .ok (.cob s d)
  | 23 => .ok (.ldb s d)
  | 24 => .ok (.stb s d)
  | 25 => .ok (.psh s d)
  | 26 => .ok (.pop s d)
  | 28 => decodeLmp c w
  | 29 => .ok (.syc s d)
  | 31 => decodeNoOperand w w2
  | _ => .error (.unassigned w)

/-- Table B1 of 30_encoding.md R107: the floating point skips, selected by bits 1-4. -/
def decodeFloatSkip (w : Word) : Except DecodeError Instr :=
  match (fld w 1 4).toNat with
  | 0 => .ok .fns
  | 1 => .ok .fsa
  | 2 => .ok .fseq
  | 3 => .ok .fsne
  | 4 => .ok .fslt
  | 5 => .ok .fsge
  | 6 => .ok .fsle
  | 7 => .ok .fsgt
  | 8 => .ok .fsnm
  | 9 => .ok .fsnd
  | 10 => .ok .fsnu
  | 11 => .ok .fsnud
  | 12 => .ok .fsno
  | 13 => .ok .fsnod
  | 14 => .ok .fsnuo
  | _ => .ok .fsner

/-- Selector 11011 of table B: floating point status and control. The index bits of FSST and FLST are bits 3-4, as R104, R392 and
R393 have them; the last list of 20_memory.md R78 says bits 1-2 and no ruling decides: the model's choice (log entry 50). -/
def decodeFloatStatus (w w2 : Word) : Except DecodeError Instr :=
  match (fld w 1 4).toNat with
  | 0 | 1 | 2 | 3 => .ok (.fsst (extMem (fld w 3 2) w2))
  | 4 | 5 | 6 | 7 => .ok (.flst (extMem (fld w 3 2) w2))
  | 8 => .ok .fte
  | 9 => .ok .ftd
  | 10 => .ok .fcle
  | 12 => .ok .fpsh
  | 13 => .ok .fpop
  | _ => .error (.unassigned w)

/-- Selector 11110 of table B: the commercial rows. -/
def decodeCommercial (w : Word) : Instr :=
  match (fld w 1 4).toNat with
  | 0 | 1 | 2 | 3 => .ldi (accOfBits (fld w 3 2))
  | 4 | 5 | 6 | 7 => .sti (accOfBits (fld w 3 2))
  | 8 => .ldix
  | 9 => .stix
  | 10 => .cmv
  | 11 => .cmp
  | 12 => .ctr
  | 13 => .cmt
  | 14 => .edit
  | _ => .lsn

/-- Table B of 30_encoding.md R107, tail 101000, selected by bits 5-9. -/
def decodeTableB (w w2 : Word) : Except DecodeError Instr :=
  let x := accOfBits (fld w 1 2)
  let f := accOfBits (fld w 3 2)
  let m := extMem (fld w 1 2) w2
  match (fld w 5 5).toNat with
  | 0 => .ok (.fas x f)
  | 1 => .ok (.fad x f)
  | 2 => .ok (.fss x f)
  | 3 => .ok (.fsd x f)
  | 4 => .ok (.fms x f)
  | 5 => .ok (.fmd x f)
  | 6 => .ok (.fds x f)
  | 7 => .ok (.fdd x f)
  | 8 => .ok (.fams f m)
  | 9 => .ok (.famd f m)
  | 10 => .ok (.fsms f m)
  | 11 => .ok (.fsmd f m)
  | 12 => .ok (.fmms f m)
  | 13 => .ok (.fmmd f m)
  | 14 => .ok (.fdms f m)
  | 15 => .ok (.fdmd f m)
  | 16 => .ok (.flds f m)
  | 17 => .ok (.fldd f m)
  | 18 => .ok (.fsts f m)
  | 19 => .ok (.fstd f m)
  | 20 => .ok (.flas x f)
  | 21 => .ok (.flmd f m)
  | 22 => .ok (.ffas x f)
  | 23 => .ok (.ffmd f m)
  | 24 => .ok (match x with | .a0 => .fnom f | .a1 => .frh f | .a2 => .fab f | .a3 => .fneg f)
  | 25 => .ok (match x with | .a0 => .fscal f | .a1 => .fexp f | .a2 => .fint f | .a3 => .fhlv f)
  | 26 => decodeFloatSkip w
  | 27 => decodeFloatStatus w w2
  | 28 => .ok (.fcmp x f)
  | 29 => .ok (.fmov x f)
  | 30 => .ok (decodeCommercial w)
  | _ => .error (.unassigned w)

/-- Table C of 30_encoding.md R107 (tail 111000 with bit 5 = 1), selected by bits 8-9. -/
def decodeTableC (w w2 : Word) : Except DecodeError Instr :=
  let x := fld w 1 2
  let a := accOfBits (fld w 3 2)
  let m := extMem (fld w 6 2) w2
  match (fld w 8 2).toNat with
  | 0 =>
    match x.toNat with
    | 0 => .ok (match a with | .a0 => .ejmp m | .a1 => .ejsr m | .a2 => .eisz m | .a3 => .edsz m)
    | 1 => .ok (.elda a m)
    | 2 => .ok (.esta a m)
    | _ => .ok (.elef a m)
  | 1 =>
    match x.toNat with
    | 0 => .ok (.eldb a (indexOfBits (fld w 6 2)) w2)
    | 1 => .ok (.estb a (indexOfBits (fld w 6 2)) w2)
    | 2 => .ok (.dspa a m)
    | _ => .error (.unassigned w)
  | 2 => if fld w 1 4 = 0 then .ok (.pshj m) else .error (.unassigned w)
  | _ =>
    match (fld w 6 2).toNat with
    | 0 => .ok (.clm (accOfBits x) a)
    | 1 => .ok (.snb (accOfBits x) a)
    | 2 =>
      match x.toNat with
      | 0 => .ok (.msp a)
      | 1 => .ok (.xct a)
      | 2 => .ok (.hlv a)
      | _ => .error (.unassigned w)
    | _ =>
      match x.toNat with
      | 0 => .ok (.iori a w2)
      | 1 => .ok (.xori a w2)
      | 2 => .ok (.andi a w2)
      | _ => .ok (.addi a w2)

/-- The ECLIPSE extension space (30_encoding.md R106, R107), selected by bits 10-11 and bit 5. -/
def decodeExtension (c : DecodeCtx) (w w2 : Word) : Except DecodeError Instr :=
  match (fld w 10 2).toNat with
  | 0 => decodeTableA c w w2
  | 1 => .ok (.xop (accOfBits (fld w 1 2)) (accOfBits (fld w 3 2)) (fld w 5 5))
  | 2 => decodeTableB w w2
  | _ =>
    if fld w 5 1 = 0 then .ok (.xop1 (accOfBits (fld w 1 2)) (accOfBits (fld w 3 2)) (fld w 6 4))
    else decodeTableC w w2

/-- The arithmetic/logical class (30_encoding.md R102). -/
def decodeAlu (w : Word) : Instr :=
  let f : Alu := { acs := accOfBits (fld w 1 2), acd := accOfBits (fld w 3 2),
                   shift := shiftOfBits (fld w 8 2), carry := carryOfBits (fld w 10 2),
                   noLoad := (fld w 12 1 == 1), skip := skipOfBits (fld w 13 3) }
  match (fld w 5 3).toNat with
  | 0 => .com f
  | 1 => .neg f
  | 2 => .mov f
  | 3 => .inc f
  | 4 => .adc f
  | 5 => .sub f
  | 6 => .add f
  | _ => .and f

/-- I/O words of device 0o77 (30_encoding.md section 4.11; 49_io.md R510): `none` where no special row
owns the word. -/
def decodeCpuIo (op : Nat) (ac : Acc) (f : BitVec 2) (w2 : Word) : Option Instr :=
  match op with
  | 0 => if ac = .a0 ∧ f = 1 then some .inten else if ac = .a0 ∧ f = 2 then some .intds else none
  | 1 => some (.reads ac (ioFOfBits f))
  | 3 => if ac = .a0 ∧ f = 3 then some (.vct (fld w2 0 1 == 1) (fld w2 1 15)) else some (.inta ac (ioFOfBits f))
  | 4 => some (.msko ac (ioFOfBits f))
  | 5 => some (.iorst ac (ioFOfBits f))
  | 6 => some (.halt ac (ioFOfBits f))
  | 7 => if ac = .a0 then some (.skpCpu (ioTestOfBits f)) else none
  | _ => none

/-- I/O words of device 3 that the MAP of the S/200 and C/300 defines (46_map.md R327). -/
def decodeMap200Io (op : Nat) (ac : Acc) (f : BitVec 2) : Option Instr :=
  match op with
  | 0 => if ac = .a0 ∧ f = 3 then some .niopMap200 else none
  | 1 => if f = 0 then some (.diaMap200 ac) else none
  | 2 => if f = 0 then some (.doaMap200 ac) else none
  | 4 => if f = 0 then some (.dobMap200 ac) else none
  | 5 => if f = 0 then some (.dicMap200 ac) else none
  | 6 => if f = 0 then some (.docMap200 ac) else none
  | _ => none

/-- I/O words of device 3 that the MAP of the S/230 and C/330 defines (46_map.md R327). -/
def decodeMap230Io (op : Nat) (ac : Acc) (f : BitVec 2) : Option Instr :=
  match op with
  | 0 => if ac = .a0 ∧ f = 3 then some .niopMap230 else none
  | 1 => if f = 0 then some (.diaMap230 ac) else none
  | 2 => if f = 0 then some (.doaMap230 ac) else none
  | 4 => if f = 0 then some (.dobMap230 ac) else none
  | 5 => if f = 0 then some (.dicMap230 ac) else none
  | 6 => if f = 0 then some (.docMap230 ac) else none
  | _ => none

/-- I/O words of device 1 (45_xop_wcs.md R294 to R296). -/
def decodeWcsIo (op : Nat) (ac : Acc) (f : BitVec 2) : Option Instr :=
  match op with
  | 2 => if f = 0 then some (.doaWcs ac) else none
  | 4 => if f = 0 then some (.dobWcs ac) else none
  | 6 => if f = 0 then some (.docWcs ac) else none
  | _ => none

/-- I/O words of device 2 (49_io.md R531 to R533). -/
def decodeErccIo (op : Nat) (ac : Acc) (f : BitVec 2) : Option Instr :=
  match op with
  | 1 => some (.diaErcc ac (ioFOfBits f))
  | 2 => some (.doaErcc ac (ioFOfBits f))
  | 3 => some (.dibErcc ac (ioFOfBits f))
  | _ => none

/-- The special row that owns an I/O word, tested before the general rows (30_encoding.md R109 (e)). -/
def decodeDeviceIo (c : DecodeCtx) (op : Nat) (ac : Acc) (f : BitVec 2) (dev : BitVec 6) (w2 : Word) :
    Option Instr :=
  match dev.toNat with
  | 63 => decodeCpuIo op ac f w2
  | 3 =>
    match c.mapKind with
    | .none => none
    | .map200 => decodeMap200Io op ac f
    | .map230 => decodeMap230Io op ac f
  | 1 => decodeWcsIo op ac f
  | 2 => decodeErccIo op ac f
  | 12 => if op = 2 then some (.doaRtc ac (ioFOfBits f)) else none
  | _ => none

/-- The eight general I/O rows (30_encoding.md R105). -/
def decodeGeneralIo (op : Nat) (ac : Acc) (f : BitVec 2) (dev : BitVec 6) : Instr :=
  match op with
  | 0 => .nio ac (ioFOfBits f) dev
  | 1 => .dia ac (ioFOfBits f) dev
  | 2 => .doa ac (ioFOfBits f) dev
  | 3 => .dib ac (ioFOfBits f) dev
  | 4 => .dob ac (ioFOfBits f) dev
  | 5 => .dic ac (ioFOfBits f) dev
  | 6 => .doc ac (ioFOfBits f) dev
  | _ => .skp ac (ioTestOfBits f) dev

/-- An I/O format word (30_encoding.md R105). -/
def decodeIo (c : DecodeCtx) (w w2 : Word) : Instr :=
  let op := (fld w 5 3).toNat
  let ac := accOfBits (fld w 3 2)
  let f := fld w 8 2
  let dev := fld w 10 6
  match decodeDeviceIo c op ac f dev w2 with
  | some i => i
  | none => decodeGeneralIo op ac f dev

/-- The decoder (30_encoding.md R101, R109): the instruction a first word and the word after it stand
for in a context. Total; a word that the manual assigns to nothing is refused by name (R108). The second
word is used by the two-word rows only. -/
def decode (c : DecodeCtx) (w w2 : Word) : Except DecodeError Instr :=
  match (fld w 0 3).toNat with
  | 0 =>
    .ok (match (fld w 3 2).toNat with
      | 0 => .jmp (shortMem w)
      | 1 => .jsr (shortMem w)
      | 2 => .isz (shortMem w)
      | _ => .dsz (shortMem w))
  | 1 => .ok (.lda (accOfBits (fld w 3 2)) (shortMem w))
  | 2 => .ok (.sta (accOfBits (fld w 3 2)) (shortMem w))
  | 3 => if c.lefMode then .ok (.lef (accOfBits (fld w 3 2)) (shortMem w)) else .ok (decodeIo c w w2)
  | _ => if fld w 12 4 = 8 then decodeExtension c w w2 else .ok (decodeAlu w)

/-! ### The encoder -/

/-- One bit from a truth value. -/
def bitOf (b : Bool) : BitVec 1 := if b then 1 else 0

/-- An arithmetic/logical word (30_encoding.md R102). -/
def aluWord (op : BitVec 3) (f : Alu) : Word :=
  1#1 ++ accBits f.acs ++ accBits f.acd ++ op ++ shiftBits f.shift ++ carryBits f.carry ++ bitOf f.noLoad ++
    skipBits f.skip

/-- A short class word (30_encoding.md R103). -/
def shortWord (op : BitVec 3) (ac : BitVec 2) (m : ShortMem) : Word :=
  op ++ ac ++ bitOf m.ind ++ indexBits m.index ++ m.disp

/-- A word of table A (30_encoding.md R107). -/
def tableAWord (x y : BitVec 2) (sel : BitVec 5) : Word := 1#1 ++ x ++ y ++ sel ++ 0x08#6

/-- A word of table B (30_encoding.md R107). -/
def tableBWord (x y : BitVec 2) (sel : BitVec 5) : Word := 1#1 ++ x ++ y ++ sel ++ 0x28#6

/-- A word of table C (30_encoding.md R107). -/
def tableCWord (x y ix sel : BitVec 2) : Word := 1#1 ++ x ++ y ++ 1#1 ++ ix ++ sel ++ 0x38#6

/-- An I/O word (30_encoding.md R105; 49_io.md R500). -/
def ioWord (ac : Acc) (op : BitVec 3) (f : BitVec 2) (dev : BitVec 6) : Word :=
  3#3 ++ accBits ac ++ op ++ f ++ dev

/-- The second word of an extended class instruction (30_encoding.md R104). -/
def extWord (m : ExtMem) : Word := bitOf m.ind ++ m.disp

/-- The first word of an instruction (the patterns of 30_encoding.md section 4). -/
def encode1 : Instr → Word
  | .com f => aluWord 0 f
  | .neg f => aluWord 1 f
  | .mov f => aluWord 2 f
  | .inc f => aluWord 3 f
  | .adc f => aluWord 4 f
  | .sub f => aluWord 5 f
  | .add f => aluWord 6 f
  | .and f => aluWord 7 f
  | .jmp m => shortWord 0 0 m
  | .jsr m => shortWord 0 1 m
  | .isz m => shortWord 0 2 m
  | .dsz m => shortWord 0 3 m
  | .lda ac m => shortWord 1 (accBits ac) m
  | .sta ac m => shortWord 2 (accBits ac) m
  | .lef ac m => shortWord 3 (accBits ac) m
  | .ejmp m => tableCWord 0 0 (indexBits m.index) 0
  | .ejsr m => tableCWord 0 1 (indexBits m.index) 0
  | .eisz m => tableCWord 0 2 (indexBits m.index) 0
  | .edsz m => tableCWord 0 3 (indexBits m.index) 0
  | .pshj m => tableCWord 0 0 (indexBits m.index) 2
  | .elda ac m => tableCWord 1 (accBits ac) (indexBits m.index) 0
  | .esta ac m => tableCWord 2 (accBits ac) (indexBits m.index) 0
  | .elef ac m => tableCWord 3 (accBits ac) (indexBits m.index) 0
  | .dspa ac m => tableCWord 2 (accBits ac) (indexBits m.index) 1
  | .eldb ac ix _ => tableCWord 0 (accBits ac) (indexBits ix) 1
  | .estb ac ix _ => tableCWord 1 (accBits ac) (indexBits ix) 1
  | .adi n ac => tableAWord n (accBits ac) 0
  | .sbi n ac => tableAWord n (accBits ac) 1
  | .dad s d => tableAWord (accBits s) (accBits d) 2
  | .dsb s d => tableAWord (accBits s) (accBits d) 3
  | .ior s d => tableAWord (accBits s) (accBits d) 4
  | .xor s d => tableAWord (accBits s) (accBits d) 5
  | .anc s d => tableAWord (accBits s) (accBits d) 6
  | .xch s d => tableAWord (accBits s) (accBits d) 7
  | .sgt s d => tableAWord (accBits s) (accBits d) 8
  | .sge s d => tableAWord (accBits s) (accBits d) 9
  | .lsh s d => tableAWord (accBits s) (accBits d) 10
  | .dlsh s d => tableAWord (accBits s) (accBits d) 11
  | .hxl n ac => tableAWord n (accBits ac) 12
  | .hxr n ac => tableAWord n (accBits ac) 13
  | .dhxl n ac => tableAWord n (accBits ac) 14
  | .dhxr n ac => tableAWord n (accBits ac) 15
  | .bto s d => tableAWord (accBits s) (accBits d) 16
  | .btz s d => tableAWord (accBits s) (accBits d) 17
  | .szb s d => tableAWord (accBits s) (accBits d) 18
  | .szbo s d => tableAWord (accBits s) (accBits d) 19
  | .lob s d => tableAWord (accBits s) (accBits d) 20
  | .lrb s d => tableAWord (accBits s) (accBits d) 21
  | .cob s d => tableAWord (accBits s) (accBits d) 22
  | .ldb s d => tableAWord (accBits s) (accBits d) 23
  | .stb s d => tableAWord (accBits s) (accBits d) 24
  | .psh s d => tableAWord (accBits s) (accBits d) 25
  | .pop s d => tableAWord (accBits s) (accBits d) 26
  | .syc s d => tableAWord (accBits s) (accBits d) 29
  | .clm s d => tableCWord (accBits s) (accBits d) 0 3
  | .snb s d => tableCWord (accBits s) (accBits d) 1 3
  | .msp ac => tableCWord 0 (accBits ac) 2 3
  | .xct ac => tableCWord 1 (accBits ac) 2 3
  | .hlv ac => tableCWord 2 (accBits ac) 2 3
  | .iori ac _ => tableCWord 0 (accBits ac) 3 3
  | .xori ac _ => tableCWord 1 (accBits ac) 3 3
  | .andi ac _ => tableCWord 2 (accBits ac) 3 3
  | .addi ac _ => tableCWord 3 (accBits ac) 3 3
  | .pshr => tableAWord 0 0 31
  | .popb => tableAWord 0 1 31
  | .bam => tableAWord 0 2 31
  | .popj => tableAWord 0 3 31
  | .rtn => tableAWord 1 1 31
  | .blm => tableAWord 1 2 31
  | .divx => tableAWord 1 3 31
  | .mul => tableAWord 2 0 31
  | .muls => tableAWord 2 1 31
  | .div => tableAWord 2 2 31
  | .divs => tableAWord 2 3 31
  | .save _ => tableAWord 3 0 31
  | .rstr => tableAWord 3 1 31
  | .lmp200 => tableAWord 0 2 28
  | .lmp230 => tableAWord 0 2 28
  | .xop s d p => 1#1 ++ accBits s ++ accBits d ++ p ++ 0x18#6
  | .xop1 s d p => 1#1 ++ accBits s ++ accBits d ++ 0#1 ++ p ++ 0x38#6
  | .fas s d => tableBWord (accBits s) (accBits d) 0
  | .fad s d => tableBWord (accBits s) (accBits d) 1
  | .fss s d => tableBWord (accBits s) (accBits d) 2
  | .fsd s d => tableBWord (accBits s) (accBits d) 3
  | .fms s d => tableBWord (accBits s) (accBits d) 4
  | .fmd s d => tableBWord (accBits s) (accBits d) 5
  | .fds s d => tableBWord (accBits s) (accBits d) 6
  | .fdd s d => tableBWord (accBits s) (accBits d) 7
  | .fams f m => tableBWord (indexBits m.index) (accBits f) 8
  | .famd f m => tableBWord (indexBits m.index) (accBits f) 9
  | .fsms f m => tableBWord (indexBits m.index) (accBits f) 10
  | .fsmd f m => tableBWord (indexBits m.index) (accBits f) 11
  | .fmms f m => tableBWord (indexBits m.index) (accBits f) 12
  | .fmmd f m => tableBWord (indexBits m.index) (accBits f) 13
  | .fdms f m => tableBWord (indexBits m.index) (accBits f) 14
  | .fdmd f m => tableBWord (indexBits m.index) (accBits f) 15
  | .flds f m => tableBWord (indexBits m.index) (accBits f) 16
  | .fldd f m => tableBWord (indexBits m.index) (accBits f) 17
  | .fsts f m => tableBWord (indexBits m.index) (accBits f) 18
  | .fstd f m => tableBWord (indexBits m.index) (accBits f) 19
  | .flas ac f => tableBWord (accBits ac) (accBits f) 20
  | .flmd f m => tableBWord (indexBits m.index) (accBits f) 21
  | .ffas ac f => tableBWord (accBits ac) (accBits f) 22
  | .ffmd f m => tableBWord (indexBits m.index) (accBits f) 23
  | .fnom f => tableBWord 0 (accBits f) 24
  | .frh f => tableBWord 1 (accBits f) 24
  | .fab f => tableBWord 2 (accBits f) 24
  | .fneg f => tableBWord 3 (accBits f) 24
  | .fscal f => tableBWord 0 (accBits f) 25
  | .fexp f => tableBWord 1 (accBits f) 25
  | .fint f => tableBWord 2 (accBits f) 25
  | .fhlv f => tableBWord 3 (accBits f) 25
  | .fns => tableBWord 0 0 26
  | .fsa => tableBWord 0 1 26
  | .fseq => tableBWord 0 2 26
  | .fsne => tableBWord 0 3 26
  | .fslt => tableBWord 1 0 26
  | .fsge => tableBWord 1 1 26
  | .fsle => tableBWord 1 2 26
  | .fsgt => tableBWord 1 3 26
  | .fsnm => tableBWord 2 0 26
  | .fsnd => tableBWord 2 1 26
  | .fsnu => tableBWord 2 2 26
  | .fsnud => tableBWord 2 3 26
  | .fsno => tableBWord 3 0 26
  | .fsnod => tableBWord 3 1 26
  | .fsnuo => tableBWord 3 2 26
  | .fsner => tableBWord 3 3 26
  | .fsst m => tableBWord 0 (indexBits m.index) 27
  | .flst m => tableBWord 1 (indexBits m.index) 27
  | .fte => tableBWord 2 0 27
  | .ftd => tableBWord 2 1 27
  | .fcle => tableBWord 2 2 27
  | .fpsh => tableBWord 3 0 27
  | .fpop => tableBWord 3 1 27
  | .fcmp s d => tableBWord (accBits s) (accBits d) 28
  | .fmov s d => tableBWord (accBits s) (accBits d) 29
  | .ldi f => tableBWord 0 (accBits f) 30
  | .sti f => tableBWord 1 (accBits f) 30
  | .ldix => tableBWord 2 0 30
  | .stix => tableBWord 2 1 30
  | .cmv => tableBWord 2 2 30
  | .cmp => tableBWord 2 3 30
  | .ctr => tableBWord 3 0 30
  | .cmt => tableBWord 3 1 30
  | .edit => tableBWord 3 2 30
  | .lsn => tableBWord 3 3 30
  | .nio ac f dev => ioWord ac 0 (ioFBits f) dev
  | .dia ac f dev => ioWord ac 1 (ioFBits f) dev
  | .doa ac f dev => ioWord ac 2 (ioFBits f) dev
  | .dib ac f dev => ioWord ac 3 (ioFBits f) dev
  | .dob ac f dev => ioWord ac 4 (ioFBits f) dev
  | .dic ac f dev => ioWord ac 5 (ioFBits f) dev
  | .doc ac f dev => ioWord ac 6 (ioFBits f) dev
  | .skp ac t dev => ioWord ac 7 (ioTestBits t) dev
  | .inten => ioWord .a0 0 1 0o77
  | .intds => ioWord .a0 0 2 0o77
  | .reads ac f => ioWord ac 1 (ioFBits f) 0o77
  | .inta ac f => ioWord ac 3 (ioFBits f) 0o77
  | .msko ac f => ioWord ac 4 (ioFBits f) 0o77
  | .iorst ac f => ioWord ac 5 (ioFBits f) 0o77
  | .halt ac f => ioWord ac 6 (ioFBits f) 0o77
  | .skpCpu t => ioWord .a0 7 (ioTestBits t) 0o77
  | .vct _ _ => ioWord .a0 3 3 0o77
  | .doaMap200 ac => ioWord ac 2 0 3
  | .dobMap200 ac => ioWord ac 4 0 3
  | .docMap200 ac => ioWord ac 6 0 3
  | .diaMap200 ac => ioWord ac 1 0 3
  | .dicMap200 ac => ioWord ac 5 0 3
  | .niopMap200 => ioWord .a0 0 3 3
  | .doaMap230 ac => ioWord ac 2 0 3
  | .dobMap230 ac => ioWord ac 4 0 3
  | .docMap230 ac => ioWord ac 6 0 3
  | .diaMap230 ac => ioWord ac 1 0 3
  | .dicMap230 ac => ioWord ac 5 0 3
  | .niopMap230 => ioWord .a0 0 3 3
  | .doaWcs ac => ioWord ac 2 0 1
  | .dobWcs ac => ioWord ac 4 0 1
  | .docWcs ac => ioWord ac 6 0 1
  | .doaErcc ac f => ioWord ac 2 (ioFBits f) 2
  | .diaErcc ac f => ioWord ac 1 (ioFBits f) 2
  | .dibErcc ac f => ioWord ac 3 (ioFBits f) 2
  | .doaRtc ac f => ioWord ac 2 (ioFBits f) 0o14

/-- The second word of a two-word instruction (30_encoding.md R100, R104, R112, R113, R115). -/
def secondWord : Instr → Option Word
  | .ejmp m => some (extWord m)
  | .ejsr m => some (extWord m)
  | .eisz m => some (extWord m)
  | .edsz m => some (extWord m)
  | .pshj m => some (extWord m)
  | .fsst m => some (extWord m)
  | .flst m => some (extWord m)
  | .elda _ m => some (extWord m)
  | .esta _ m => some (extWord m)
  | .elef _ m => some (extWord m)
  | .dspa _ m => some (extWord m)
  | .fams _ m => some (extWord m)
  | .famd _ m => some (extWord m)
  | .fsms _ m => some (extWord m)
  | .fsmd _ m => some (extWord m)
  | .fmms _ m => some (extWord m)
  | .fmmd _ m => some (extWord m)
  | .fdms _ m => some (extWord m)
  | .fdmd _ m => some (extWord m)
  | .flds _ m => some (extWord m)
  | .fldd _ m => some (extWord m)
  | .fsts _ m => some (extWord m)
  | .fstd _ m => some (extWord m)
  | .flmd _ m => some (extWord m)
  | .ffmd _ m => some (extWord m)
  | .eldb _ _ d => some d
  | .estb _ _ d => some d
  | .iori _ i => some i
  | .xori _ i => some i
  | .andi _ i => some i
  | .addi _ i => some i
  | .save n => some n
  | .vct c t => some ((if c then 1#1 else 0#1) ++ t)
  | .com _ | .neg _ | .mov _ | .inc _ | .adc _ | .sub _ | .add _ | .and _ | .jmp _ | .jsr _ | .isz _ | .dsz _
  | .lda _ _ | .sta _ _ | .lef _ _ | .adi _ _ | .sbi _ _ | .hxl _ _ | .hxr _ _ | .dhxl _ _ | .dhxr _ _
  | .dad _ _ | .dsb _ _ | .ior _ _ | .xor _ _ | .anc _ _ | .xch _ _ | .sgt _ _ | .sge _ _ | .lsh _ _
  | .dlsh _ _ | .bto _ _ | .btz _ _ | .szb _ _ | .szbo _ _ | .lob _ _ | .lrb _ _ | .cob _ _ | .ldb _ _
  | .stb _ _ | .psh _ _ | .pop _ _ | .syc _ _ | .clm _ _ | .snb _ _ | .msp _ | .xct _ | .hlv _ | .pshr
  | .popb | .bam | .popj | .rtn | .blm | .divx | .mul | .muls | .div | .divs | .rstr | .lmp200 | .lmp230
  | .xop _ _ _ | .xop1 _ _ _ | .fas _ _ | .fad _ _ | .fss _ _ | .fsd _ _ | .fms _ _ | .fmd _ _ | .fds _ _
  | .fdd _ _ | .fcmp _ _ | .fmov _ _ | .flas _ _ | .ffas _ _ | .fnom _ | .frh _ | .fab _ | .fneg _ | .fscal _
  | .fexp _ | .fint _ | .fhlv _ | .fte | .ftd | .fcle | .fpsh | .fpop | .fns | .fsa | .fseq | .fsne | .fslt
  | .fsge | .fsle | .fsgt | .fsnm | .fsnd | .fsnu | .fsnud | .fsno | .fsnod | .fsnuo | .fsner | .ldi _
  | .sti _ | .ldix | .stix | .cmv | .cmp | .ctr | .cmt | .edit | .lsn | .nio _ _ _ | .dia _ _ _ | .doa _ _ _
  | .dib _ _ _ | .dob _ _ _ | .dic _ _ _ | .doc _ _ _ | .skp _ _ _ | .inten | .intds | .reads _ _ | .inta _ _
  | .msko _ _ | .iorst _ _ | .halt _ _ | .skpCpu _ | .doaMap200 _ | .doaMap230 _ | .dobMap200 _
  | .dobMap230 _ | .docMap200 _ | .docMap230 _ | .diaMap200 _ | .diaMap230 _ | .dicMap200 _ | .dicMap230 _
  | .niopMap200 | .niopMap230 | .doaWcs _ | .dobWcs _ | .docWcs _ | .doaErcc _ _ | .diaErcc _ _
  | .dibErcc _ _ | .doaRtc _ _ => none

/-- The words of a well-formed instruction (30_encoding.md R100). -/
def encode (i : Instr) : List Word :=
  match secondWord i with
  | none => [encode1 i]
  | some w2 => [encode1 i, w2]

/-- The instruction occupies two words (30_encoding.md R100). -/
def Instr.twoWords (i : Instr) : Bool := (secondWord i).isSome

/-- Whether the first word alone says that a second one belongs to the instruction (30_encoding.md R100). -/
def fetchesSecond (c : DecodeCtx) (w : Word) : Bool :=
  match decode c w 0 with
  | .ok i => i.twoWords
  | .error _ => false

/-- Decode the bytes of an instruction as they lie in memory, high-order byte of each word first
(20_memory.md R61); missing bytes read as 0. -/
def decodeBytes (c : DecodeCtx) : List Byte → Except DecodeError Instr
  | b0 :: b1 :: b2 :: b3 :: _ => decode c (wordOfBytes b0 b1) (wordOfBytes b2 b3)
  | b0 :: b1 :: _ => decode c (wordOfBytes b0 b1) 0
  | _ => .error (.unassigned 0)

/-- The bytes of an instruction whose bits are `w` as spec/opcode_table.json numbers them: the first word
in bits 15..0, the second in bits 31..16; bits from `nbits` up are 0. -/
def tableBytes (nbits w : Nat) : List Byte :=
  let v := w % 2 ^ nbits
  let w1 : Word := BitVec.ofNat 16 v
  let w2 : Word := BitVec.ofNat 16 (v / 65536)
  [hiByte w1, loByte w1, hiByte w2, loByte w2]

/-- The context right after reset: the MAP variant of the configuration State.reset holds (log entry 4),
supervisor mode. -/
def resetCtx : DecodeCtx := { mapKind := .map230, lef := false }

/-- The instruction the decoder reads from an instruction numbered as spec/opcode_table.json numbers it. -/
def decodeTableWord (nbits w : Nat) : Option Instr :=
  match decodeBytes resetCtx (tableBytes nbits w) with
  | .ok i => some i
  | .error _ => none

end Sys2Proof
end

