-- ==== Sys2Proof/Machine/State.lean ====
section
/-! DEFINITION. The state of the machine as plain data (10_state.md), the reasons a step can stop with,
and the machine after reset (10_state.md R45, RESET and power-up columns). -/

namespace Sys2Proof.Machine

/-- Main memory as (byte address, byte) pairs: byte 2w is bits 0-7 of physical word w and byte 2w+1 its
bits 8-15 (20_memory.md R60, R61). Addresses strictly rise and no listed byte is 0 (log entry 1). -/
abbrev Memory := List Host.Cell

/-- The user of a user map (46_map.md R302). -/
inductive User where
  | a
  | b
  deriving DecidableEq, Repr

/-- A one-instruction hold on interrupts (60_exceptions.md R577): `fresh` from the instruction that sets
it to that instruction's end, `armed` during the next instruction. -/
inductive Hold where
  | idle
  | fresh
  | armed
  deriving DecidableEq, Repr

/-- An entry of a user map or data channel map (10_state.md R33, R34). `map200` uses no validity bits and
seven bits of the block number. -/
structure MapEntry where
  wp : Bool
  val : BitVec 2
  phys : BitVec 8
  deriving DecidableEq, Repr

/-- The protection enables (10_state.md R33 USTAT, R34 STATUS; `map230` has no DCHP). -/
structure Enables where
  lef : Bool
  io : Bool
  wp : Bool
  ind : Bool
  dchp : Bool
  deriving DecidableEq, Repr

/-- The fault status group F (10_state.md R33, R34; 46_map.md R322, R343). -/
structure MapFault where
  single : Bool
  wp : Bool
  valid : Bool
  ind : Bool
  io : Bool
  pcUndef : Bool
  deriving DecidableEq, Repr

/-- The MAP unit, both variants (10_state.md R33, R34). Fields of one variant only are named so. -/
structure MapUnit where
  /-- USER_EN -/
  userEn : Bool
  /-- DCH_EN -/
  dchEn : Bool
  /-- SUP31 (seven bits in `map200`) -/
  sup31 : BitVec 8
  /-- UMODE_INT -/
  umodeInt : Bool
  /-- ENABLE_PENDING and the user it will enable -/
  enablePending : Option User
  /-- SINGLE_PENDING -/
  singlePending : Bool
  umapA : Vector MapEntry 32
  umapB : Vector MapEntry 32
  /-- the one data channel map of `map200`, map A of `map230` -/
  dmapA : Vector MapEntry 32
  dmapB : Vector MapEntry 32
  dmapC : Vector MapEntry 32
  dmapD : Vector MapEntry 32
  fault : MapFault
  /-- DCHERR, `map200` -/
  dchErr : Bool
  /-- USTAT, `map200` -/
  ustatA : Enables
  ustatB : Enables
  /-- DEVPROT, `map200`: element c, bit k (leftmost k = 0) protects device 8c + k -/
  devProtA : Vector (BitVec 8) 8
  devProtB : Vector (BitVec 8) 8
  /-- LAST_USER, `map200` -/
  lastUser : User
  /-- TR, `map200`: write protect bit and seven bits of block -/
  tr : BitVec 8
  /-- STATUS.MAP, `map230` -/
  sel : BitVec 3
  /-- STATUS.LEF, IO, WP, IND, `map230` -/
  status : Enables
  /-- STATUS.AB, `map230` -/
  ab : User
  /-- CHECK.block, `map230` -/
  checkBlock : BitVec 5
  deriving DecidableEq, Repr

/-- An injected memory error (49_io.md R535): the physical word, its fault code, and for a multiple-bit
error the word delivered instead of the stored one. -/
structure MemoryError where
  addr : Nat
  code : BitVec 5
  delivered : Option Word
  deriving DecidableEq, Repr

/-- The ERCC option (10_state.md R40) with the memory errors not yet met. -/
structure Ercc where
  mode : BitVec 2
  faultAddr : BitVec 17
  code : BitVec 5
  done : Bool
  events : List MemoryError
  deriving DecidableEq, Repr

/-- The real-time clock (10_state.md R41). -/
structure Rtc where
  freq : BitVec 2
  busy : Bool
  done : Bool
  deriving DecidableEq, Repr

/-- The writeable control store (10_state.md R42): the word register, 256 microwords, and the decode
words, decode1 of entry e at e and decode2 at 16 + e. -/
structure Wcs where
  wordReg : Word
  micro : Vector (BitVec 56) 256
  decode : Vector (BitVec 8) 32
  deriving DecidableEq, Repr

/-- What a device can receive on the in-out bus control lines (49_io.md R504). -/
inductive DevicePulse where
  | start
  | clear
  | io
  /-- the reset of every device by an I/O RESET (49_io.md R519) -/
  | reset
  deriving DecidableEq, Repr

/-- A peripheral as the processor sees it (49_io.md R505, R545): its codes and mask bit, its flags and
buffers, and what it last received. -/
structure Device where
  code : BitVec 6
  /-- the code INTA and VCT give for it (R545, note 2) -/
  ackCode : BitVec 6
  maskBit : Option (Fin 16)
  busy : Bool
  done : Bool
  inA : Word
  inB : Word
  inC : Word
  outA : Word
  outB : Word
  outC : Word
  lastPulse : Option DevicePulse
  /-- the last word a data channel output gave the device -/
  dchWord : Word
  deriving DecidableEq, Repr

/-- The data channel maps of `map230` (46_map.md R302); `map200` has map A only. -/
inductive DchMap where
  | a
  | b
  | c
  | d
  deriving DecidableEq, Repr

/-- A data channel request (49_io.md R507): the device, the map its controller selects, the address, and
the word to store for an input (`none` for an output). -/
structure DchRequest where
  code : BitVec 6
  map : DchMap
  addr : Addr
  input : Option Word
  deriving DecidableEq, Repr

/-- POWER switch positions (10_state.md R32). -/
inductive PowerSwitch where
  | off
  | on
  | lock
  deriving DecidableEq, Repr

/-- ADDRESS COMPARE switch positions (10_state.md R32). -/
inductive AddrCmp where
  | off
  | monitor
  | stopStore
  | stopAddr
  deriving DecidableEq, Repr

/-- A console function that makes the stopped processor do one thing (70_reset_and_hazards.md R609); EXECUTE holds the
word that the data switches gave. -/
inductive OneShot where
  | none
  | step
  | execute (w : Word)
  | microStep
  deriving DecidableEq, Repr

/-- The console (10_state.md R32; 70_reset_and_hazards.md R605 to R612). -/
structure Console where
  switches : Word
  power : PowerSwitch
  addrCmp : AddrCmp
  dataLights : Word
  addressLights : Addr
  addrCompareLight : Bool
  suspended : Bool
  stopPending : Bool
  oneShot : OneShot
  /-- RESET was pushed up while this step's instruction is in progress (R601) -/
  resetInside : Bool
  powered : Bool
  restartPending : Bool
  deriving DecidableEq, Repr

/-- The console functions (70_reset_and_hazards.md R606 to R610). -/
inductive ConsoleFn where
  | reset
  | stop
  | start
  | continue
  | examine
  | examineNext
  | deposit
  | depositNext
  | acDeposit (n : Acc)
  | acExamine (n : Acc)
  | instructionStep
  | microStep
  | execute
  | programLoad
  deriving DecidableEq, Repr

/-- The three input or output buffers of a device (10_state.md R31). -/
inductive Buffer where
  | a
  | b
  | c
  deriving DecidableEq, Repr

/-- What the outside world can do to the machine (00_scope.md R11). -/
inductive Input where
  /-- a device puts a word in an input buffer -/
  | deviceData (code : BitVec 6) (buf : Buffer) (v : Word)
  /-- a device completes its operation -/
  | deviceDone (code : BitVec 6)
  /-- a device requests the data channel -/
  | dataChannel (r : DchRequest)
  /-- a pulse of one of the clock's frequencies -/
  | clockPulse (freq : BitVec 2)
  | memoryError (e : MemoryError)
  | powerFailing
  | powerLost
  | powerRestored
  /-- the 222 ms of the auto-restart have passed -/
  | restartDelay
  | switches (v : Word)
  | addrCmp (p : AddrCmp)
  | powerSwitch (p : PowerSwitch)
  | console (f : ConsoleFn)
  /-- RESET is pushed up while the next instruction is in progress (70_reset_and_hazards.md R601) -/
  | resetInside
  deriving DecidableEq, Repr

/-- What the processor is in for good, until a RESET or a loss of power (93_implementation_defined.md U2). -/
inductive Endless where
  | none
  /-- an instruction or an interrupt sequence whose address chain never ends, or an EDIT sub-program that never does -/
  | instruction
  /-- an EXECUTE that executes itself (44_program_flow.md R272): interrupts are taken in it -/
  | execute
  deriving DecidableEq, Repr

/-- The state of the machine: every element of 10_state.md, the configuration, and the model's own
`inputs`, `free` and `cut` (INVENTORY.md). -/
structure State where
  cfg : Config
  ac0 : Word
  ac1 : Word
  ac2 : Word
  ac3 : Word
  /-- C -/
  carry : Bool
  /-- PC -/
  pc : Addr
  fpac0 : Quad
  fpac1 : Quad
  fpac2 : Quad
  fpac3 : Quad
  /-- FPSR; manual bit 0 is the most significant bit -/
  fpsr : BitVec 32
  /-- ION -/
  ion : Bool
  /-- MASK -/
  mask : Word
  /-- PWRFAIL -/
  pwrFail : Bool
  /-- RUN -/
  run : Bool
  /-- ION_DELAY -/
  ionDelay : Hold
  /-- SYC_HOLD -/
  sycHold : Hold
  /-- no interrupt before the first user instruction has executed (`map200`, 46_map.md R318) -/
  userHold : Hold
  /-- the instruction in progress never ends -/
  endless : Endless
  map : MapUnit
  ercc : Ercc
  rtc : Rtc
  wcs : Wcs
  devices : List Device
  dchQueue : List DchRequest
  console : Console
  /-- the host's inputs still to come, one list per step (log entry 29) -/
  inputs : List (List Input)
  /-- the counter the free values are drawn with (log entry 6) -/
  free : Nat
  /-- the memory cycles after which the instruction in progress is cut off, if it is (log entry 45) -/
  cut : Option Nat
  mem : Memory
  deriving DecidableEq, Repr

/-- The address in the micro-code of the next micro-instruction to be fetched, which the ten ROM ADDRESS lights display (10_state.md
R32; 70_reset_and_hazards.md R612). The micro-machine is not described (R609; 91_not_in_source.md N20): nothing constrains
it (log entry 51). -/
opaque microAddress : State → BitVec 10

/-- What an instruction word that the manual assigns to nothing does, where UNASSIGNED_OP is given (00_scope.md R11, D7; log
entry 12); `none` where the parameter says nothing about the word. A function from machine state to machine state that
nothing constrains. -/
opaque unassignedOp : Word → State → Option State

/-- What the microprogram of an entry of the writeable control store does with the accumulator fields of the ENTER WCS that
enters it, where the WCS entry effects are given (00_scope.md R11, U5; log entry 14); `none` where the parameter says
nothing about the entry. Nothing constrains it. -/
opaque wcsEntryEffect : BitVec 4 → Acc → Acc → State → Option State

/-- Reasons the machine stops for good. -/
inductive Fault where
  /-- The micro-instruction step has left the machine inside an instruction: "a state reached by it is not an architectural
  state" (70_reset_and_hazards.md R609). Raised by that console function. Safe: nothing is claimed after it. -/
  | microStep
  deriving DecidableEq, Repr

/-- Cases the spec leaves without an effect. -/
inductive Refusal where
  /-- The instruction has no meaning in this model. Raised by refused arms of exec only. Safe. -/
  | notModelled (mnemonic : String)
  /-- A word the manual assigns to nothing, or one of an absent feature that the spec treats so, without UNASSIGNED_OP
  (30_encoding.md R108, R109 (c); D7, D9). Raised by the fetch and by the commercial meanings without the
  EAP. Safe: nothing is claimed about it. -/
  | unassigned (w : Word)
  /-- XOP1 with the writeable control store installed and its entry effects not given (93_implementation_defined.md U5).
  Raised by XOP1. Safe. -/
  | wcsMicroprogram (entry : BitVec 4)
  /-- EDIT entered with AC0 = 177777 octal (93_implementation_defined.md U12). Raised by EDIT. Safe. -/
  | editRestart
  /-- LEF executed by INSTRUCTION STEP or EXECUTE in user LEF mode, through XCT too (93_implementation_defined.md U14).
  Raised by the console functions. Safe. -/
  | consoleLef
  deriving DecidableEq, Repr

/-- A map entry of zeros (log entry 3). -/
def MapEntry.zero : MapEntry := { wp := false, val := 0, phys := 0 }

/-- All protection disabled (log entry 3). -/
def Enables.none : Enables := { lef := false, io := false, wp := false, ind := false, dchp := false }

/-- No fault recorded (10_state.md R45, D20). -/
def MapFault.none : MapFault :=
  { single := false, wp := false, valid := false, ind := false, io := false, pcUndef := false }

/-- The MAP after reset: supervisor mode, data channel map disabled, supervisor block 31 at physical
block 31, nothing pending, no fault recorded (10_state.md R45); the rest by log entry 3. -/
def MapUnit.reset : MapUnit :=
  { userEn := false, dchEn := false, sup31 := 31, umodeInt := false, enablePending := .none,
    singlePending := false,
    umapA := Vector.replicate 32 .zero, umapB := Vector.replicate 32 .zero,
    dmapA := Vector.replicate 32 .zero, dmapB := Vector.replicate 32 .zero,
    dmapC := Vector.replicate 32 .zero, dmapD := Vector.replicate 32 .zero,
    fault := .none, dchErr := false, ustatA := .none, ustatB := .none,
    devProtA := Vector.replicate 8 0, devProtB := Vector.replicate 8 0,
    lastUser := .a, tr := 0, sel := 0, status := .none, ab := .a, checkBlock := 0 }

/-- A device of 49_io.md R545 at reset: flags 0 (10_state.md R45), buffers by log entry 5. -/
def Device.idle (code : BitVec 6) (maskBit : Option (Fin 16)) : Device :=
  { code := code, ackCode := code, maskBit := maskBit, busy := false, done := false,
    inA := 0, inB := 0, inC := 0, outA := 0, outB := 0, outC := 0, lastPulse := none, dchWord := 0 }

/-- The console at reset (00_scope.md R11; log entry 5). -/
def Console.reset : Console :=
  { switches := 0, power := .on, addrCmp := .off, dataLights := 0, addressLights := 0,
    addrCompareLight := false, suspended := false, stopPending := false, oneShot := .none,
    resetInside := false, powered := true, restartPending := false }

/-- The configuration of State.reset (log entry 4): a C/330 with every option it can have, its whole
address space of memory, and eight devices of Appendix A. -/
def Config.reset : Config :=
  { model := .c330, mapKind := .map230, hasFpu := true, hasEap := true, hasWcs := false, hasErcc := true,
    hasRtc := true, hasPfar := true, memWords := 262144, nxmRead := 0, lineHz := 60,
    editOpcodes := [0, 1, 2, 3, 4, 5, 6, 7, 8, 9, 10, 11, 12, 13, 14, 15, 16, 17, 18, 19, 20, 21, 22, 23],
    unassignedOp := false, wcsEffects := false, busOrder := [0o2, 0o14, 0o33, 0o20, 0o22, 0o10, 0o11, 0o12, 0o13, 0o17] }

/-- The devices of State.reset with the mask bits of 49_io.md R545 (log entry 4): moving head disc, fixed
head disc, magnetic tape, TTY input and output, paper tape reader and punch, line printer. -/
def resetDevices : List Device :=
  [.idle 0o33 (some 7), .idle 0o20 (some 9), .idle 0o22 (some 10), .idle 0o10 (some 14),
   .idle 0o11 (some 15), .idle 0o12 (some 11), .idle 0o13 (some 13), .idle 0o17 (some 12)]

/-- The machine right after reset (10_state.md R45): stopped, interrupts off, mask clear, FPSR bits 0-5
zero, supervisor mode, ERCC mode 10, clock at line frequency; elements R45 calls unspecified by log
entries 1 to 6. -/
def State.reset : State :=
  { cfg := Config.reset, ac0 := 0, ac1 := 0, ac2 := 0, ac3 := 0, carry := false, pc := 0,
    fpac0 := 0, fpac1 := 0, fpac2 := 0, fpac3 := 0, fpsr := 0, ion := false, mask := 0, pwrFail := false,
    run := false, ionDelay := .idle, sycHold := .idle, userHold := .idle, endless := .none,
    map := MapUnit.reset,
    ercc := { mode := 2, faultAddr := 0, code := 0, done := false, events := [] },
    rtc := { freq := 0, busy := false, done := false },
    wcs := { wordReg := 0, micro := Vector.replicate 256 0, decode := Vector.replicate 32 0 },
    devices := resetDevices, dchQueue := [], console := Console.reset, inputs := [], free := 0, cut := none,
    mem := [] }

end Sys2Proof.Machine
end

