-- ==== Sys2Proof/Machine/Memory.lean ====
section
/-! DEFINITION. Memory as a canonical list of bytes (20_memory.md R60, R61): the read of a byte or word,
the write that keeps the canonical form, and the form itself. Sys2Proof/Laws/Memory.lean proves the laws. -/

namespace Sys2Proof.Machine

/-- What a byte address that is not listed reads as (log entry 1, DESIGN CHOICE): core memory has no stated
contents (10_state.md R45). -/
def unlistedByte : Byte := 0

/-- The byte at a byte address. -/
def Memory.byte : Memory → Nat → Byte
  | [], _ => unlistedByte
  | (a, b) :: m, n => if n = a then b else if n < a then unlistedByte else Memory.byte m n

/-- Store a byte, keeping addresses rising and no listed byte equal to an unlisted one. -/
def Memory.setByte : Memory → Nat → Byte → Memory
  | [], n, v => if v = unlistedByte then [] else [(n, v)]
  | (a, b) :: m, n, v =>
    if n < a then (if v = unlistedByte then (a, b) :: m else (n, v) :: (a, b) :: m)
    else if n = a then (if v = unlistedByte then m else (a, v) :: m)
    else (a, b) :: Memory.setByte m n v

/-- The canonical form: addresses strictly rise and no entry equals what an unlisted address reads as. -/
def Memory.wf : Memory → Bool
  | [] => true
  | (a, b) :: m => b != unlistedByte && m.all (fun c => decide (a < c.1)) && Memory.wf m

/-- The word at a physical word address: high-order byte first (20_memory.md R61). -/
def Memory.word (m : Memory) (w : Nat) : Word := wordOfBytes (Memory.byte m (2 * w)) (Memory.byte m (2 * w + 1))

/-- Store a word at a physical word address. -/
def Memory.setWord (m : Memory) (w : Nat) (v : Word) : Memory :=
  Memory.setByte (Memory.setByte m (2 * w) (hiByte v)) (2 * w + 1) (loByte v)

end Sys2Proof.Machine
end

