-- ==== Sys2Proof/Machine/Update.lean ====
section
/-! DEFINITION. One named update for each field of the state and the accessors of the numbered
registers (10_state.md R20, R23). Sys2Proof/Laws/State.lean says what each leaves alone. -/

namespace Sys2Proof.Machine

def State.setAc0 (s : State) (v : Word) : State := { s with ac0 := v }
def State.setAc1 (s : State) (v : Word) : State := { s with ac1 := v }
def State.setAc2 (s : State) (v : Word) : State := { s with ac2 := v }
def State.setAc3 (s : State) (v : Word) : State := { s with ac3 := v }
def State.setCarry (s : State) (v : Bool) : State := { s with carry := v }
def State.setPc (s : State) (v : Addr) : State := { s with pc := v }
def State.setFpac0 (s : State) (v : Quad) : State := { s with fpac0 := v }
def State.setFpac1 (s : State) (v : Quad) : State := { s with fpac1 := v }
def State.setFpac2 (s : State) (v : Quad) : State := { s with fpac2 := v }
def State.setFpac3 (s : State) (v : Quad) : State := { s with fpac3 := v }
def State.setFpsr (s : State) (v : BitVec 32) : State := { s with fpsr := v }
def State.setIon (s : State) (v : Bool) : State := { s with ion := v }
def State.setMask (s : State) (v : Word) : State := { s with mask := v }
def State.setPwrFail (s : State) (v : Bool) : State := { s with pwrFail := v }
def State.setRun (s : State) (v : Bool) : State := { s with run := v }
def State.setIonDelay (s : State) (v : Hold) : State := { s with ionDelay := v }
def State.setSycHold (s : State) (v : Hold) : State := { s with sycHold := v }
def State.setUserHold (s : State) (v : Hold) : State := { s with userHold := v }
def State.setEndless (s : State) (v : Endless) : State := { s with endless := v }
def State.setMap (s : State) (v : MapUnit) : State := { s with map := v }
def State.setErcc (s : State) (v : Ercc) : State := { s with ercc := v }
def State.setRtc (s : State) (v : Rtc) : State := { s with rtc := v }
def State.setWcs (s : State) (v : Wcs) : State := { s with wcs := v }
def State.setDevices (s : State) (v : List Device) : State := { s with devices := v }
def State.setDchQueue (s : State) (v : List DchRequest) : State := { s with dchQueue := v }
def State.setConsole (s : State) (v : Console) : State := { s with console := v }
def State.setInputs (s : State) (v : List (List Input)) : State := { s with inputs := v }
def State.setFree (s : State) (v : Nat) : State := { s with free := v }
def State.setCut (s : State) (v : Option Nat) : State := { s with cut := v }
def State.setMem (s : State) (v : Memory) : State := { s with mem := v }

/-- AC[n] (10_state.md R20). -/
def State.ac (s : State) : Acc → Word
  | .a0 => s.ac0
  | .a1 => s.ac1
  | .a2 => s.ac2
  | .a3 => s.ac3

/-- AC[n] <- v (10_state.md R20). -/
def State.setAc (s : State) (n : Acc) (v : Word) : State :=
  match n with
  | .a0 => s.setAc0 v
  | .a1 => s.setAc1 v
  | .a2 => s.setAc2 v
  | .a3 => s.setAc3 v

/-- FPAC[n] (10_state.md R23). -/
def State.fpac (s : State) : Acc → Quad
  | .a0 => s.fpac0
  | .a1 => s.fpac1
  | .a2 => s.fpac2
  | .a3 => s.fpac3

/-- FPAC[n] <- v (10_state.md R23). -/
def State.setFpac (s : State) (n : Acc) (v : Quad) : State :=
  match n with
  | .a0 => s.setFpac0 v
  | .a1 => s.setFpac1 v
  | .a2 => s.setFpac2 v
  | .a3 => s.setFpac3 v

end Sys2Proof.Machine
end

