-- ==== Sys2Proof/Machine/Ops.lean ====
section
/-! DEFINITION. The shared operations: memory references with translation and protection (20_memory.md,
46_map.md), address chains, the stack (43_stack.md), and taking each exception (60_exceptions.md). -/

namespace Sys2Proof.Machine

/-! ### An instruction that is cut off (70_reset_and_hazards.md R601; 93_implementation_defined.md U2, U13)

The instruction runs up to a free moment, counted in memory cycles (`State.cut`), and each element of the state holds what it
held at a free moment not later than that: any subset of the instruction's writes has been made (log entry 45). -/

/-- The moment of element k, drawn at counter c; element 0 is the moment of the cut. -/
def momentAt (c k : Nat) : Nat := min (Config.freeMoment c k) (Config.freeMoment c 0)

/-- A map with each entry as it was at a moment of its own. -/
def mixMap (f : Nat → Vector MapEntry 32) (moment : Nat → Nat) : Vector MapEntry 32 :=
  Vector.ofFn fun i : Fin 32 => (f (moment i.val))[i.val]'(i.isLt)

/-- Device protect bits with each class as it was at a moment of its own. -/
def mixDevProt (f : Nat → Vector (BitVec 8) 8) (moment : Nat → Nat) : Vector (BitVec 8) 8 :=
  Vector.ofFn fun i : Fin 8 => (f (moment i.val))[i.val]'(i.isLt)

/-- Memory with each of the first words as it was at a moment of its own. -/
def mixMemory (words : Nat) (f : Nat → Memory) (moment : Nat → Nat) (mem : Memory) : Memory :=
  (List.range words).foldl (fun m pa => Memory.setWord m pa (Memory.word (f (moment pa)) pa)) mem

/-- The MAP with its entries each at a moment of its own. -/
def mixUnit (f : Nat → MapUnit) (moment : Nat → Nat) : MapUnit :=
  { f (moment 0) with
    umapA := mixMap (fun n => (f n).umapA) (fun k => moment (1 + k)),
    umapB := mixMap (fun n => (f n).umapB) (fun k => moment (33 + k)),
    dmapA := mixMap (fun n => (f n).dmapA) (fun k => moment (65 + k)),
    dmapB := mixMap (fun n => (f n).dmapB) (fun k => moment (97 + k)),
    dmapC := mixMap (fun n => (f n).dmapC) (fun k => moment (129 + k)),
    dmapD := mixMap (fun n => (f n).dmapD) (fun k => moment (161 + k)),
    devProtA := mixDevProt (fun n => (f n).devProtA) (fun k => moment (193 + k)),
    devProtB := mixDevProt (fun n => (f n).devProtB) (fun k => moment (201 + k)) }

/-- The state when `f n` is the state after n memory cycles: each element at a free moment of its own, drawn at counter c, the
rest at the moment of the cut. -/
def mixed (c : Nat) (f : Nat → State) : State :=
  let e := fun k => f (momentAt c k)
  { e 0 with
    ac0 := (e 1).ac0, ac1 := (e 2).ac1, ac2 := (e 3).ac2, ac3 := (e 4).ac3, carry := (e 5).carry, pc := (e 6).pc,
    fpac0 := (e 7).fpac0, fpac1 := (e 8).fpac1, fpac2 := (e 9).fpac2, fpac3 := (e 10).fpac3, fpsr := (e 11).fpsr,
    ion := (e 12).ion, mask := (e 13).mask, ionDelay := (e 14).ionDelay, sycHold := (e 15).sycHold,
    userHold := (e 16).userHold, ercc := (e 17).ercc, rtc := (e 18).rtc, wcs := (e 19).wcs,
    devices := (e 20).devices,
    map := mixUnit (fun n => (f n).map) (fun k => momentAt c (32 + k)),
    mem := mixMemory (e 0).cfg.memWords (fun n => (f n).mem) (fun k => momentAt c (256 + k)) (e 0).mem,
    free := (e 0).free + 1, cut := none }

/-! ### A computation that may end the instruction early -/

/-- How an instruction can end before its rule does: with an exception taken (the state is the next
state), never (U2), or with a refusal. -/
inductive Stop where
  | trap
  | stuck
  | refuse (r : Refusal)
  deriving DecidableEq, Repr

/-- A step of an instruction's rule: reads and changes the state, may end the instruction. -/
abbrev Exec := EStateM Stop State

/-- The state after n memory cycles of a computation, its end if it has fewer. -/
def stateAfterCycles {α : Type} (m : Exec α) (s : State) (n : Nat) : State :=
  match m (s.setCut (some n)) with
  | .ok _ t => t
  | .error _ t => t

/-- The machine in a computation that never ends: it stays there, some of its writes made, and does nothing but serve the data
channel until a RESET (93_implementation_defined.md U2; log entry 8). -/
def stuckIn {α : Type} (m : Exec α) (s : State) : State :=
  (mixed s.free (stateAfterCycles m s)).setEndless .instruction

/-- The outcome of an instruction whose rule is `m`. -/
def runExec (m : Exec Unit) (s : State) : Host.Outcome State Fault Refusal :=
  match m s with
  | .ok _ t => .next t
  | .error .trap t => .next t
  | .error .stuck _ => .next (stuckIn m s)
  | .error (.refuse r) _ => .refused r

/-- A free value of 16 bits (log entry 6): the opaque constant at the counter, which advances. -/
def freshWord : Exec Word := do
  let s ← get
  set (s.setFree (s.free + 1))
  pure (Config.freeWord s.free)

/-- A free value of 64 bits (log entry 6). -/
def freshQuad : Exec Quad := do
  let s ← get
  set (s.setFree (s.free + 1))
  pure (Config.freeQuad s.free)

/-! ### Bits of a word -/

/-- Bits 1-15 of a word: the address in it (20_memory.md R76). -/
def addrOf (w : Word) : Addr := fld w 1 15

/-- Bit 0 of a word: the indirect bit (20_memory.md R76). -/
def isIndirect (w : Word) : Bool := fld w 0 1 == 1

/-- 0 ++ a: a 15-bit address as a word (00_scope.md R8). -/
def wordOfAddr (a : Addr) : Word := 0#1 ++ a

/-- c ++ a: a carry or other bit above a 15-bit address (43_stack.md R233). -/
def wordOfBitAddr (c : Bool) (a : Addr) : Word := bitOf c ++ a

/-! ### The MAP: modes and translation -/

/-- A MAP is installed. -/
def State.hasMap (s : State) : Bool := s.cfg.mapKind != .none

/-- User mode (46_map.md R303). -/
def State.userMode (s : State) : Bool := s.hasMap && s.map.userEn

/-- The user whose map a mapped reference goes through (46_map.md R321, R334, R340). -/
def State.curUser (s : State) : User :=
  match s.cfg.mapKind with
  | .map230 => s.map.ab
  | _ => s.map.lastUser

/-- USTAT[u] (10_state.md R33). -/
def MapUnit.ustat (m : MapUnit) : User → Enables
  | .a => m.ustatA
  | .b => m.ustatB

/-- UMAP[u] (10_state.md R33, R34). -/
def MapUnit.umap (m : MapUnit) : User → Vector MapEntry 32
  | .a => m.umapA
  | .b => m.umapB

/-- DEVPROT[u] (10_state.md R33). -/
def MapUnit.devProt (m : MapUnit) : User → Vector (BitVec 8) 8
  | .a => m.devProtA
  | .b => m.devProtB

/-- The protection enables in force: per user in `map200`, one set in `map230` (46_map.md R345). -/
def State.enables (s : State) : Enables :=
  match s.cfg.mapKind with
  | .map230 => s.map.status
  | _ => s.map.ustat s.curUser

/-- The context a word is decoded in (30_encoding.md R109; 46_map.md R311, R337). -/
def State.decodeCtx (s : State) : DecodeCtx :=
  { mapKind := s.cfg.mapKind, lef := s.map.userEn && s.enables.lef }

/-- The logical block of an address: its high-order five bits (46_map.md R301). -/
def blockOf (a : Addr) : BitVec 5 := a.extractLsb' 10 5

/-- The low-order ten bits of an address (46_map.md R301). -/
def offsetOf (a : Addr) : BitVec 10 := a.extractLsb' 0 10

/-- A physical block number with an offset appended (46_map.md R301). -/
def physAddr (block : BitVec 8) (a : Addr) : Nat := block.toNat * 1024 + (offsetOf a).toNat

/-- An entry of a map (46_map.md R301). -/
def entryAt (m : Vector MapEntry 32) (b : BitVec 5) : MapEntry := m[b.toNat]'(b.isLt)

/-- The entry's block is declared invalid (46_map.md R313). -/
def MapEntry.invalid (k : MapKind) (e : MapEntry) : Bool :=
  match k with
  | .none => false
  | .map200 => e.wp && e.phys == 127
  | .map230 => e.val == 3

/-- The kinds of protection violation (60_exceptions.md R568). -/
inductive Violation where
  | validity
  | write
  | indirect
  | io
  deriving DecidableEq, Repr

/-- A reference through the current user map (46_map.md R301, R313, R314); validity comes before write
protection (R322). -/
def State.mapped (s : State) (isWrite : Bool) (a : Addr) : Except Violation Nat :=
  let e := entryAt (s.map.umap s.curUser) (blockOf a)
  if e.invalid s.cfg.mapKind then .error .validity
  else if isWrite && s.enables.wp && e.wp then .error .write
  else .ok (physAddr e.phys a)

/-- A reference in supervisor mode or without a MAP (20_memory.md R66 cases 1 and 2). -/
def State.unmapped (s : State) (a : Addr) : Nat :=
  if s.hasMap && blockOf a == 31 then physAddr s.map.sup31 a else a.toNat

/-- Where a processor reference goes (20_memory.md R66); `single` marks the one reference that MAP SINGLE
CYCLE maps (46_map.md R321, R340). -/
def State.translate (s : State) (single isWrite : Bool) (a : Addr) : Except Violation Nat :=
  if s.userMode || (s.hasMap && single) then s.mapped isWrite a else .ok (s.unmapped a)

/-! ### Physical memory -/

/-- Take the first injected memory error at a physical word (49_io.md R535). -/
def takeError (pa : Nat) : List MemoryError → Option (MemoryError × List MemoryError)
  | [] => none
  | e :: es =>
    if e.addr = pa then some (e, es)
    else match takeError pa es with
      | none => none
      | some (x, rest) => some (x, e :: rest)

/-- Checking and correction are enabled: modes 10 and 11 (49_io.md R531). -/
def State.erccChecks (s : State) : Bool := s.cfg.hasErcc && (s.ercc.mode == 2 || s.ercc.mode == 3)

/-- PhysRead (00_scope.md R8): non-existent memory returns NXM_READ (20_memory.md R65); an injected error is
recorded in the ERCC (20_memory.md R97, 49_io.md R535). -/
def State.physRead (s : State) (pa : Nat) : Word × State :=
  if pa < s.cfg.memWords then
    let stored := Memory.word s.mem pa
    if s.erccChecks then
      match takeError pa s.ercc.events with
      | none => (stored, s)
      | some (e, rest) =>
        ((match e.delivered with | none => stored | some v => v),
          s.setErcc { s.ercc with faultAddr := BitVec.ofNat 17 pa, code := e.code, done := true,
                                  events := rest })
    else (stored, s)
  else (s.cfg.nxmRead, s)

/-- PhysWrite (00_scope.md R8): a write to non-existent memory changes nothing (20_memory.md R65). -/
def State.physWrite (s : State) (pa : Nat) (v : Word) : State :=
  if pa < s.cfg.memWords then s.setMem (Memory.setWord s.mem pa v) else s

/-! ### ADDRESS COMPARE (70_reset_and_hazards.md R611) -/

/-- The comparison in force: with the POWER switch in LOCK only MONITOR acts (R605, R612). -/
def State.comparing (s : State) : AddrCmp :=
  if s.console.power = .lock ∧ s.console.addrCmp ≠ .monitor then .off else s.console.addrCmp

/-- The address set in the data switches. -/
def State.watchedAddr (s : State) : Addr := addrOf s.console.switches

/-- Suspend the operation of the CPU inside the instruction; the lights hold any value (U15). The manual does not say what PC
holds then: it stays as the instruction has left it, the model's choice (log entry 25). -/
def suspendCpu {α : Type} : Exec α := do
  let d ← freshWord
  let a ← freshWord
  modify fun s => (s.setRun false).setConsole
    { s.console with suspended := true, addrCompareLight := true, dataLights := d, addressLights := addrOf a }
  throw .trap

/-- One memory cycle of an instruction that is to be cut off; the instruction is abandoned when none is left (R601). -/
def spendCycle : Exec Unit := do
  let s ← get
  match s.cut with
  | none => pure ()
  | some 0 => throw .trap
  | some (n + 1) => set (s.setCut (some n))

/-- STOP/ADDR suspends before the access is made. -/
def beforeAccess (a : Addr) : Exec Unit := do
  spendCycle
  let s ← get
  if s.comparing == .stopAddr && s.watchedAddr == a then suspendCpu else pure ()

/-- MONITOR displays the contents of the location; STOP/STORE suspends after a store. -/
def afterAccess (isWrite : Bool) (a : Addr) (v : Word) : Exec Unit := do
  let s ← get
  match s.comparing with
  | .monitor => if s.watchedAddr == a then set (s.setConsole { s.console with dataLights := v }) else pure ()
  | .stopStore => if isWrite && s.watchedAddr == a then suspendCpu else pure ()
  | _ => pure ()

/-- A processor read of physical word `pa` at logical address `a`. -/
def readAt (pa : Nat) (a : Addr) : Exec Word := do
  let s ← get
  let (v, t) := s.physRead pa
  set t
  afterAccess false a v
  pure v

/-- A processor write of physical word `pa` at logical address `a`. -/
def writeAt (pa : Nat) (a : Addr) (v : Word) : Exec Unit := do
  modify fun s => s.physWrite pa v
  afterAccess true a v

/-! ### Ways to reach memory -/

/-- How a sequence reaches memory: a read (its flag marks a single-cycle reference), a write, the test
before an address word of a chain is fetched, and what follows the first address word. -/
structure Bus where
  read : Bool → Addr → Exec Word
  write : Addr → Word → Exec Unit
  guard : Nat → Exec Unit
  after : Exec Unit

/-- A read with the user map disabled (20_memory.md R85). -/
def supRead (a : Addr) : Exec Word := do
  beforeAccess a
  let s ← get
  readAt (s.unmapped a) a

/-- A write with the user map disabled (20_memory.md R85). -/
def supWrite (a : Addr) (v : Word) : Exec Unit := do
  beforeAccess a
  let s ← get
  writeAt (s.unmapped a) a v

/-- The references of the interrupt and protection fault sequences. -/
def supBus : Bus := { read := fun _ a => supRead a, write := supWrite, guard := fun _ => pure (), after := pure () }

/-! ### Chains of address words (20_memory.md R76, R77) -/

/-- Auto-increment and auto-decrement locations 20-27 and 30-37 octal (20_memory.md R77): the updated
contents of the word, if it is one. -/
def autoUpdate (a : Addr) (w : Word) : Option Word :=
  if 0o20 ≤ a.toNat && a.toNat ≤ 0o27 then some (w + 1)
  else if 0o30 ≤ a.toNat && a.toNat ≤ 0o37 then some (w - 1)
  else none

/-- One level of a chain: fetch the address word at `a`, write back an auto-index update if `auto`; the word
the address is taken from, and whether the chain goes on (decided by the word before the update, R77). -/
def chainLevel (b : Bus) (auto single : Bool) (a : Addr) : Exec (Word × Bool) := do
  let w ← b.read single a
  match autoUpdate a w with
  | some n => if auto then b.write a n; pure (n, isIndirect w) else pure (w, isIndirect w)
  | none => pure (w, isIndirect w)

/-- Follow a chain whose first address word is at `a`; `count` address words were fetched before. Running out
of fuel is the endless chain (U2): the processor stays in it. -/
def chase (b : Bus) (auto : Bool) : Nat → Nat → Bool → Addr → Exec Addr
  | 0, _, _, _ => throw .stuck
  | fuel + 1, count, single, a => do
    b.guard count
    let r ← chainLevel b auto single a
    b.after
    if r.2 then chase b auto fuel (count + 1) false (addrOf r.1) else pure (addrOf r.1)

/-- More levels than any chain that ends can have: each of the 16 auto-index words can be passed at most
32,769 times with bit 0 set, and between two such passes at most 32,768 words can differ (log entry 8). -/
def chainFuel : Nat := 34359738368

/-! ### The stack (43_stack.md) -/

/-- Push (43_stack.md R232). -/
def pushOn (b : Bus) (v : Word) : Exec Unit := do
  let old ← b.read false 0o40
  let sp := old + 1
  b.write (addrOf sp) v
  b.write 0o40 sp

/-- Pop (43_stack.md R232). -/
def popOn (b : Bus) : Exec Word := do
  let sp ← b.read false 0o40
  let v ← b.read false (addrOf sp)
  b.write 0o40 (sp - 1)
  pure v

/-- PushBlock (43_stack.md R233). -/
def pushBlockOn (b : Bus) (pc : Addr) : Exec Unit := do
  let s ← get
  pushOn b s.ac0
  pushOn b s.ac1
  pushOn b s.ac2
  pushOn b s.ac3
  pushOn b (wordOfBitAddr s.carry pc)

/-- Indirect' (43_stack.md R234): the jump indirect through a reserved location; the word there is the first
address word of a chain without auto-increment (20_memory.md R76, R77; log entry 10). -/
def jumpIndirectOn (b : Bus) (loc : Addr) : Exec Unit := do
  let t ← chase b false chainFuel 0 false loc
  modify fun s => s.setPc t

/-- StackFault (43_stack.md R234; 60_exceptions.md R562). -/
def stackFaultOn {α : Type} (b : Bus) (pc : Addr) : Exec α := do
  pushBlockOn b pc
  let sp ← b.read false 0o40
  b.write 0o40 (wordOfAddr (addrOf sp))
  let sl ← b.read false 0o42
  b.write 0o42 (wordOfBitAddr true (addrOf sl))
  jumpIndirectOn b 0o43
  throw .trap

/-- CheckOverflow (43_stack.md R234). -/
def checkOverflowOn (b : Bus) (next : Addr) : Exec Unit := do
  let sp ← b.read false 0o40
  let sl ← b.read false 0o42
  if sl.toNat < sp.toNat then stackFaultOn b next else pure ()

/-! ### The protection fault (46_map.md R325; 60_exceptions.md R568) -/

/-- The fault status a violation leaves (46_map.md R322, R343). -/
def faultStatus (k : MapKind) (v : Violation) (single pcUndef : Bool) : MapFault :=
  { single := single, wp := v == .write, valid := k == .map200 && v == .validity, ind := v == .indirect,
    io := v == .io, pcUndef := k == .map200 && pcUndef }

/-- ProtectionFault: record the violation, leave user mode, push a return block on the supervisor's stack,
jump indirect through location 3. The block's address is PC + 1 for an I/O violation (R312, R336; also for VCT, whose two
words R568 would have it skip: the model's choice, log entry 16) and any value otherwise (U6). A pending MAP SINGLE CYCLE
stays pending: only an LDA or STA ends it (R321, R340). -/
def protectionFault {α : Type} (v : Violation) (single : Bool) : Exec α := do
  let s ← get
  let freeAddr ← freshWord
  let freeUndef ← freshWord
  let pc := if v = .io then s.pc + 1 else addrOf freeAddr
  let undef := if v = .io then false else isIndirect freeUndef
  modify fun t => t.setMap { t.map with fault := faultStatus t.cfg.mapKind v single undef, userEn := false }
  pushBlockOn supBus pc
  jumpIndirectOn supBus 3
  let t ← get
  checkOverflowOn supBus t.pc
  throw .trap

/-! ### The processor's references -/

/-- MemRead of one word (00_scope.md R8; 20_memory.md R66). -/
def readBus (single : Bool) (a : Addr) : Exec Word := do
  beforeAccess a
  let s ← get
  match s.translate single false a with
  | .ok pa => readAt pa a
  | .error v => protectionFault v (s.hasMap && single && !s.userMode)

/-- MemWrite of one word (00_scope.md R8; 20_memory.md R66). -/
def writeBus (single : Bool) (a : Addr) (v : Word) : Exec Unit := do
  beforeAccess a
  let s ← get
  match s.translate single true a with
  | .ok pa => writeAt pa a v
  | .error e => protectionFault e (s.hasMap && single && !s.userMode)

def memRead (a : Addr) : Exec Word := readBus false a

def memWrite (a : Addr) (v : Word) : Exec Unit := writeBus false a v

/-- Indirect protection: the fifteenth address word of a chain faults (46_map.md R310, D21). -/
def indirectGuard (count : Nat) : Exec Unit := do
  let s ← get
  if s.userMode && s.enables.ind && count == 14 then protectionFault .indirect false else pure ()

/-- The pending user map is enabled (46_map.md R318, R334). -/
def State.enableUser (s : State) (u : User) : State :=
  (s.setMap { s.map with userEn := true, enablePending := none,
                         lastUser := if s.cfg.mapKind = .map200 then u else s.map.lastUser }).setUserHold
    (if s.cfg.mapKind = .map200 then .fresh else s.userHold)

/-- A pending user enable takes effect (46_map.md R318, R334). -/
def enablePendingUser : Exec Unit := do
  let s ← get
  match s.map.enablePending with
  | some u => set (s.enableUser u)
  | none => pure ()

/-- Chains of an effective address calculation: the first address word ends a pending user enable. -/
def eaBus : Bus := { read := readBus, write := memWrite, guard := indirectGuard, after := enablePendingUser }

/-- Chains of the fault and SYC sequences: they do not count for a pending user enable (46_map.md R334). -/
def cpuBus : Bus := { read := readBus, write := memWrite, guard := indirectGuard, after := pure () }

/-- Indirect (20_memory.md R76): no auto-increment. -/
def indirect (a : Addr) : Exec Addr := chase eaBus false chainFuel 0 false a

/-- IndirectAuto (20_memory.md R77), the short class; `single` marks a MAP SINGLE CYCLE in force. -/
def indirectAuto (single : Bool) (a : Addr) : Exec Addr := chase eaBus true chainFuel 0 single a

def push (v : Word) : Exec Unit := pushOn cpuBus v

def pop : Exec Word := popOn cpuBus

def pushBlock (pc : Addr) : Exec Unit := pushBlockOn cpuBus pc

/-- PopBlock (43_stack.md R233). -/
def popBlock : Exec Unit := do
  let w ← pop
  modify fun s => (s.setCarry (isIndirect w)).setPc (addrOf w)
  let v3 ← pop
  modify fun s => s.setAc3 v3
  let v2 ← pop
  modify fun s => s.setAc2 v2
  let v1 ← pop
  modify fun s => s.setAc1 v1
  let v0 ← pop
  modify fun s => s.setAc0 v0

def stackFault {α : Type} (pc : Addr) : Exec α := stackFaultOn cpuBus pc

def checkOverflow (next : Addr) : Exec Unit := checkOverflowOn cpuBus next

/-- CheckUnderflow (43_stack.md R235). -/
def checkUnderflow (next : Addr) : Exec Unit := do
  let sp ← memRead 0o40
  if sp.toNat < 0o400 then do
    let sl ← memRead 0o42
    if isIndirect sl then pure ()
    else do
      memWrite 0o40 sl
      stackFault next
  else pure ()

/-- The jump indirect of SYC and of the faults that stay in the current mode. -/
def jumpIndirect (loc : Addr) : Exec Unit := jumpIndirectOn cpuBus loc

/-- FloatingPointFault (60_exceptions.md R566). -/
def floatingPointFault {α : Type} : Exec α := do
  let s ← get
  set (s.setFpsr (s.fpsr &&& 0xFBFFFFFF#32))
  pushBlock s.pc
  jumpIndirect 0o45
  let t ← get
  checkOverflow t.pc
  throw .trap

/-- CommercialFault (60_exceptions.md R567); the raising rule has set the other accumulators. -/
def commercialFault {α : Type} (code : Word) : Exec α := do
  modify fun s => s.setAc1 code
  let s ← get
  pushBlock s.pc
  jumpIndirect 0o46
  let t ← get
  checkOverflow t.pc
  throw .trap

/-! ### The program counter -/

/-- PC <- trunc_15(PC + len) (00_scope.md R8). -/
def advance (len : Addr) : Exec Unit := modify fun s => s.setPc (s.pc + len)

/-- Advance by the length, and one more if the skip condition holds (30_encoding.md R100). -/
def advanceSkip (len : Addr) (cond : Bool) : Exec Unit := advance (if cond then len + 1 else len)

/-! ### Interrupt requests (49_io.md R506, R517; 60_exceptions.md R574) -/

/-- MASK bit n, the manual's numbering (49_io.md R518). -/
def State.maskBit (s : State) (n : Fin 16) : Bool := s.mask.getMsbD n

/-- IntReq of a peripheral (49_io.md R506). -/
def State.deviceReq (s : State) (d : Device) : Bool :=
  d.done && (match d.maskBit with | none => true | some n => !s.maskBit n)

/-- IntReq(ERCC) (49_io.md R534). -/
def State.erccReq (s : State) : Bool := s.cfg.hasErcc && s.ercc.done && s.ercc.mode == 3

/-- IntReq(RTC) (49_io.md R540). -/
def State.rtcReq (s : State) : Bool := s.cfg.hasRtc && s.rtc.done && !s.maskBit 13

/-- IntReq(power fail) (49_io.md R544). -/
def State.pfailReq (s : State) : Bool := s.cfg.hasPfar && s.pwrFail

/-- Some request is on the interrupt request line (60_exceptions.md R574). -/
def State.intReq (s : State) : Bool :=
  s.pfailReq || s.erccReq || s.rtcReq || s.devices.any s.deviceReq

/-- No hold but ION_DELAY keeps a request from being honoured (60_exceptions.md R577 (b) to (e)). -/
def State.holdsOpen (s : State) : Bool :=
  s.sycHold == .idle && s.userHold == .idle && s.map.enablePending == none && !s.map.singlePending

/-- An interruptible instruction may be suspended here: ION_DELAY is ignored (60_exceptions.md R576); not
when the processor executes for the console or a STOP is pending (70_reset_and_hazards.md R606). -/
def State.canSuspend (s : State) : Bool :=
  s.run && s.ion && s.holdsOpen && s.intReq && !s.console.stopPending

/-- Suspend an interruptible instruction: it ends with PC on itself, and the interrupt test at its end is no
longer held by ION_DELAY (42_byte_bit.md R226). -/
def suspendInstr {α : Type} : Exec α := do
  modify fun s => s.setIonDelay .idle
  throw .trap

end Sys2Proof.Machine
end

