-- ==== Sys2Proof/Machine/Operands.lean ====
section
/-! DEFINITION. Operand forms: effective addresses (20_memory.md R73 to R78), byte and bit pointers (R71,
R72), multi-word operands (R63), accumulator pairs (10_state.md R20). -/

namespace Sys2Proof.Machine

/-- The number of an accumulator. -/
def accNat : Acc → Nat
  | .a0 => 0
  | .a1 => 1
  | .a2 => 2
  | .a3 => 3

/-- The accumulator after one, AC0 following AC3 (41_logical.md R192, 43_stack.md R237). -/
def accNext : Acc → Acc
  | .a0 => .a1
  | .a1 => .a2
  | .a2 => .a3
  | .a3 => .a0

/-- The accumulator before one, AC3 following AC0 (43_stack.md R238). -/
def accPrev : Acc → Acc
  | .a0 => .a3
  | .a1 => .a0
  | .a2 => .a1
  | .a3 => .a2

/-- Index of the short class (20_memory.md R74): the displacement is relative to the instruction itself. -/
def State.shortBase (s : State) (m : ShortMem) : Addr :=
  match m.index with
  | .absolute => m.disp.zeroExtend 15
  | .relative => s.pc + m.disp.signExtend 15
  | .ac2 => addrOf s.ac2 + m.disp.signExtend 15
  | .ac3 => addrOf s.ac3 + m.disp.signExtend 15

/-- Index of the extended class (20_memory.md R74, R78): relative to the second word. -/
def State.extBase (s : State) (m : ExtMem) : Addr :=
  match m.index with
  | .absolute => m.disp
  | .relative => s.pc + 1 + m.disp
  | .ac2 => addrOf s.ac2 + m.disp
  | .ac3 => addrOf s.ac3 + m.disp

/-- EA_short (20_memory.md R73). -/
def eaShort (m : ShortMem) : Exec Addr := do
  let s ← get
  if m.ind then indirectAuto false (s.shortBase m) else pure (s.shortBase m)

/-- EA_short of LDA and STA: the address, and whether a pending MAP SINGLE CYCLE still maps the operand
reference (46_map.md R321, R340). -/
def eaShortSingle (m : ShortMem) : Exec (Addr × Bool) := do
  let s ← get
  if m.ind then do
    let e ← indirectAuto s.map.singlePending (s.shortBase m)
    pure (e, false)
  else pure (s.shortBase m, s.map.singlePending)

/-- EA_ext (20_memory.md R78). -/
def eaExt (m : ExtMem) : Exec Addr := do
  let s ← get
  if m.ind then indirect (s.extBase m) else pure (s.extBase m)

/-- A MAP SINGLE CYCLE is over (46_map.md R321, R340). -/
def State.singleOver (s : State) : State := s.setMap { s.map with singlePending := false }

/-- The rule of LDA or STA: a pending MAP SINGLE CYCLE is over when the instruction ends, with an exception too (46_map.md R321;
60_exceptions.md R577 (c)). One that ADDRESS COMPARE suspends has not ended. -/
def singleUse (m : Exec Unit) : Exec Unit := fun s =>
  match m s with
  | .ok a t => .ok a t.singleOver
  | .error .trap t => .error .trap (if t.console.suspended then t else t.singleOver)
  | r => r

/-! ### Multi-word operands (00_scope.md R8; 20_memory.md R63) -/

/-- MemRead(a, 2). -/
def memRead2 (a : Addr) : Exec (BitVec 32) := do
  let w0 ← memRead a
  let w1 ← memRead (a + 1)
  pure (w0 ++ w1)

/-- MemRead(a, 4). -/
def memRead4 (a : Addr) : Exec Quad := do
  let d0 ← memRead2 a
  let d1 ← memRead2 (a + 2)
  pure (d0 ++ d1)

/-- MemWrite(a, 2, v). -/
def memWrite2 (a : Addr) (v : BitVec 32) : Exec Unit := do
  memWrite a (v.extractLsb' 16 16)
  memWrite (a + 1) (v.extractLsb' 0 16)

/-- MemWrite(a, 4, v). -/
def memWrite4 (a : Addr) (v : Quad) : Exec Unit := do
  memWrite2 a (v.extractLsb' 32 32)
  memWrite2 (a + 2) (v.extractLsb' 0 32)

/-! ### Bytes (20_memory.md R71) -/

/-- The word address of a byte pointer. -/
def bytePtrAddr (bp : Word) : Addr := fld bp 0 15

/-- The byte of a word a byte pointer selects. -/
def byteOfWord (bp w : Word) : Byte := if fld bp 15 1 = 0 then hiByte w else loByte w

/-- The word with the byte a byte pointer selects replaced. -/
def withByte (bp w : Word) (v : Byte) : Word :=
  if fld bp 15 1 = 0 then wordOfBytes v (loByte w) else wordOfBytes (hiByte w) v

/-- ByteRead. -/
def byteRead (bp : Word) : Exec Byte := do
  let w ← memRead (bytePtrAddr bp)
  pure (byteOfWord bp w)

/-- ByteWrite: a read and a write of the word (20_memory.md R62). -/
def byteWrite (bp : Word) (v : Byte) : Exec Unit := do
  let w ← memRead (bytePtrAddr bp)
  memWrite (bytePtrAddr bp) (withByte bp w v)

/-- The byte pointer of ELDB and ESTB (42_byte_bit.md R214). -/
def State.extBytePtr (s : State) (ix : Index) (disp : Word) : Word :=
  match ix with
  | .absolute => disp
  | .relative => wordOfAddr (s.pc + 1) * 2 + disp
  | .ac2 => s.ac2 * 2 + disp
  | .ac3 => s.ac3 * 2 + disp

/-! ### Bits (20_memory.md R72) -/

/-- Word address and bit number (0 the high-order bit) of the bit pointer in ACS and ACD. -/
def bitPointer (acs acd : Acc) : Exec (Addr × Nat) := do
  let s ← get
  let hi : Word := if acs = acd then 0 else s.ac acs
  let lo := s.ac acd
  let base ← if isIndirect hi then indirect (addrOf hi) else pure (addrOf hi)
  pure (base + (fld lo 0 12).zeroExtend 15, (fld lo 12 4).toNat)

/-- The word with only manual bit b set. -/
def bitMask (b : Nat) : Word := 0x8000#16 >>> b

/-! ### Accumulator pairs (10_state.md R20) -/

/-- AC[d] ++ AC[d+1 mod 4]. -/
def State.acPair (s : State) (d : Acc) : BitVec 32 := s.ac d ++ s.ac (accNext d)

/-- Write a 32-bit value to AC[d] and AC[d+1 mod 4]. -/
def State.setAcPair (s : State) (d : Acc) (v : BitVec 32) : State :=
  (s.setAc d (v.extractLsb' 16 16)).setAc (accNext d) (v.extractLsb' 0 16)

end Sys2Proof.Machine
end

