-- ==== Sys2Proof/Machine/Flags.lean ====
section
/-! DEFINITION. The carry, shifter and skip sensor of the arithmetic/logical class (40_fixed_point.md
R141) and the shift counts and digit arithmetic of the fixed point instructions. The floating point status
flags stand in FloatArith.lean. -/

namespace Sys2Proof.Machine

/-- The initial carry c0 (40_fixed_point.md R141 step 1). -/
def initCarry (f : AluCarry) (c : Bool) : Bool :=
  match f with
  | .keep => c
  | .zero => false
  | .one => true
  | .complement => !c

/-- The shifter: c2 and r2 from c1 and r (40_fixed_point.md R141 step 3). -/
def shifter (f : AluShift) (c : Bool) (r : Word) : Bool × Word :=
  match f with
  | .keep => (c, r)
  | .left => (r.getMsbD 0, fld r 1 15 ++ bitOf c)
  | .right => (r.getMsbD 15, bitOf c ++ fld r 0 15)
  | .swap => (c, loByte r ++ hiByte r)

/-- The skip sensor on the shifter output (40_fixed_point.md R141 step 4). -/
def skipSensor (f : AluSkip) (c : Bool) (r : Word) : Bool :=
  match f with
  | .never => false
  | .always => true
  | .szc => !c
  | .snc => c
  | .szr => r == 0
  | .snr => r != 0
  | .sez => !c || r == 0
  | .sbn => c && r != 0

/-- The result of an arithmetic/logical instruction whose function generator gives the integer t: the
carry and word the shifter puts out (40_fixed_point.md R141 steps 1 to 3). -/
def aluResult (f : Alu) (c : Bool) (t : Nat) : Bool × Word :=
  shifter f.shift (xor (initCarry f.carry c) (decide (65536 ≤ t))) (BitVec.ofNat 16 t)

/-- Steps 4 to 6 of 40_fixed_point.md R141: load and advance. -/
def aluFinish (f : Alu) (s : State) (t : Nat) : State :=
  let r := aluResult f s.carry t
  let loaded := if f.noLoad then s else (s.setAc f.acd r.2).setCarry r.1
  loaded.setPc (s.pc + (if skipSensor f.skip r.1 r.2 then 2 else 1))

/-- The signed shift count in bits 8-15 of an accumulator (41_logical.md R191). -/
def shiftCount (w : Word) : Int := (loByte w).toInt

/-- A logical shift by a signed count, left when positive (41_logical.md R191, R192). -/
def logicalShift {n : Nat} (v : BitVec n) (count : Int) : BitVec n :=
  if 0 ≤ count then v <<< count.toNat else v >>> (-count).toNat

/-- The number of high-order zeroes of a word (42_byte_bit.md R223). -/
def leadingZeros (w : Word) : Nat := 16 - (if w = 0 then 0 else Nat.log2 w.toNat + 1)

/-- The number of ones in the low-order n bits of a word (42_byte_bit.md R225). -/
def countOnes (w : Word) : Nat → Nat
  | 0 => 0
  | n + 1 => countOnes w n + (if w.getLsbD n then 1 else 0)

/-- Bits 12-15 of an accumulator: a decimal digit (40_fixed_point.md R155). -/
def digitOf (w : Word) : Nat := (fld w 12 4).toNat

/-- Replace bits 12-15 of a word. -/
def withDigit (w : Word) (v : BitVec 4) : Word := fld w 0 12 ++ v

/-- Division of a number by 2 rounded toward 0 (40_fixed_point.md R158). -/
def halveWord (w : Word) : Word := BitVec.ofInt 16 (w.toInt.tdiv 2)

/-- The signed divide of 40_fixed_point.md R163: quotient and remainder, `none` on overflow. -/
def signedDivide (n dv : Int) : Option (Int × Int) :=
  if dv = 0 then none
  else
    let q := n.tdiv dv
    if q < -32768 ∨ 32767 < q then none else some (q, n.tmod dv)

end Sys2Proof.Machine
end

