-- ==== Sys2Proof/Machine/FloatArith.lean ====
section
/-! DEFINITION. The floating point number format, the shared arithmetic procedures and the status flags
(47_floating_point.md R350 to R359, R374, R378, R382, R384). -/

namespace Sys2Proof.Machine

/-! ### The number format (R350) -/

/-- sign(x). -/
def fpSign (x : Quad) : Bool := x.getMsbD 0

/-- exp(x), 0 to 127. -/
def fpExp (x : Quad) : Nat := (x.extractLsb' 56 7).toNat

/-- man(x), the 56-bit mantissa as an integer. -/
def fpMan (x : Quad) : Nat := (x.extractLsb' 0 56).toNat

/-- pack(s, e, m): the exponent is taken modulo 128. -/
def fpPack (sign : Bool) (e : Int) (m : Nat) : Quad := bitOf sign ++ BitVec.ofInt 7 e ++ BitVec.ofNat 56 m

/-- The low-order 32 bits set to 0: a single precision number in an accumulator. -/
def toSingle (x : Quad) : Quad := (x.extractLsb' 32 32) ++ 0#32

/-- A result with the error bits it sets. -/
structure FloatResult where
  value : Quad
  ovf : Bool
  unf : Bool
  mof : Bool
  deriving DecidableEq, Repr

/-- A result that sets no error bit. -/
def FloatResult.clean (x : Quad) : FloatResult := { value := x, ovf := false, unf := false, mof := false }

/-- Normalize (R351) on a mantissa of the given number of hex digits: shift left while the leading digit is 0. -/
def normalize (digits : Nat) : Nat → Int → Nat → Int × Nat
  | 0, e, m => (e, m)
  | fuel + 1, e, m => if m < 16 ^ (digits - 1) then normalize digits fuel (e - 1) (m * 16) else (e, m)

/-- Finish (R351): truncation to single precision, true zero, exponent overflow and underflow. -/
def finish (sign : Bool) (e : Int) (m : Nat) (single : Bool) : FloatResult :=
  let m := if single then m / 2 ^ 32 * 2 ^ 32 else m
  if m = 0 then .clean 0
  else { value := fpPack sign e m, ovf := decide (127 < e), unf := decide (e < 0), mof := false }

/-- A zero mantissa gives true zero, any other is normalized over 14 digits and finished (R351). -/
def finishNormalized (sign : Bool) (e : Int) (m : Nat) (single : Bool) : FloatResult :=
  if m = 0 then .clean 0
  else
    let n := normalize 14 14 e m
    finish sign n.1 n.2 single

/-- FAdd (R359): a is FACD, b the source. -/
def floatAdd (a b : Quad) (single : Bool) : FloatResult :=
  let ea := fpExp a
  let eb := fpExp b
  let k := (ea - eb) + (eb - ea)
  if 14 ≤ k then
    let r := if eb < ea then a else b
    .clean (if single then toSingle r else r)
  else
    let ma := if ea < eb then fpMan a / 16 ^ k else fpMan a
    let mb := if ea < eb then fpMan b else fpMan b / 16 ^ k
    let e : Int := if ea < eb then eb else ea
    if fpSign a = fpSign b then
      let m := ma + mb
      if 2 ^ 56 ≤ m then finish (fpSign a) (e + 1) (m / 16) single
      else finishNormalized (fpSign a) e m single
    else if mb ≤ ma then finishNormalized (fpSign a) e (ma - mb) single
    else finishNormalized (fpSign b) e (mb - ma) single

/-- The source with its sign inverted (R370). -/
def flipSign (x : Quad) : Quad := x ^^^ 0x8000000000000000#64

/-- FSub (R370). -/
def floatSub (a b : Quad) (single : Bool) : FloatResult := floatAdd a (flipSign b) single

/-- FMul (R374): the exact product, normalized, then cut to 56 bits. -/
def floatMul (a b : Quad) (single : Bool) : FloatResult :=
  let b := if single then toSingle b else b
  let p := fpMan a * fpMan b
  if p = 0 then .clean 0
  else
    let n := normalize 28 28 ((fpExp a : Int) + fpExp b - 64) p
    finish (xor (fpSign a) (fpSign b)) n.1 (n.2 / 2 ^ 56) single

/-- The pre-shift of a division (R378): the number of hex digits until the dividend is below the divisor. -/
def divideShift (ma mb : Nat) : Nat → Nat → Nat
  | 0, k => k
  | fuel + 1, k => if mb * 16 ^ k ≤ ma then divideShift ma mb fuel (k + 1) else k

/-- FDiv (R378) for a divisor with a nonzero mantissa. -/
def floatDiv (a b : Quad) (single : Bool) : FloatResult :=
  let k := divideShift (fpMan a) (fpMan b) 15 0
  let e : Int := (fpExp a : Int) - fpExp b + 64 + k
  let bits := if single then 24 else 56
  let q := fpMan a * 2 ^ bits / (16 ^ k * fpMan b)
  finish (xor (fpSign a) (fpSign b)) e (q * 2 ^ (56 - bits)) single

/-- Float (R382): an integer as a normalized number. -/
def floatOfInt (n : Int) (single : Bool) : FloatResult :=
  finishNormalized (decide (n < 0)) 78 n.natAbs single

/-- floor |value(x)| (R384). -/
def fpIntegerPart (x : Quad) : Nat :=
  let e := fpExp x
  if e ≤ 64 then 0
  else if e - 64 < 14 then fpMan x / 16 ^ (14 - (e - 64))
  else fpMan x * 16 ^ (e - 64 - 14)

/-- The integer Fix converts to (R384). -/
def fpToInt (x : Quad) : Int := if fpSign x then -(fpIntegerPart x : Int) else fpIntegerPart x

/-- Fix (R384) to w + 1 bits: the sign bit, then the low-order w bits of the integer; zero where it is 0. -/
def fixTo (w : Nat) (x : Quad) : BitVec (1 + w) :=
  if fpIntegerPart x = 0 then 0 else bitOf (fpSign x) ++ BitVec.ofInt w (fpToInt x)

/-- Fix sets MOF when the magnitude does not fit (R384). -/
def fixOverflows (w : Nat) (x : Quad) : Bool := decide (2 ^ w - 1 < fpIntegerPart x)

/-- value(x) scaled to an integer: value(x) * 16^78 (R350), for comparisons. -/
def fpScaled (x : Quad) : Int :=
  let m : Int := fpMan x * 16 ^ fpExp x
  if fpSign x then -m else m

/-- The fractional digits of FINT (R395) set to 0: the mantissa kept. -/
def integerDigits (x : Quad) : Nat :=
  let e := fpExp x
  if e ≤ 64 then 0
  else if e - 64 < 14 then fpMan x / 16 ^ (14 - (e - 64)) * 16 ^ (14 - (e - 64))
  else fpMan x

/-! ### The status register (10_state.md R24) -/

/-- FPSR bit i, the manual's numbering. -/
def fpsrBit (r : BitVec 32) (i : Nat) : Bool := r.getMsbD i

/-- Write FPSR bit i. -/
def setFpsrBit (r : BitVec 32) (i : Nat) (v : Bool) : BitVec 32 :=
  if v then r ||| (0x80000000#32 >>> i) else r &&& ~~~(0x80000000#32 >>> i)

/-- Some error bit (bits 1-4) is set. -/
def fpsrError (r : BitVec 32) : Bool := fpsrBit r 1 || fpsrBit r 2 || fpsrBit r 3 || fpsrBit r 4

/-- ANY (bit 0) follows bits 1-4 (10_state.md R24). -/
def fixAny (r : BitVec 32) : BitVec 32 := setFpsrBit r 0 (fpsrError r)

/-- Set error bit i if `v`; error bits are sticky (R357). -/
def raiseFpsr (r : BitVec 32) (i : Nat) (v : Bool) : BitVec 32 := if v then setFpsrBit r i true else r

/-- The error bits of a result joined to the status register. -/
def raiseErrors (r : BitVec 32) (x : FloatResult) : BitVec 32 :=
  fixAny (raiseFpsr (raiseFpsr (raiseFpsr r 1 x.ovf) 2 x.unf) 4 x.mof)

/-- Set Z and N (bits 6 and 7). -/
def setZN (r : BitVec 32) (z n : Bool) : BitVec 32 := setFpsrBit (setFpsrBit r 6 z) 7 n

/-- SetZN(x) (R352). -/
def zeroNegative (r : BitVec 32) (x : Quad) : BitVec 32 :=
  setZN r (decide (fpMan x = 0)) (fpSign x && decide (fpMan x ≠ 0))

/-- FPPC <- pc (R353). -/
def setFppc (r : BitVec 32) (pc : Addr) : BitVec 32 := r.extractLsb' 15 17 ++ pc

/-- An operand of 32 bits placed in the FPSR (R392): ANY is recomputed, reserved bits are stored (U20). -/
def loadFpsr (v : BitVec 32) : BitVec 32 := fixAny v

/-! ### Issue and completion -/

/-- A floating point trap waits (R358, D14). -/
def State.fpTrapPending (s : State) : Bool := fpsrBit s.fpsr 5 && fpsrError s.fpsr

/-- FPIssue (R358) before an instruction's rule. -/
def fpIssue (body : Exec Unit) : Exec Unit := do
  let s ← get
  if s.fpTrapPending then floatingPointFault else body

/-- A floating point instruction: a no-op of one word without the feature (R355). -/
def floatInstr (body : Exec Unit) : Exec Unit := do
  let s ← get
  if s.cfg.hasFpu then fpIssue body else advance 1

/-- FPPC <- PC (R353). -/
def State.markFppc (s : State) : State := s.setFpsr (setFppc s.fpsr s.pc)

/-- A result in FPAC[f] with its error bits, Z, N and FPPC (R351 to R353). -/
def State.floatResult (s : State) (f : Acc) (r : FloatResult) : State :=
  (s.setFpac f r.value).setFpsr (setFppc (zeroNegative (raiseErrors s.fpsr r) r.value) s.pc)

/-- The result of a divide: on a zero divisor DVZ is set and FACD, Z and N stay (R378). -/
def State.divideResult (s : State) (f : Acc) (b : Quad) (single : Bool) : State :=
  if fpMan b = 0 then s.setFpsr (setFppc (fixAny (setFpsrBit s.fpsr 3 true)) s.pc)
  else s.floatResult f (floatDiv (s.fpac f) b single)

/-- ReadS (R354): extended with 32 low-order zeroes. -/
def readSingle (e : Addr) : Exec Quad := do
  let v ← memRead2 e
  pure (v ++ 0#32)

end Sys2Proof.Machine
end

