-- ==== Sys2Proof/Machine/Given.lean ====
section
/-! DEFINITION. Effects that stand outside the spec and are taken as parameters when they are given: unassigned words
(30_encoding.md R108) and the entries of the writeable control store (45_xop_wcs.md R292). -/

namespace Sys2Proof.Machine

/-- A device with the flags and buffers of `e`: its codes and its mask bit are fixed (00_scope.md R4, DEVICES). -/
def Device.given (d e : Device) : Device := { e with code := d.code, ackCode := d.ackCode, maskBit := d.maskBit }

/-- The devices of the bus with the flags and buffers of `es`, device by device; as they were where `es` is not as many. -/
def givenDevices (ds es : List Device) : List Device :=
  if ds.length = es.length then ds.zipWith Device.given es else ds

/-- The state `t` that a given function makes of `s`, kept to what is a state of this machine: the configuration with its set of
devices (00_scope.md R4), the console and the model's own fields stay, memory stays well-formed and inside the installed
memory, and FPSR bit 0 follows bits 1-4. -/
def State.given (s t : State) : State :=
  { t with
    cfg := s.cfg, console := s.console, inputs := s.inputs, free := s.free, cut := s.cut, fpsr := fixAny t.fpsr,
    devices := givenDevices s.devices t.devices,
    mem := if Memory.wf t.mem && t.mem.all (fun c => decide (c.1 < 2 * s.cfg.memWords)) then t.mem else s.mem }

/-- An unassigned word: the effect that UNASSIGNED_OP gives it, else the model reports it and stops (30_encoding.md R108, D7). -/
def unassigned {α : Type} (w : Word) : Exec α := do
  let s ← get
  match if s.cfg.unassignedOp then unassignedOp w s else none with
  | some t =>
    set (s.given t)
    throw .trap
  | none => throw (.refuse (.unassigned w))

end Sys2Proof.Machine
end

