-- ==== Sys2Proof/Machine/ByteBit.lean ====
section
/-! DEFINITION. Byte, bit and block-move instructions (42_byte_bit.md). -/

namespace Sys2Proof.Machine

open Host (Outcome)

/-- LDB (R212). -/
def execLdb (acs acd : Acc) (s : State) : Outcome State Fault Refusal :=
  runExec (do
    let b ← byteRead (s.ac acs)
    modify fun t => t.setAc acd (b.zeroExtend 16)
    advance 1) s

/-- STB (R213). -/
def execStb (acs acd : Acc) (s : State) : Outcome State Fault Refusal :=
  runExec (do
    byteWrite (s.ac acs) (loByte (s.ac acd))
    advance 1) s

/-- A word of the commercial set on a machine without it is unassigned (30_encoding.md R109 (c), D9). -/
def needsEap (w : Word) : Exec Unit := do
  let s ← get
  if s.cfg.hasEap then pure () else unassigned w

/-- ELDB (R214). -/
def execEldb (ac : Acc) (ix : Index) (disp : Word) (s : State) : Outcome State Fault Refusal :=
  runExec (do
    needsEap (encode1 (.eldb ac ix disp))
    let b ← byteRead (s.extBytePtr ix disp)
    modify fun t => t.setAc ac (b.zeroExtend 16)
    advance 2) s

/-- ESTB (R215). -/
def execEstb (ac : Acc) (ix : Index) (disp : Word) (s : State) : Outcome State Fault Refusal :=
  runExec (do
    needsEap (encode1 (.estb ac ix disp))
    byteWrite (s.extBytePtr ix disp) (loByte (s.ac ac))
    advance 2) s

/-- BTO (R216). -/
def execBto (acs acd : Acc) (s : State) : Outcome State Fault Refusal :=
  runExec (do
    let p ← bitPointer acs acd
    let v ← memRead p.1
    memWrite p.1 (v ||| bitMask p.2)
    advance 1) s

/-- BTZ (R217). -/
def execBtz (acs acd : Acc) (s : State) : Outcome State Fault Refusal :=
  runExec (do
    let p ← bitPointer acs acd
    let v ← memRead p.1
    memWrite p.1 (v &&& ~~~bitMask p.2)
    advance 1) s

/-- SZB (R218). -/
def execSzb (acs acd : Acc) (s : State) : Outcome State Fault Refusal :=
  runExec (do
    let p ← bitPointer acs acd
    let v ← memRead p.1
    advanceSkip 1 (!v.getMsbD p.2)) s

/-- SNB (R219). -/
def execSnb (acs acd : Acc) (s : State) : Outcome State Fault Refusal :=
  runExec (do
    let p ← bitPointer acs acd
    let v ← memRead p.1
    advanceSkip 1 (v.getMsbD p.2)) s

/-- SZBO (R220). -/
def execSzbo (acs acd : Acc) (s : State) : Outcome State Fault Refusal :=
  runExec (do
    let p ← bitPointer acs acd
    let v ← memRead p.1
    memWrite p.1 (v ||| bitMask p.2)
    advanceSkip 1 (!v.getMsbD p.2)) s

/-- LOB (R223). -/
def execLob (acs acd : Acc) (s : State) : Outcome State Fault Refusal :=
  .next ((s.setAc acd (s.ac acd + BitVec.ofNat 16 (leadingZeros (s.ac acs)))).setPc (s.pc + 1))

/-- The leading 1 of a word set to 0 (R224). -/
def clearLeadBit (w : Word) : Word := w &&& ~~~bitMask (leadingZeros w)

/-- LRB (R224). -/
def execLrb (acs acd : Acc) (s : State) : Outcome State Fault Refusal :=
  let v := s.ac acs
  let counted := if acs = acd then s else s.setAc acd (s.ac acd + BitVec.ofNat 16 (leadingZeros v))
  .next ((counted.setAc acs (clearLeadBit v)).setPc (s.pc + 1))

/-- COB (R225). -/
def execCob (acs acd : Acc) (s : State) : Outcome State Fault Refusal :=
  .next ((s.setAc acd (s.ac acd + BitVec.ofNat 16 (countOnes (s.ac acs) 16))).setPc (s.pc + 1))

/-- An indirect address in an accumulator is resolved and placed in it (R221). -/
def resolveAcAddr (n : Acc) : Exec Unit := do
  let s ← get
  if isIndirect (s.ac n) then do
    let e ← indirect (addrOf (s.ac n))
    modify fun t => t.setAc n (wordOfAddr e)
  else pure ()

/-- The number of words a block move moves: none when AC1 is 0 or above 100000 octal (R221). -/
def blockCount (w : Word) : Nat := if w.toNat ≤ 32768 then w.toNat else 0

/-- The accumulators after one word has been moved (R221). -/
def State.blockStep (s : State) : State :=
  ((s.setAc1 (s.ac1 - 1)).setAc2 (wordOfAddr (addrOf s.ac2 + 1))).setAc3 (wordOfAddr (addrOf s.ac3 + 1))

/-- The words of a block move, one by one, each changed by f; an interruption point follows each word but
the last (R221, R226). -/
def blockLoop (f : Word → Word) : Nat → Exec Unit
  | 0 => pure ()
  | n + 1 => do
    let s ← get
    let v ← memRead (addrOf s.ac2)
    memWrite (addrOf s.ac3) (f v)
    modify State.blockStep
    let t ← get
    if n ≠ 0 ∧ t.canSuspend then suspendInstr else blockLoop f n

/-- BAM and BLM after their word function (R221, R222). -/
def blockMove (f : Word → Word) : Exec Unit := do
  let s ← get
  if blockCount s.ac1 = 0 then pure ()
  else do
    resolveAcAddr .a2
    resolveAcAddr .a3
    blockLoop f (blockCount s.ac1)
  advance 1

/-- BAM (R221). -/
def execBam (s : State) : Outcome State Fault Refusal := runExec (blockMove fun v => v + s.ac0) s

/-- BLM (R222). -/
def execBlm (s : State) : Outcome State Fault Refusal := runExec (blockMove fun v => v) s

end Sys2Proof.Machine
end

