-- ==== Sys2Proof/Machine/MapUnit.lean ====
section
/-! DEFINITION. The MAP instructions of both variants (46_map.md): what a word loads, the status words, LOAD
MAP. The I/O forms of device 3 stand in InOut.lean. -/

namespace Sys2Proof.Machine

open Host (Outcome)

/-! ### `map200`: the three word formats (46_map.md R307 to R309) -/

/-- Bit i of a word, the manual's numbering. -/
def wordBit (w : Word) (i : Nat) : Bool := w.getMsbD i

/-- The user a one-bit field names. -/
def userOfBit (b : Bool) : User := if b then .b else .a

/-- The bit that names a user. -/
def bitOfUser : User → BitVec 1
  | .a => 0
  | .b => 1

/-- Replace an entry of a map. -/
def setEntry (m : Vector MapEntry 32) (b : BitVec 5) (e : MapEntry) : Vector MapEntry 32 := m.set b.toNat e b.isLt

/-- The entry of a format one word (R307). -/
def entry200 (v : Word) : MapEntry := { wp := wordBit v 8, val := 0, phys := 0#1 ++ fld v 9 7 }

/-- Format one (R307): an address translation. -/
def MapUnit.loadTranslation200 (m : MapUnit) (v : Word) : MapUnit :=
  match (fld v 6 2).toNat with
  | 1 => { m with dmapA := setEntry m.dmapA (fld v 1 5) (entry200 v) }
  | 2 => { m with umapA := setEntry m.umapA (fld v 1 5) (entry200 v) }
  | _ => { m with umapB := setEntry m.umapB (fld v 1 5) (entry200 v) }

/-- Format two (R308): the device protect bits of one class. -/
def MapUnit.loadDevices200 (m : MapUnit) (v : Word) : MapUnit :=
  let c := fld v 3 3
  if wordBit v 2 then { m with devProtB := m.devProtB.set c.toNat (fld v 8 8) c.isLt }
  else { m with devProtA := m.devProtA.set c.toNat (fld v 8 8) c.isLt }

/-- The enables of a format three word (R309). -/
def enables200 (v : Word) : Enables :=
  { lef := wordBit v 9, io := wordBit v 10, wp := wordBit v 11, ind := wordBit v 12, dchp := wordBit v 13 }

/-- Format three (R309): status; bit 15 readies the user map (R318). -/
def MapUnit.loadStatus200 (m : MapUnit) (v : Word) : MapUnit :=
  let m := if wordBit v 2 then { m with ustatB := enables200 v } else { m with ustatA := enables200 v }
  { m with dchEn := wordBit v 14,
           enablePending := if wordBit v 15 then some (userOfBit (wordBit v 2)) else m.enablePending }

/-- MapLoad(v) of `map200` (R307). -/
def MapUnit.load200 (m : MapUnit) (v : Word) : MapUnit :=
  if fld v 6 2 ≠ 0 then m.loadTranslation200 v
  else if wordBit v 1 then m.loadDevices200 v
  else m.loadStatus200 v

/-- TRANSLATE BLOCK (R324). -/
def MapUnit.translateBlock200 (m : MapUnit) (v : Word) : MapUnit :=
  let result (t : Vector MapEntry 32) : MapUnit :=
    let e := entryAt t (fld v 1 5)
    { m with tr := bitOf e.wp ++ e.phys.extractLsb' 0 7 }
  match (fld v 6 2).toNat with
  | 0 => m
  | 1 => result m.dmapA
  | 2 => result m.umapA
  | _ => result m.umapB

/-- READ USER STATUS (R319): the enables and modes of the last enabled user; reserved bits are 0 (U8). -/
def MapUnit.userStatus200 (m : MapUnit) : Word :=
  let e := m.ustat m.lastUser
  0#2 ++ bitOfUser m.lastUser ++ 0#6 ++ bitOf e.lef ++ bitOf e.io ++ bitOf e.wp ++ bitOf e.ind ++ bitOf e.dchp ++
    bitOf m.dchEn ++ bitOf m.umodeInt

/-- READ MAP STATUS (R320). -/
def MapUnit.mapStatus200 (m : MapUnit) : Word :=
  bitOf m.dchErr ++ bitOf m.fault.single ++ bitOf m.fault.wp ++ bitOf m.fault.valid ++ bitOf m.fault.ind ++
    bitOf m.fault.io ++ bitOfUser m.lastUser ++ bitOf m.fault.pcUndef ++ m.tr

/-! ### `map230` (46_map.md R330 to R342) -/

/-- The entry of a map word (R331). -/
def entry230 (v : Word) : MapEntry := { wp := wordBit v 0, val := fld v 6 2, phys := fld v 8 8 }

/-- Load a map word into the map STATUS.MAP selects (R330, R332); a reserved code loads nothing (U9). -/
def MapUnit.load230 (m : MapUnit) (v : Word) : MapUnit :=
  let b := fld v 1 5
  let e := entry230 v
  match m.sel.toNat with
  | 0 => { m with umapA := setEntry m.umapA b e }
  | 2 => { m with umapB := setEntry m.umapB b e }
  | 4 => { m with dmapA := setEntry m.dmapA b e }
  | 5 => { m with dmapC := setEntry m.dmapC b e }
  | 6 => { m with dmapB := setEntry m.dmapB b e }
  | 7 => { m with dmapD := setEntry m.dmapD b e }
  | _ => m

/-- The map STATUS.MAP selects, if its code is not reserved (R332). -/
def MapUnit.selected230 (m : MapUnit) : Option (Vector MapEntry 32) :=
  match m.sel.toNat with
  | 0 => some m.umapA
  | 2 => some m.umapB
  | 4 => some m.dmapA
  | 5 => some m.dmapC
  | 6 => some m.dmapB
  | 7 => some m.dmapD
  | _ => none

/-- LOAD MAP STATUS (R332): bit 15 starts the pending enable (R334). -/
def MapUnit.loadStatus230 (m : MapUnit) (v : Word) : MapUnit :=
  let ab := userOfBit (wordBit v 13)
  { m with sel := fld v 6 3, ab := ab, dchEn := wordBit v 14,
           status := { lef := wordBit v 9, io := wordBit v 10, wp := wordBit v 11, ind := wordBit v 12,
                       dchp := false },
           enablePending := if wordBit v 15 then some ab else m.enablePending }

/-- READ MAP STATUS (R335). -/
def MapUnit.mapStatus230 (m : MapUnit) : Word :=
  0#2 ++ bitOf m.fault.io ++ bitOf m.fault.wp ++ bitOf m.fault.ind ++ bitOf m.fault.single ++ m.sel ++
    bitOf m.status.lef ++ bitOf m.status.io ++ bitOf m.status.wp ++ bitOf m.status.ind ++ bitOfUser m.ab ++
    bitOf m.dchEn ++ bitOf m.umodeInt

/-- BLOCK CHECK (R338): the entry with the map code. -/
def blockCheckWord (sel : BitVec 3) (e : MapEntry) : Word := bitOf e.wp ++ sel ++ 0#2 ++ e.val ++ e.phys

/-- BLOCK CHECK reads the entry when it executes (R338); with a reserved map code the entry is any value
(log entry 23). -/
def blockCheck : Exec Word := do
  let s ← get
  match s.map.selected230 with
  | some t => pure (blockCheckWord s.map.sel (entryAt t s.map.checkBlock))
  | none => do
    let v ← freshWord
    pure (blockCheckWord s.map.sel { wp := wordBit v 0, val := fld v 6 2, phys := fld v 8 8 })

/-! ### What the I/O instructions of device 3 do -/

/-- Change the MAP. -/
def modifyMap (f : MapUnit → MapUnit) : Exec Unit := modify fun s => s.setMap (f s.map)

/-- LOAD SINGLE WORD (R316). -/
def mapOutA200 (v : Word) : Exec Unit := modifyMap fun m => m.load200 v

/-- MAP SUPERVISOR BLOCK 31 (R317). -/
def mapOutB200 (v : Word) : Exec Unit := modifyMap fun m => { m with sup31 := 0#1 ++ fld v 9 7 }

/-- TRANSLATE BLOCK (R324). -/
def mapOutC200 (v : Word) : Exec Unit := modifyMap fun m => m.translateBlock200 v

/-- LOAD MAP STATUS (R332). -/
def mapOutA230 (v : Word) : Exec Unit := modifyMap fun m => m.loadStatus230 v

/-- MAP SUPERVISOR BLOCK 31 (R342). -/
def mapOutB230 (v : Word) : Exec Unit := modifyMap fun m => { m with sup31 := fld v 8 8 }

/-- INITIATE BLOCK CHECK (R339). -/
def mapOutC230 (v : Word) : Exec Unit := modifyMap fun m => { m with checkBlock := fld v 1 5, sel := fld v 6 3 }

/-- MAP SINGLE CYCLE (R321, R340). -/
def mapSingleCycle : Exec Unit := modifyMap fun m => { m with singlePending := true }

/-! ### LOAD MAP -/

/-- LMP is not executed by a user with I/O protection (R306, R330). -/
def State.lmpBarred (s : State) : Bool := s.userMode && s.enables.io

/-- AC1 and AC2 after one word has been loaded (R306). -/
def State.lmpStep (s : State) : State := (s.setAc1 (s.ac1 - 1)).setAc2 (wordOfAddr (addrOf s.ac2 + 1))

/-- The words of a LOAD MAP: each has AC0 added and is loaded; an interruption point follows each but the last. -/
def lmpLoop (load : MapUnit → Word → MapUnit) : Nat → Exec Unit
  | 0 => pure ()
  | n + 1 => do
    let s ← get
    let v ← memRead (addrOf s.ac2)
    modifyMap fun m => load m (v + s.ac0)
    modify State.lmpStep
    let t ← get
    if n ≠ 0 ∧ t.canSuspend then suspendInstr else lmpLoop load n

/-- LMP of the S/200 and C/300 (R306). -/
def execLmp200 (s : State) : Outcome State Fault Refusal :=
  runExec (do
    if s.lmpBarred ∨ blockCount s.ac1 = 0 then pure ()
    else do
      resolveAcAddr .a2
      lmpLoop MapUnit.load200 (blockCount s.ac1)
    advance 1) s

/-- LMP of the S/230 and C/330 (R330). AC0 must be 0 and bit 0 of AC2 must be 0; outside that the effect of R306
is taken, as U9 allows (log entry 23). -/
def execLmp230 (s : State) : Outcome State Fault Refusal :=
  runExec (do
    if s.lmpBarred ∨ s.ac1 = 0 then pure ()
    else do
      resolveAcAddr .a2
      lmpLoop MapUnit.load230 s.ac1.toNat
    advance 1) s

end Sys2Proof.Machine
end

