-- ==== Sys2Proof/Machine/InOut.lean ====
section
/-! DEFINITION. The I/O instructions, the functions of the CPU device, the ERCC, the clock, the WCS and the MAP
as devices (49_io.md, 45_xop_wcs.md R294 to R296, 46_map.md R316 to R342). -/

namespace Sys2Proof.Machine

open Host (Outcome)

/-- An I/O instruction that the MAP protects causes a protection fault instead of executing (46_map.md R312,
R336). -/
def State.ioProtected (s : State) (dev : BitVec 6) : Bool :=
  s.userMode && s.enables.io &&
    (match s.cfg.mapKind with
      | .map200 =>
        let c : BitVec 3 := dev.extractLsb' 3 3
        ((s.map.devProt s.curUser)[c.toNat]'(c.isLt)).getMsbD (dev.extractLsb' 0 3).toNat
      | _ => true)

/-- First step of every I/O instruction. -/
def ioGuard (dev : BitVec 6) : Exec Unit := do
  let s ← get
  if s.ioProtected dev then protectionFault .io false else pure ()

/-! ### Peripherals (49_io.md R504, R505, R508) -/

/-- The installed peripheral with a device code. -/
def State.device (s : State) (dev : BitVec 6) : Option Device := s.devices.find? fun d => d.code == dev

/-- Change the peripheral with a device code; nothing where none is installed. -/
def State.updateDevice (s : State) (dev : BitVec 6) (f : Device → Device) : State :=
  s.setDevices (s.devices.map fun d => if d.code = dev then f d else d)

/-- d.in (49_io.md R505). -/
def Device.input (d : Device) : Buffer → Word
  | .a => d.inA
  | .b => d.inB
  | .c => d.inC

/-- d.out (49_io.md R505). -/
def Device.output (d : Device) (b : Buffer) (v : Word) : Device :=
  match b with
  | .a => { d with outA := v }
  | .b => { d with outB := v }
  | .c => { d with outC := v }

/-- Flags(f, d) (49_io.md R504). -/
def Device.flags (d : Device) : IoF → Device
  | .none => d
  | .start => { d with busy := true, done := false, lastPulse := some .start }
  | .clear => { d with busy := false, done := false, lastPulse := some .clear }
  | .pulse => { d with lastPulse := some .io }

/-! ### Which unit answers a device code -/

/-- The units of the processor itself that answer a device code, when installed (49_io.md R583, R508). -/
inductive IoUnit where
  | cpu
  | wcs
  | ercc
  | map
  | rtc
  | peripheral
  deriving DecidableEq, Repr

/-- The unit at a device code (60_exceptions.md R583). -/
def State.unitAt (s : State) (dev : BitVec 6) : IoUnit :=
  if dev = 0o77 then .cpu
  else if dev = 1 ∧ s.cfg.hasWcs then .wcs
  else if dev = 2 ∧ s.cfg.hasErcc then .ercc
  else if dev = 3 ∧ s.hasMap then .map
  else if dev = 0o14 ∧ s.cfg.hasRtc then .rtc
  else .peripheral

/-- IonF (49_io.md R512). -/
def State.ionF (s : State) : IoF → State
  | .start => (if s.ion then s else s.setIonDelay .fresh).setIon true
  | .clear => s.setIon false
  | _ => s

/-- Flags' of the ERCC (49_io.md R534): Start clears Done and the fault address. -/
def Ercc.flags (e : Ercc) : IoF → Ercc
  | .start => { e with done := false, faultAddr := 0 }
  | _ => e

/-- The clock's Busy and Done obey the ordinary F functions (49_io.md R540). -/
def Rtc.flags (r : Rtc) : IoF → Rtc
  | .start => { r with busy := true, done := false }
  | .clear => { r with busy := false, done := false }
  | _ => r

/-- The F function at a device code (49_io.md R504, R512, R534; none on the MAP and the WCS, 46_map.md R327). -/
def State.flagsAt (s : State) (f : IoF) (dev : BitVec 6) : State :=
  match s.unitAt dev with
  | .cpu => s.ionF f
  | .ercc => s.setErcc (s.ercc.flags f)
  | .rtc => s.setRtc (s.rtc.flags f)
  | .peripheral => s.updateDevice dev fun d => d.flags f
  | _ => s

/-- Busy at a device code (49_io.md R503, R508, R534, R540; 46_map.md R327); 0 at an installed WCS, the model's choice (R293;
log entry 15). -/
def State.busyAt (s : State) (dev : BitVec 6) : Bool :=
  match s.unitAt dev with
  | .rtc => s.rtc.busy
  | .peripheral => (match s.device dev with | some d => d.busy | none => false)
  | _ => false

/-- Done at a device code; 0 at an installed WCS, the model's choice (log entry 15). -/
def State.doneAt (s : State) (dev : BitVec 6) : Bool :=
  match s.unitAt dev with
  | .ercc => s.ercc.done
  | .rtc => s.rtc.done
  | .peripheral => (match s.device dev with | some d => d.done | none => false)
  | _ => false

/-- The test of a CPU SKIP (49_io.md R521). -/
def State.cpuTest (s : State) : IoTest → Bool
  | .bn => s.ion
  | .bz => !s.ion
  | .dn => s.cfg.hasPfar && s.pwrFail
  | .dz => !(s.cfg.hasPfar && s.pwrFail)

/-- The test of an I/O SKIP (49_io.md R503, R521). -/
def State.skipTest (s : State) (t : IoTest) (dev : BitVec 6) : Bool :=
  if dev = 0o77 then s.cpuTest t
  else
    match t with
    | .bn => s.busyAt dev
    | .bz => !s.busyAt dev
    | .dn => s.doneAt dev
    | .dz => !s.doneAt dev

/-- What a data-in instruction reads at a device code: 0 where nothing answers (49_io.md R508); the functions of
the MAP whatever F is; from an installed WCS, of which the manual does not say it (45_xop_wcs.md R293), 0: the model's
choice (log entry 15). -/
def inputAt (b : Buffer) (dev : BitVec 6) : Exec Word := do
  let s ← get
  match s.unitAt dev with
  | .peripheral => pure (match s.device dev with | some d => d.input b | none => 0)
  | .map =>
    match s.cfg.mapKind, b with
    | .map200, .a => pure s.map.userStatus200
    | .map200, .c => pure s.map.mapStatus200
    | .map230, .a => pure s.map.mapStatus230
    | .map230, .c => blockCheck
    | _, _ => pure 0
  | _ => pure 0

/-- SPECIFY ADDRESS (45_xop_wcs.md R294). -/
def State.wcsSpecify (s : State) (v : Word) : State := s.setWcs { s.wcs with wordReg := v }

/-- A microword with one field replaced (45_xop_wcs.md R295). -/
def microField (m : BitVec 56) (f : BitVec 2) (v : Word) : BitVec 56 :=
  match f.toNat with
  | 0 => v ++ m.extractLsb' 0 40
  | 1 => m.extractLsb' 40 16 ++ v ++ m.extractLsb' 0 24
  | 2 => m.extractLsb' 24 32 ++ v ++ m.extractLsb' 0 8
  | _ => m.extractLsb' 8 48 ++ hiByte v

/-- LOAD MICROCODE (45_xop_wcs.md R295). -/
def State.wcsMicrocode (s : State) (v : Word) : State :=
  let a := fld s.wcs.wordReg 6 8
  let old := s.wcs.micro[a.toNat]'(a.isLt)
  s.setWcs { s.wcs with micro := s.wcs.micro.set a.toNat (microField old (fld s.wcs.wordReg 14 2) v) a.isLt }

/-- LOAD DECODE ADDRESS (45_xop_wcs.md R296). -/
def State.wcsDecodeAddress (s : State) (v : Word) : State :=
  let i : BitVec 5 := fld s.wcs.wordReg 15 1 ++ fld s.wcs.wordReg 11 4
  s.setWcs { s.wcs with decode := s.wcs.decode.set i.toNat (loByte v) i.isLt }

/-- What a data-out instruction does at a device code (49_io.md R508; the functions of the MAP and the WCS whatever
F is, log entry 15). -/
def outputAt (b : Buffer) (dev : BitVec 6) (v : Word) : Exec Unit := do
  let s ← get
  match s.unitAt dev with
  | .peripheral => set (s.updateDevice dev fun d => d.output b v)
  | .map =>
    match s.cfg.mapKind, b with
    | .map200, .a => mapOutA200 v
    | .map200, .b => mapOutB200 v
    | .map200, .c => mapOutC200 v
    | .map230, .a => mapOutA230 v
    | .map230, .b => mapOutB230 v
    | .map230, .c => mapOutC230 v
    | .none, _ => pure ()
  | .wcs =>
    match b with
    | .a => set (s.wcsSpecify v)
    | .b => set (s.wcsMicrocode v)
    | .c => set (s.wcsDecodeAddress v)
  | _ => pure ()

/-- The end of an I/O instruction: the F function, then the next instruction. -/
def ioEnd (f : IoF) (dev : BitVec 6) : Exec Unit := do
  modify fun s => s.flagsAt f dev
  advance 1

/-- The F function of a data transfer of the general rows: none at an installed ERCC, whose DIC, DOB and DOC do nothing (49_io.md
R535, R508). -/
def State.transferF (s : State) (f : IoF) (dev : BitVec 6) : IoF := if s.unitAt dev = .ercc then .none else f

/-- A data-in instruction (49_io.md R502, R524, R525). -/
def dataIn (b : Buffer) (ac : Acc) (f : IoF) (dev : BitVec 6) : Exec Unit := do
  ioGuard dev
  let v ← inputAt b dev
  modify fun s => s.setAc ac v
  let s ← get
  ioEnd (s.transferF f dev) dev

/-- A data-out instruction (49_io.md R526 to R528). -/
def dataOut (b : Buffer) (ac : Acc) (f : IoF) (dev : BitVec 6) : Exec Unit := do
  ioGuard dev
  let s ← get
  outputAt b dev (s.ac ac)
  ioEnd (s.transferF f dev) dev

/-! ### The general rows -/

/-- NIO (R501); a pulse to the MAP is MAP SINGLE CYCLE whatever the unused AC field (R501, 46_map.md R321). -/
def execNio (_ac : Acc) (f : IoF) (dev : BitVec 6) (s : State) : Outcome State Fault Refusal :=
  runExec (do
    ioGuard dev
    if s.unitAt dev = .map ∧ f = .pulse then mapSingleCycle
    ioEnd f dev) s

/-- DIA (R502). -/
def execDia (ac : Acc) (f : IoF) (dev : BitVec 6) (s : State) : Outcome State Fault Refusal :=
  runExec (dataIn .a ac f dev) s

/-- DIB (R524). -/
def execDib (ac : Acc) (f : IoF) (dev : BitVec 6) (s : State) : Outcome State Fault Refusal :=
  runExec (dataIn .b ac f dev) s

/-- DIC (R525). -/
def execDic (ac : Acc) (f : IoF) (dev : BitVec 6) (s : State) : Outcome State Fault Refusal :=
  runExec (dataIn .c ac f dev) s

/-- DOA (R526). -/
def execDoa (ac : Acc) (f : IoF) (dev : BitVec 6) (s : State) : Outcome State Fault Refusal :=
  runExec (dataOut .a ac f dev) s

/-- DOB (R527). -/
def execDob (ac : Acc) (f : IoF) (dev : BitVec 6) (s : State) : Outcome State Fault Refusal :=
  runExec (dataOut .b ac f dev) s

/-- DOC (R528). -/
def execDoc (ac : Acc) (f : IoF) (dev : BitVec 6) (s : State) : Outcome State Fault Refusal :=
  runExec (dataOut .c ac f dev) s

/-- SKP (R503). -/
def execSkp (_ac : Acc) (t : IoTest) (dev : BitVec 6) (s : State) : Outcome State Fault Refusal :=
  runExec (do
    ioGuard dev
    advanceSkip 1 (s.skipTest t dev)) s

/-! ### Device 77 octal, the CPU -/

/-- INTEN (R514). -/
def execInten (s : State) : Outcome State Fault Refusal :=
  runExec (do
    ioGuard 0o77
    ioEnd .start 0o77) s

/-- INTDS (R515). -/
def execIntds (s : State) : Outcome State Fault Refusal :=
  runExec (do
    ioGuard 0o77
    ioEnd .clear 0o77) s

/-- READS (R516). -/
def execReads (ac : Acc) (f : IoF) (s : State) : Outcome State Fault Refusal :=
  runExec (do
    ioGuard 0o77
    modify fun t => t.setAc ac t.console.switches
    ioEnd f 0o77) s

/-- The code a requesting device answers INTA with, if the device at this bus code requests (R506, R517, R534,
R540). -/
def State.ackAt (s : State) (code : BitVec 6) : Option (BitVec 6) :=
  if code = 2 ∧ s.erccReq then some 2
  else if code = 0o14 ∧ s.rtcReq then some 0o14
  else
    match s.devices.find? fun d => d.code == code && s.deviceReq d with
    | some d => some d.ackCode
    | none => none

/-- Ack() (R517): the requesting device closest to the CPU, 0 with none; devices the bus order does not list are
taken as further out. -/
def State.ack (s : State) : BitVec 6 :=
  ((s.cfg.busOrder ++ [2, 0o14] ++ s.devices.map Device.code).findSome? s.ackAt).getD 0

/-- INTA (R517). -/
def execInta (ac : Acc) (f : IoF) (s : State) : Outcome State Fault Refusal :=
  runExec (do
    ioGuard 0o77
    modify fun t => t.setAc ac (t.ack.zeroExtend 16)
    ioEnd f 0o77) s

/-- MSKO (R518). -/
def execMsko (ac : Acc) (f : IoF) (s : State) : Outcome State Fault Refusal :=
  runExec (do
    ioGuard 0o77
    modify fun t => t.setMask (t.ac ac)
    ioEnd f 0o77) s

/-- The MAP after an I/O RESET (10_state.md R45): supervisor mode, data channel map disabled, block 31 at 31, nothing
pending, no fault; the elements R45 calls unspecified take free values, each from bits of the given words that no other
element is taken from (log entry 17). -/
def MapUnit.ioReset (m : MapUnit) (v w x y : Word) : MapUnit :=
  { m with userEn := false, dchEn := false, sup31 := 31, enablePending := none, singlePending := false,
           fault := .none, dchErr := false,
           ustatA := enables200 v, ustatB := enables200 w,
           lastUser := userOfBit (wordBit x 0), umodeInt := wordBit x 1, ab := userOfBit (wordBit x 2),
           checkBlock := fld x 3 5, tr := fld x 8 8,
           sel := fld y 13 3, status := { lef := wordBit y 0, io := wordBit y 1, wp := wordBit y 2, ind := wordBit y 3,
                                          dchp := false } }

/-- The WCS holds any value after an I/O RESET (10_state.md R45, log entry 17). -/
def anyWcs (base : Nat) : Wcs :=
  { wordReg := Config.freeWord base,
    micro := Vector.ofFn fun i : Fin 256 => (Config.freeQuad (base + 1 + i.val)).extractLsb' 0 56,
    decode := Vector.ofFn fun i : Fin 32 => loByte (Config.freeWord (base + 257 + i.val)) }

/-- What an I/O RESET writes but for ION (R519; the IORST column of 10_state.md R45). Pending data channel requests (R43
item 7), of which R45 says nothing, stay: the model's choice (log entry 49). -/
def ioReset : Exec Unit := do
  let v ← freshWord
  let w ← freshWord
  let x ← freshWord
  let y ← freshWord
  let a ← freshWord
  let c ← freshWord
  modify fun s => s.setDevices (s.devices.map fun d => { d with busy := false, done := false, lastPulse := some .reset })
  modify fun s => (s.setMask 0).setFpsr (s.fpsr &&& 0x03FFFFFF#32)
  modify fun s => (s.setMap (s.map.ioReset v w x y)).setUserHold .idle
  modify fun s => s.setErcc { s.ercc with mode := 2, done := false, faultAddr := fld c 5 1 ++ a, code := fld c 0 5 }
  modify fun s => s.setRtc { freq := 0, busy := false, done := false }
  modify fun s => (s.setWcs (anyWcs s.free)).setFree (s.free + 289)

/-- IORST (R519); the AC field is ignored. -/
def execIorst (_ac : Acc) (f : IoF) (s : State) : Outcome State Fault Refusal :=
  runExec (do
    ioGuard 0o77
    ioReset
    ioEnd f 0o77) s

/-- HALT (R520): the F function first, then the processor is stopped. What the address lights show then is not said; they keep
what they showed, the model's choice (log entry 26). -/
def execHalt (ac : Acc) (f : IoF) (s : State) : Outcome State Fault Refusal :=
  runExec (do
    ioGuard 0o77
    modify fun t => t.ionF f
    modify fun t => t.setConsole { t.console with dataLights := t.ac ac }
    advance 1
    modify fun t => t.setRun false) s

/-- SKP CPU (R521). -/
def execSkpCpu (t : IoTest) (s : State) : Outcome State Fault Refusal :=
  runExec (do
    ioGuard 0o77
    advanceSkip 1 (s.cpuTest t)) s

/-- The stack change of VCT (R522): the vector stack replaces the stack control words, which are pushed on it. -/
def stackChange : Exec Unit := do
  let o40 ← memRead 0o40
  let o41 ← memRead 0o41
  let o42 ← memRead 0o42
  let o43 ← memRead 0o43
  let vsp ← memRead 4
  memWrite 0o40 vsp
  let vsl ← memRead 6
  memWrite 0o42 vsl
  let vsf ← memRead 7
  memWrite 0o43 vsf
  push o40
  push o41
  push o42
  push o43

/-- The part of VCT with a device control table (R522, modes B to E). -/
def vectorThrough (change : Bool) (dct : Addr) : Exec Unit := do
  if change then stackChange
  let d0 ← memRead dct
  if isIndirect d0 then do
    let w ← memRead 0
    pushBlock (addrOf w)
  modify fun s => s.setAc2 (wordOfAddr dct)
  let old ← memRead 5
  push old
  let new ← memRead (dct + 1)
  let cur ← memRead 5
  modify fun s => s.setAc0 (new ||| cur)
  memWrite 5 (new ||| cur)
  modify fun s => (s.setMask (new ||| cur)).ionF .start
  modify fun s => s.setPc (addrOf d0)
  checkOverflow (addrOf d0)

/-- VCT (R522). -/
def execVct (change : Bool) (table : Addr) (s : State) : Outcome State Fault Refusal :=
  runExec (do
    ioGuard 0o77
    let e ← memRead (table + s.ack.zeroExtend 15)
    if isIndirect e then vectorThrough change (addrOf e)
    else modify fun t => t.setPc (addrOf e)) s

/-! ### Device 3, the MAP -/

/-- A MAP instruction that takes an accumulator's contents (46_map.md R316, R317, R324, R332, R339, R342). -/
def mapDataOut (ac : Acc) (f : Word → Exec Unit) : Exec Unit := do
  ioGuard 3
  let s ← get
  f (s.ac ac)
  advance 1

/-- A MAP instruction that fills an accumulator (46_map.md R319, R320, R335, R338). -/
def mapDataIn (ac : Acc) (f : Exec Word) : Exec Unit := do
  ioGuard 3
  let v ← f
  modify fun s => s.setAc ac v
  advance 1

/-- DOA ac,MAP of the S/200 and C/300 (R316). -/
def execDoaMap200 (ac : Acc) (s : State) : Outcome State Fault Refusal := runExec (mapDataOut ac mapOutA200) s

/-- DOA ac,MAP of the S/230 and C/330 (R332). -/
def execDoaMap230 (ac : Acc) (s : State) : Outcome State Fault Refusal := runExec (mapDataOut ac mapOutA230) s

/-- DOB ac,MAP of the S/200 and C/300 (R317). -/
def execDobMap200 (ac : Acc) (s : State) : Outcome State Fault Refusal := runExec (mapDataOut ac mapOutB200) s

/-- DOB ac,MAP of the S/230 and C/330 (R342). -/
def execDobMap230 (ac : Acc) (s : State) : Outcome State Fault Refusal := runExec (mapDataOut ac mapOutB230) s

/-- DOC ac,MAP of the S/200 and C/300 (R324). -/
def execDocMap200 (ac : Acc) (s : State) : Outcome State Fault Refusal := runExec (mapDataOut ac mapOutC200) s

/-- DOC ac,MAP of the S/230 and C/330 (R339). -/
def execDocMap230 (ac : Acc) (s : State) : Outcome State Fault Refusal := runExec (mapDataOut ac mapOutC230) s

/-- DIA ac,MAP of the S/200 and C/300 (R319). -/
def execDiaMap200 (ac : Acc) (s : State) : Outcome State Fault Refusal :=
  runExec (mapDataIn ac (do
    let t ← get
    pure t.map.userStatus200)) s

/-- DIA ac,MAP of the S/230 and C/330 (R335). -/
def execDiaMap230 (ac : Acc) (s : State) : Outcome State Fault Refusal :=
  runExec (mapDataIn ac (do
    let t ← get
    pure t.map.mapStatus230)) s

/-- DIC ac,MAP of the S/200 and C/300 (R320). -/
def execDicMap200 (ac : Acc) (s : State) : Outcome State Fault Refusal :=
  runExec (mapDataIn ac (do
    let t ← get
    pure t.map.mapStatus200)) s

/-- DIC ac,MAP of the S/230 and C/330 (R338). -/
def execDicMap230 (ac : Acc) (s : State) : Outcome State Fault Refusal := runExec (mapDataIn ac blockCheck) s

/-- NIOP MAP of the S/200 and C/300 (R321). -/
def execNiopMap200 (s : State) : Outcome State Fault Refusal :=
  runExec (do
    ioGuard 3
    mapSingleCycle
    advance 1) s

/-- NIOP MAP of the S/230 and C/330 (R340). -/
def execNiopMap230 (s : State) : Outcome State Fault Refusal :=
  runExec (do
    ioGuard 3
    mapSingleCycle
    advance 1) s

/-! ### Device 1, the WCS; without it nothing answers (49_io.md R508) -/

/-- A WCS instruction (45_xop_wcs.md R294 to R296). -/
def wcsOut (ac : Acc) (f : State → Word → State) : Exec Unit := do
  ioGuard 1
  modify fun s => if s.cfg.hasWcs then f s (s.ac ac) else s
  advance 1

/-- DOA ac,WCS (R294). -/
def execDoaWcs (ac : Acc) (s : State) : Outcome State Fault Refusal := runExec (wcsOut ac State.wcsSpecify) s

/-- DOB ac,WCS (R295). -/
def execDobWcs (ac : Acc) (s : State) : Outcome State Fault Refusal := runExec (wcsOut ac State.wcsMicrocode) s

/-- DOC ac,WCS (R296). -/
def execDocWcs (ac : Acc) (s : State) : Outcome State Fault Refusal := runExec (wcsOut ac State.wcsDecodeAddress) s

/-! ### Device 2, the ERCC, and device 14 octal, the clock; without them nothing answers (49_io.md R508) -/

/-- DOA ac,ERCC (R531). -/
def execDoaErcc (ac : Acc) (f : IoF) (s : State) : Outcome State Fault Refusal :=
  runExec (do
    ioGuard 2
    modify fun t => if t.cfg.hasErcc then t.setErcc { t.ercc with mode := fld (t.ac ac) 14 2 } else t
    ioEnd f 2) s

/-- DIA ac,ERCC (R532). -/
def execDiaErcc (ac : Acc) (f : IoF) (s : State) : Outcome State Fault Refusal :=
  runExec (do
    ioGuard 2
    modify fun t => t.setAc ac (if t.cfg.hasErcc then t.ercc.faultAddr.extractLsb' 0 16 else 0)
    ioEnd f 2) s

/-- DIB ac,ERCC (R533). -/
def execDibErcc (ac : Acc) (f : IoF) (s : State) : Outcome State Fault Refusal :=
  runExec (do
    ioGuard 2
    modify fun t => t.setAc ac
      (if t.cfg.hasErcc then t.ercc.code ++ 0#10 ++ t.ercc.faultAddr.extractLsb' 16 1 else 0)
    ioEnd f 2) s

/-- DOA ac,RTC (R541). -/
def execDoaRtc (ac : Acc) (f : IoF) (s : State) : Outcome State Fault Refusal :=
  runExec (do
    ioGuard 0o14
    modify fun t => if t.cfg.hasRtc then t.setRtc { t.rtc with freq := fld (t.ac ac) 14 2 } else t
    ioEnd f 0o14) s

end Sys2Proof.Machine
end

