-- ==== Sys2Proof/Machine/Console.lean ====
section
/-! DEFINITION. What the outside world does to the machine between instructions: device events (49_io.md R505,
R507), the clock (R540), memory errors (R535), the power supply (R544; 70_reset_and_hazards.md R604) and the operator
(70_reset_and_hazards.md R605 to R612). -/

namespace Sys2Proof.Machine

/-- The state a sequence that no program runs leaves. -/
def State.after (m : Exec Unit) (s : State) : State :=
  match m s with
  | .ok _ t => t
  | .error _ t => t

/-! ### RESET and power-up (70_reset_and_hazards.md R600; 10_state.md R45) -/

/-- PC is any value once an instruction has been abandoned (R601, U13). -/
def abandonPc : Exec Unit := do
  let p ← freshWord
  modify fun s => s.setPc (addrOf p)

/-- An instruction that never ends is abandoned by RESET (R601). -/
def abandonEndless : Exec Unit := do
  let s ← get
  if s.endless = .none then pure ()
  else do
    abandonPc
    modify fun t => t.setEndless .none

/-- RESET (R606): an I/O RESET, ION 0, the processor stopped; PWRFAIL is unspecified (R45). An instruction that never ends is
abandoned (R601). The lights keep what they showed and the pending data channel requests stay: the model's choices (log
entries 26 and 49). -/
def resetFunction : Exec Unit := do
  abandonEndless
  ioReset
  let p ← freshWord
  modify fun s => (((s.setIon false).setIonDelay .idle).setSycHold .idle).setRun false
  modify fun s => s.setPwrFail (wordBit p 0)
  modify fun s => s.setConsole { s.console with stopPending := false, oneShot := .none, resetInside := false }

/-- A map of any contents (10_state.md R45: undefined on power-up). -/
def anyMap (k : MapKind) (base : Nat) : Vector MapEntry 32 :=
  Vector.ofFn fun i : Fin 32 =>
    let w := Config.freeWord (base + i.val)
    if k = .map200 then entry200 w else entry230 w

/-- Device protect bits of any contents. -/
def anyDevProt (base : Nat) : Vector (BitVec 8) 8 := Vector.ofFn fun i : Fin 8 => loByte (Config.freeWord (base + i.val))

/-- Power-up (R600; R45): RESET, and any values in the registers, flags and maps; memory keeps its contents (log
entry 41). Data channel requests that were pending (R43 item 7) stay pending through the loss of power and are served
afterwards; the manual does not say whether they survive (R45, R604): the model's choice (log entry 49). -/
def powerUp : Exec Unit := do
  resetFunction
  let a0 ← freshWord
  let a1 ← freshWord
  let a2 ← freshWord
  let a3 ← freshWord
  let p ← freshWord
  modify fun s => (((((s.setAc0 a0).setAc1 a1).setAc2 a2).setAc3 a3).setCarry (wordBit p 0)).setPc (addrOf p)
  let f0 ← freshQuad
  let f1 ← freshQuad
  let f2 ← freshQuad
  let f3 ← freshQuad
  let q ← freshQuad
  modify fun s => ((((s.setFpac0 f0).setFpac1 f1).setFpac2 f2).setFpac3 f3).setFpsr (0#6 ++ q.extractLsb' 0 26)
  modify fun s =>
    (s.setMap { s.map with
      umapA := anyMap s.cfg.mapKind s.free, umapB := anyMap s.cfg.mapKind (s.free + 32),
      dmapA := anyMap s.cfg.mapKind (s.free + 64), dmapB := anyMap s.cfg.mapKind (s.free + 96),
      dmapC := anyMap s.cfg.mapKind (s.free + 128), dmapD := anyMap s.cfg.mapKind (s.free + 160),
      devProtA := anyDevProt (s.free + 192), devProtB := anyDevProt (s.free + 200) }).setFree (s.free + 208)
  let d ← freshWord
  let a ← freshWord
  modify fun s => s.setConsole { s.console with dataLights := d, addressLights := addrOf a, addrCompareLight := false,
                                                suspended := false, restartPending := false }

/-- Loss of power (49_io.md R544): the processor stops, registers and flags are any value. -/
def loseSupply (s : State) : State :=
  let t := s.after powerUp
  t.setConsole { t.console with powered := false }

/-- The supply comes on: power-up; `restart` says that the auto-restart will follow (R604). -/
def gainSupply (restart : Bool) (s : State) : State :=
  let t := s.after powerUp
  t.setConsole { t.console with powered := true, restartPending := restart }

/-- The POWER switch is turned (R612). -/
def turnPower (p : PowerSwitch) (s : State) : State :=
  let t := s.setConsole { s.console with power := p }
  if p = .off then (if s.console.powered then loseSupply t else t)
  else if s.console.power = .off then gainSupply false t
  else t

/-- Power returns after a failure (R604): nothing with the switch at OFF, or if it had not gone (log entry 27). -/
def restorePower (s : State) : State :=
  if s.console.powered ∨ s.console.power = .off then s
  else gainSupply (s.cfg.hasPfar && s.console.power == .lock) s

/-- 222 ms after power returned with the switch in LOCK: the word in location 0 is executed (R604). -/
def autoRestart (s : State) : State :=
  if s.console.powered ∧ s.console.restartPending then
    ((s.setPc 0).setRun true).setConsole { s.console with restartPending := false }
  else s

/-! ### Console functions (R606 to R610) -/

/-- MemRead for the console (R607): nothing where the MAP refuses the reference (D37). ADDRESS COMPARE does not act on it: R611
says only "CPU" (log entry 25). -/
def State.consoleRead (s : State) (a : Addr) : Option (Word × State) :=
  match s.translate false false a with
  | .ok pa => some (s.physRead pa)
  | .error _ => none

/-- MemWrite for the console (R607, R610): nothing where the MAP refuses the reference (D37). ADDRESS COMPARE does not act on
it: R611 says only "CPU" (log entry 25). -/
def State.consoleWrite (s : State) (a : Addr) (v : Word) : Option State :=
  match s.translate false true a with
  | .ok pa => some (s.physWrite pa v)
  | .error _ => none

/-- EXAMINE and EXAMINE NEXT at an address (R607). -/
def examineAt (a : Addr) (s : State) : State :=
  match s.consoleRead a with
  | none => s
  | some (v, t) => (t.setPc a).setConsole { t.console with addressLights := a, dataLights := v }

/-- DEPOSIT (R607). -/
def depositHere (s : State) : State :=
  match s.consoleWrite s.pc s.console.switches with
  | none => s
  | some t => t.setConsole { t.console with dataLights := s.console.switches }

/-- DEPOSIT NEXT (R607). -/
def depositNext (s : State) : State :=
  match s.consoleWrite (s.pc + 1) s.console.switches with
  | none => s
  | some t =>
    (t.setPc (s.pc + 1)).setConsole { t.console with addressLights := s.pc + 1, dataLights := s.console.switches }

/-- The bootstrap read-only memory (R610). -/
def bootWords : List Word :=
  [0o062677, 0o060477, 0o024026, 0o107400, 0o124000, 0o010014, 0o010030, 0o010032,
   0o125404, 0o000005, 0o030016, 0o050377, 0o060077, 0o101102, 0o000377, 0o004030,
   0o101065, 0o000017, 0o004027, 0o046026, 0o010100, 0o000022, 0o000077, 0o126420,
   0o063577, 0o000030, 0o060477, 0o107363, 0o000030, 0o125300, 0o001400, 0]

/-- Place words in consecutive locations from a on (R610). -/
def loadWords : List Word → Addr → State → State
  | [], _, s => s
  | w :: ws, a, s => loadWords ws (a + 1) ((s.consoleWrite a w).getD s)

/-- A console function of the stopped processor (R607 to R610). Lights that no rule defines keep what they showed, the model's
choice (R612; log entry 26). -/
def stoppedFunction (f : ConsoleFn) (s : State) : State :=
  match f with
  | .reset => s.after resetFunction
  | .stop => s
  | .start => (s.setPc (addrOf s.console.switches)).setRun true
  | .continue => s.setRun true
  | .examine => examineAt (addrOf s.console.switches) s
  | .examineNext => examineAt (s.pc + 1) s
  | .deposit => depositHere s
  | .depositNext => depositNext s
  | .acDeposit n => (s.setAc n s.console.switches).setConsole { s.console with dataLights := s.console.switches }
  | .acExamine n => s.setConsole { s.console with dataLights := s.ac n }
  | .instructionStep => s.setConsole { s.console with oneShot := .step }
  | .microStep => s.setConsole { s.console with oneShot := .microStep }
  | .execute => s.setConsole { s.console with oneShot := .execute s.console.switches }
  | .programLoad => ((loadWords bootWords 0 s).setPc 0).setRun true

/-- A console function of the running processor (R605, D37): RESET and STOP only. -/
def runningFunction (f : ConsoleFn) (s : State) : State :=
  match f with
  | .reset => s.after resetFunction
  | .stop => s.setConsole { s.console with stopPending := true }
  | _ => s

/-- The console functions act (R605, R612): not in LOCK, not without power, not once ADDRESS COMPARE has suspended the machine
(R611: final for the run). -/
def State.consoleActs (s : State) : Bool :=
  s.console.powered && !s.console.suspended && s.console.power != .lock

/-- A console function (R605); a processor that is in an endless instruction is not stopped. -/
def consoleFunction (f : ConsoleFn) (s : State) : State :=
  if !s.consoleActs then s
  else if s.run || s.endless != .none then runningFunction f s
  else stoppedFunction f s

/-- RESET while the next instruction is in progress (R601): the step that runs the instruction, for the program or for the
console, abandons it. With no instruction to run it is a RESET like any other. -/
def resetInside (s : State) : State :=
  if s.consoleActs && s.endless == .none && (s.run || s.console.oneShot != .none) then s.setConsole { s.console with resetInside := true }
  else consoleFunction .reset s

/-! ### The lights (10_state.md R32; R612) -/

/-- What the lights display: outputs only. -/
structure Lights where
  userMode : Bool
  addrCompare : Bool
  ion : Bool
  carry : Bool
  romAddress : BitVec 10
  data : Word
  address : Addr
  deriving DecidableEq, Repr

/-- The lights (R612): USER MODE, ION and CARRY show the mode, the flag and the bit; ROM ADDRESS any value (log entry 51). -/
def State.lights (s : State) : Lights :=
  { userMode := s.userMode, addrCompare := s.console.addrCompareLight, ion := s.ion, carry := s.carry,
    romAddress := microAddress s, data := s.console.dataLights, address := s.console.addressLights }

/-! ### All inputs -/

/-- A word for an input buffer (49_io.md R505). -/
def Device.receive (d : Device) (buf : Buffer) (v : Word) : Device :=
  match buf with
  | .a => { d with inA := v }
  | .b => { d with inB := v }
  | .c => { d with inC := v }

/-- d.complete() (49_io.md R505). -/
def Device.complete (d : Device) : Device := { d with busy := false, done := true }

/-- A pulse of the clock (49_io.md R540). -/
def clockTick (freq : BitVec 2) (s : State) : State :=
  if s.cfg.hasRtc && s.rtc.freq == freq && s.rtc.busy then s.setRtc { s.rtc with busy := false, done := true } else s

/-- An input that reaches the machine only while it has power. -/
def ifPowered (f : State → State) (s : State) : State := if s.console.powered then f s else s

/-- What an input does (00_scope.md R11). -/
def applyInput (s : State) : Input → State
  | .deviceData code buf v => ifPowered (fun t => t.updateDevice code fun d => d.receive buf v) s
  | .deviceDone code => ifPowered (fun t => t.updateDevice code Device.complete) s
  | .dataChannel r => ifPowered (fun t => t.setDchQueue (t.dchQueue ++ [r])) s
  | .clockPulse freq => ifPowered (clockTick freq) s
  | .memoryError e => s.setErcc { s.ercc with events := s.ercc.events ++ [e] }
  | .powerFailing => ifPowered (fun t => if t.cfg.hasPfar then t.setPwrFail true else t) s
  | .powerLost => ifPowered loseSupply s
  | .powerRestored => restorePower s
  | .restartDelay => autoRestart s
  | .switches v => s.setConsole { s.console with switches := v }
  | .addrCmp p => s.setConsole { s.console with addrCmp := p }
  | .powerSwitch p => turnPower p s
  | .console f => consoleFunction f s
  | .resetInside => resetInside s

/-- An input has asked for something that takes a step (R601, R609). -/
def State.asked (s : State) : Bool := s.console.oneShot != .none || s.console.resetInside

/-- Inputs that do not come before the end of a step that has been asked for: all but a RESET inside it. -/
def waits : List Input → Bool
  | [] => false
  | .resetInside :: _ => false
  | _ => true

/-- The inputs of a step, in their order; the ones after an input that takes a step of its own wait for the next step. -/
def applyInputs : List Input → State → State
  | [], s => s
  | i :: is, s =>
    let t := applyInput s i
    if t.asked && waits is then t.setInputs (is :: t.inputs) else applyInputs is t

end Sys2Proof.Machine
end

