-- ==== Sys2Proof/Machine/Commercial.lean ====
section
/-! DEFINITION. Decimal data formats and the commercial instructions but EDIT (48_commercial.md R430 to
R449). Each executes indivisibly (R431; log entry 30). -/

namespace Sys2Proof.Machine

open Host (Outcome)

/-! ### Decimal formats (R432 to R435) -/

/-- The attribute specifier word (20_memory.md R69). -/
structure Attribute where
  type : Nat
  size : Nat
  deriving DecidableEq, Repr

/-- Type in bits 8-10, Size in bits 11-15; bits 0-7 are ignored (R435). -/
def attributeOf (w : Word) : Attribute := { type := (fld w 8 3).toNat, size := (fld w 11 5).toNat }

/-- What a byte of a decimal field holds (R432, R433). -/
inductive ByteRole where
  | digit
  | signDigit
  | sign
  | packed
  | packedLast
  deriving DecidableEq, Repr

/-- The bytes of a decimal field, high-order byte first (R432, R433). -/
def fieldRoles (x : Attribute) : List ByteRole :=
  match x.type with
  | 0 => List.replicate x.size .digit ++ [.signDigit]
  | 1 => .signDigit :: List.replicate x.size .digit
  | 2 => List.replicate x.size .digit ++ [.sign]
  | 3 => .sign :: List.replicate x.size .digit
  | 4 => List.replicate (x.size + 1) .digit
  | _ => List.replicate (x.size / 2) .packed ++ [.packedLast]

/-- The length of a field in bytes (R432 to R434). -/
def fieldBytes (x : Attribute) : Nat := if x.type = 5 then x.size / 2 + 1 else x.size + 1

/-- The digit positions of a byte. -/
def ByteRole.digits : ByteRole → Nat
  | .digit => 1
  | .signDigit => 1
  | .sign => 0
  | .packed => 2
  | .packedLast => 1

/-- The digit positions of a decimal field (R432, R433). -/
def fieldDigits (x : Attribute) : Nat := ((fieldRoles x).map ByteRole.digits).sum

/-- PlainDigit (R435). -/
def plainDigit (b : Byte) : Except Word Nat :=
  if 0x30 ≤ b.toNat && b.toNat ≤ 0x39 then .ok (b.toNat - 0x30)
  else if b = 0x20 then .ok 0
  else .error 3

/-- SignByte (R435): true is minus. -/
def signByte (b : Byte) : Except Word Bool :=
  if b = 0x2B then .ok false else if b = 0x2D then .ok true else .error 2

/-- SignDigit (R432, R435): the sign (true is minus) and the digit a byte carries. -/
def signedDigit (b : Byte) : Except Word (Bool × Nat) :=
  if b = 0x20 || b = 0x2B || b = 0x7B then .ok (false, 0)
  else if 0x30 ≤ b.toNat && b.toNat ≤ 0x39 then .ok (false, b.toNat - 0x30)
  else if 0x41 ≤ b.toNat && b.toNat ≤ 0x49 then .ok (false, b.toNat - 0x40)
  else if b = 0x2D || b = 0x7D then .ok (true, 0)
  else if 0x4A ≤ b.toNat && b.toNat ≤ 0x52 then .ok (true, b.toNat - 0x49)
  else .error 2

/-- The high hex digit of a byte. -/
def highHex (b : Byte) : Nat := b.toNat / 16

/-- The low hex digit of a byte. -/
def lowHex (b : Byte) : Nat := b.toNat % 16

/-- A hex digit in a digit position (R435). -/
def hexDigit (h : Nat) : Except Word Nat := if h ≤ 9 then .ok h else .error 3

/-- The trailing sign of packed decimal (R433, R435): true is minus. -/
def packedSign (h : Nat) : Except Word Bool :=
  if h = 12 then .ok false else if h = 13 then .ok true else .error 2

/-- The sign, where the byte holds one, and the digits of a byte (R435). -/
def ByteRole.decode (b : Byte) : ByteRole → Except Word (Option Bool × List Nat)
  | .digit => do
    let d ← plainDigit b
    pure (none, [d])
  | .signDigit => do
    let r ← signedDigit b
    pure (some r.1, [r.2])
  | .sign => do
    let n ← signByte b
    pure (some n, [])
  | .packed => do
    let h ← hexDigit (highHex b)
    let l ← hexDigit (lowHex b)
    pure (none, [h, l])
  | .packedLast => do
    let h ← hexDigit (highHex b)
    let n ← packedSign (lowHex b)
    pure (some n, [h])

/-- A decimal number: its sign and its digits, high-order first. -/
structure Decimal where
  neg : Bool
  digits : List Nat
  deriving DecidableEq, Repr

/-- Why Decode fails: the fault code, and the pointer to the byte after the invalid one (R435, R440). -/
structure DecimalError where
  code : Word
  next : Word
  deriving DecidableEq, Repr

/-- Decode from the byte at p on; the first invalid byte ends it (R435). -/
def decodeField : List ByteRole → Word → Decimal → Exec (Except DecimalError Decimal)
  | [], _, x => pure (.ok x)
  | r :: rs, p, x => do
    let b ← byteRead p
    match r.decode b with
    | .error code => pure (.error { code := code, next := p + 1 })
    | .ok (sign, ds) => decodeField rs (p + 1) { neg := sign.getD x.neg, digits := x.digits ++ ds }

/-- Decode(type, size, p) (R435). -/
def decodeDecimal (x : Attribute) (p : Word) : Exec (Except DecimalError Decimal) :=
  decodeField (fieldRoles x) p { neg := false, digits := [] }

/-- The decimal value of digits, high-order first. -/
def decimalValue (ds : List Nat) : Nat := ds.foldl (fun v d => 10 * v + d) 0

/-- The k low-order digits of a number, high-order first. -/
def decimalDigits : Nat → Nat → List Nat
  | 0, _ => []
  | k + 1, g => g / 10 ^ k % 10 :: decimalDigits k g

/-- The character of a plain digit (R441). -/
def digitChar (d : Nat) : Byte := BitVec.ofNat 8 (0x30 + d)

/-- The character of a sign-carrying digit (R441). -/
def signDigitChar (neg : Bool) (d : Nat) : Byte :=
  if neg then (if d = 0 then 0x7D else BitVec.ofNat 8 (0x49 + d)) else digitChar d

/-- The code of a packed sign (R433). -/
def packedSignCode (neg : Bool) : Nat := if neg then 13 else 12

/-- Encode (R441): the bytes of a field from its roles, sign and digits. -/
def encodeField (neg : Bool) : List ByteRole → List Nat → List Byte
  | [], _ => []
  | .sign :: rs, ds => (if neg then 0x2D else 0x2B) :: encodeField neg rs ds
  | .digit :: rs, ds => digitChar (ds.headD 0) :: encodeField neg rs ds.tail
  | .signDigit :: rs, ds => signDigitChar neg (ds.headD 0) :: encodeField neg rs ds.tail
  | .packed :: rs, ds =>
    BitVec.ofNat 8 (16 * ds.headD 0 + ds.tail.headD 0) :: encodeField neg rs ds.tail.tail
  | .packedLast :: rs, ds =>
    BitVec.ofNat 8 (16 * ds.headD 0 + packedSignCode neg) :: encodeField neg rs ds.tail

/-- n bytes from p on, in ascending order. -/
def readBytes : Nat → Word → Exec (List Byte)
  | 0, _ => pure []
  | n + 1, p => do
    let b ← byteRead p
    let bs ← readBytes n (p + 1)
    pure (b :: bs)

/-- Store bytes from p on, in ascending order. -/
def writeBytes : List Byte → Word → Exec Unit
  | [], _ => pure ()
  | b :: bs, p => do
    byteWrite p b
    writeBytes bs (p + 1)

/-- The bytes, high-order first, as an unsigned number. -/
def bytesValue (bs : List Byte) : Nat := bs.foldl (fun v b => 256 * v + b.toNat) 0

/-- The bytes, high-order first, as a two's complement number (R434). -/
def bytesInt (bs : List Byte) : Int :=
  let v := bytesValue bs
  if 2 * v < 256 ^ bs.length then v else (v : Int) - (256 ^ bs.length : Nat)

/-- The n low-order bytes of a number, high-order first. -/
def numberBytes : Nat → Nat → List Byte
  | 0, _ => []
  | n + 1, v => BitVec.ofNat 8 (v / 256 ^ n) :: numberBytes n v

/-- A number truncated to a signed magnitude. -/
def signedNat (neg : Bool) (g : Nat) : Int := if neg then -(g : Int) else g

/-! ### Decimal load and store -/

/-- A commercial fault with AC2 the original AC3 and AC3 as given (R440 to R445). -/
def decimalFault {α : Type} (code p next : Word) : Exec α := do
  modify fun s => (s.setAc2 p).setAc3 next
  commercialFault code

/-- The same with AC3 unpredictable (U11). -/
def decimalFaultFree {α : Type} (code p : Word) : Exec α := do
  let next ← freshWord
  decimalFault code p next

/-- LDI's result (R440): the floating point number, or the fault code and AC3. -/
def loadInteger (x : Attribute) (p : Word) : Exec (Except DecimalError Quad) :=
  if x.type ≤ 5 then do
    match ← decodeDecimal x p with
    | .error e => pure (.error e)
    | .ok d =>
      let v := decimalValue d.digits
      if 10 ^ 16 - 1 < v then pure (.error { code := 4, next := p + BitVec.ofNat 16 (fieldBytes x) })
      else pure (.ok (floatOfInt (signedNat d.neg v) false).value)
  else if x.type = 6 then do
    let bs ← readBytes (x.size + 1) p
    let v := bytesInt bs
    if 2 ^ 56 - 1 < v.natAbs then pure (.error { code := 4, next := p + BitVec.ofNat 16 (fieldBytes x) })
    else pure (.ok (floatOfInt v false).value)
  else if 8 < x.size then pure (.error { code := 1, next := p })
  else do
    let bs ← readBytes (x.size + 1) p
    pure (.ok (BitVec.ofNat 64 (bytesValue ((bs ++ List.replicate 8 0).take 8))))

/-- LDI (R440): AC3 is undefined on success (U11). -/
def execLdi (fpac : Acc) (s : State) : Outcome State Fault Refusal :=
  runExec (do
    needsEap (encode1 (.ldi fpac))
    let p := s.ac3
    match ← loadInteger (attributeOf s.ac1) p with
    | .error e => decimalFault e.code p e.next
    | .ok r =>
      let undef ← freshWord
      modify fun t => (((t.setFpac fpac r).setFpsr (zeroNegative t.fpsr r)).setAc2 p).setAc3 undef
      advance 1) s

/-- |value(x)| > 10^16 (R441). -/
def storeOutOfRange (x : Quad) : Bool := decide (10 ^ 16 * 16 ^ 78 < fpMan x * 16 ^ fpExp x)

/-- The bytes of the field and the carry of STI (R441). -/
def storeInteger (x : Attribute) (v : Quad) : List Byte × Bool :=
  let g := fpIntegerPart v
  let neg := fpSign v && decide (g ≠ 0)
  if x.type ≤ 5 then
    let k := fieldDigits x
    (encodeField neg (fieldRoles x) (decimalDigits k (g % 10 ^ k)), decide (10 ^ k ≤ g))
  else if x.type = 6 then
    let n := x.size + 1
    (numberBytes n ((signedNat neg g) % (256 ^ n : Nat)).toNat,
      if neg then decide (2 ^ (8 * n - 1) < g) else decide (2 ^ (8 * n - 1) - 1 < g))
  else
    ((numberBytes 8 v.toNat ++ List.replicate x.size 0).take (x.size + 1), false)

/-- Any value in a byte of memory that may be written, nothing elsewhere (U11, log entry 21). -/
def spoilByte (p : Word) : Exec Unit := do
  let b ← freshWord
  modify fun s =>
    match s.translate false true (bytePtrAddr p) with
    | .ok pa => s.physWrite pa (withByte p (Memory.word s.mem pa) (loByte b))
    | .error _ => s

/-- Any value in n bytes from p on. -/
def spoilBytes : Nat → Word → Exec Unit
  | 0, _ => pure ()
  | n + 1, p => do
    spoilByte p
    spoilBytes n (p + 1)

/-- STI (R441): AC0 is undefined on success, AC3 and the destination on a fault (U11). -/
def execSti (fpac : Acc) (s : State) : Outcome State Fault Refusal :=
  runExec (do
    needsEap (encode1 (.sti fpac))
    let x := attributeOf s.ac1
    let p := s.ac3
    if storeOutOfRange (s.fpac fpac) then do
      spoilBytes (fieldBytes x) p
      decimalFaultFree 4 p
    else do
      let r := storeInteger x (s.fpac fpac)
      modify fun t => t.setCarry r.2
      writeBytes r.1 p
      let undef ← freshWord
      modify fun t => ((t.setAc2 p).setAc3 (p + BitVec.ofNat 16 (fieldBytes x))).setAc0 undef
      advance 1) s

/-- Eight digits of LDIX's number, counted from the low-order end, as a floating point number (R442). -/
def eightDigits (neg : Bool) (v part : Nat) : Quad :=
  (floatOfInt (signedNat neg (v / 10 ^ (8 * part) % 10 ^ 8)) false).value

/-- LDIX (R442): AC3, Z and N are undefined (U11). -/
def execLdix (s : State) : Outcome State Fault Refusal :=
  runExec (do
    needsEap (encode1 .ldix)
    let x := attributeOf s.ac1
    let p := s.ac3
    if 6 ≤ x.type then decimalFaultFree 1 p
    else do
      match ← decodeDecimal x p with
      | .error e => decimalFaultFree e.code p
      | .ok d =>
        let v := decimalValue d.digits
        let undef ← freshWord
        let flags ← freshWord
        modify fun t =>
          (((((((t.setFpac0 (eightDigits d.neg v 3)).setFpac1 (eightDigits d.neg v 2)).setFpac2
            (eightDigits d.neg v 1)).setFpac3 (eightDigits d.neg v 0)).setFpsr
            (setZN t.fpsr (flags.getMsbD 0) (flags.getMsbD 1))).setAc2 p).setAc3 undef)
        advance 1) s

/-- The low-order eight digits of a FPAC's integer part (R443). -/
def lowDigits (x : Quad) : Nat := fpIntegerPart x % 10 ^ 8

/-- STIX's number (R443). -/
def State.extendedNumber (s : State) : Nat :=
  lowDigits s.fpac0 * 10 ^ 24 + lowDigits s.fpac1 * 10 ^ 16 + lowDigits s.fpac2 * 10 ^ 8 + lowDigits s.fpac3

/-- STIX (R443): Z and N are undefined, AC3 too on a fault (U11). -/
def execStix (s : State) : Outcome State Fault Refusal :=
  runExec (do
    needsEap (encode1 .stix)
    let x := attributeOf s.ac1
    let p := s.ac3
    if 6 ≤ x.type then decimalFaultFree 1 p
    else do
      let v := s.extendedNumber
      let neg := fpSign s.fpac0 || fpSign s.fpac1 || fpSign s.fpac2 || fpSign s.fpac3
      let k := fieldDigits x
      modify fun t => t.setCarry (decide (10 ^ k ≤ v))
      writeBytes (encodeField neg (fieldRoles x) (decimalDigits k (v % 10 ^ k))) p
      let flags ← freshWord
      modify fun t => ((t.setFpsr (setZN t.fpsr (flags.getMsbD 0) (flags.getMsbD 1))).setAc2 p).setAc3
        (p + BitVec.ofNat 16 (fieldBytes x))
      advance 1) s

/-- What LSN finds (R445): whether the number is zero and whether it is negative. -/
def signOfNumber (x : Attribute) (p : Word) : Exec (Except DecimalError (Bool × Bool)) :=
  if x.type ≤ 5 then do
    match ← decodeDecimal x p with
    | .error e => pure (.error e)
    | .ok d => pure (.ok (d.digits.all (fun n => n == 0), d.neg))
  else do
    let bs ← readBytes (x.size + 1) p
    if x.type = 6 then
      let v := bytesInt bs
      pure (.ok (decide (v = 0), decide (v < 0)))
    else pure (.ok (bs.tail.all (fun b => b == 0), (bs.headD 0).getMsbD 0))

/-- LSN's code (R445). -/
def signCode : Bool → Bool → Word
  | false, false => 1
  | false, true => 0o177777
  | true, false => 0
  | true, true => 0o177776

/-- LSN (R445): AC3 is unpredictable (U11). -/
def execLsn (s : State) : Outcome State Fault Refusal :=
  runExec (do
    needsEap (encode1 .lsn)
    let p := s.ac3
    match ← signOfNumber (attributeOf s.ac1) p with
    | .error e => decimalFaultFree e.code p
    | .ok r =>
      let undef ← freshWord
      modify fun t => ((t.setAc1 (signCode r.1 r.2)).setAc2 p).setAc3 undef
      advance 1) s

/-! ### Character strings -/

/-- sgn(s(w)) as a word (R446). -/
def sgnWord (w : Word) : Word := if w = 0 then 0 else if w.msb then 0o177777 else 1

/-- |s(w)|. -/
def countOf (w : Word) : Nat := w.toInt.natAbs

/-- The space character. -/
def spaceChar : Byte := 0x20

/-- One byte of string 1 taken: AC3 and AC1 move on. -/
def State.nextSource (s : State) : State :=
  (s.setAc3 (s.ac3 + sgnWord s.ac1)).setAc1 (s.ac1 - sgnWord s.ac1)

/-- One byte of string 2 taken: AC2 and AC0 move on. -/
def State.nextTarget (s : State) : State :=
  (s.setAc2 (s.ac2 + sgnWord s.ac0)).setAc0 (s.ac0 - sgnWord s.ac0)

/-- A byte of string 1, a space when it is exhausted (R446, R447). -/
def sourceByte : Exec Byte := do
  let s ← get
  if s.ac1 = 0 then pure spaceChar else byteRead s.ac3

/-- A byte of string 2, a space when it is exhausted (R447). -/
def targetByte : Exec Byte := do
  let s ← get
  if s.ac0 = 0 then pure spaceChar else byteRead s.ac2

/-- CMV's bytes (R446). -/
def moveLoop : Nat → Exec Unit
  | 0 => pure ()
  | n + 1 => do
    let b ← sourceByte
    modify State.nextSource
    let s ← get
    byteWrite s.ac2 b
    modify State.nextTarget
    moveLoop n

/-- CMV (R446). -/
def execCmv (s : State) : Outcome State Fault Refusal :=
  runExec (do
    needsEap (encode1 .cmv)
    modify fun t => t.setCarry (decide (countOf s.ac0 < countOf s.ac1))
    moveLoop (countOf s.ac0)
    advance 1) s

/-- The code of a comparison (R447), or none when the bytes are equal. -/
def compareCode (b1 b2 : Byte) : Option Word :=
  if b1.toNat < b2.toNat then some 0o177777 else if b2.toNat < b1.toNat then some 1 else none

/-- CMP's bytes (R447); AC1 and AC0 hold the remaining counts. -/
def compareLoop : Nat → Exec Word
  | 0 => pure 0
  | n + 1 => do
    let b1 ← sourceByte
    let b2 ← targetByte
    match compareCode b1 b2 with
    | some c => pure c
    | none =>
      modify fun s => s.nextSource.nextTarget
      compareLoop n

/-- CMP (R447). -/
def execCmp (s : State) : Outcome State Fault Refusal :=
  runExec (do
    needsEap (encode1 .cmp)
    let c ← compareLoop (max (countOf s.ac0) (countOf s.ac1))
    modify fun t => t.setAc1 c
    advance 1) s

/-- T(b) (R448). -/
def translateByte (tbl : Word) (b : Byte) : Exec Byte := byteRead (tbl + b.zeroExtend 16)

/-- CTR, move option (R448). -/
def translateMove (tbl : Word) : Nat → Exec Unit
  | 0 => pure ()
  | n + 1 => do
    let s ← get
    let b ← byteRead s.ac3
    let t ← translateByte tbl b
    byteWrite s.ac2 t
    modify fun u => ((u.setAc2 (u.ac2 + 1)).setAc3 (u.ac3 + 1)).setAc1 (u.ac1 + 1)
    translateMove tbl n

/-- CTR, compare option (R448). -/
def translateCompare (tbl : Word) : Nat → Exec Word
  | 0 => pure 0
  | n + 1 => do
    let s ← get
    let b1 ← byteRead s.ac3
    let t1 ← translateByte tbl b1
    let b2 ← byteRead s.ac2
    let t2 ← translateByte tbl b2
    match compareCode t1 t2 with
    | some c => pure c
    | none =>
      modify fun u => ((u.setAc2 (u.ac2 + 1)).setAc3 (u.ac3 + 1)).setAc1 (u.ac1 - 1)
      translateCompare tbl n

/-- CTR (R448). -/
def execCtr (s : State) : Outcome State Fault Refusal :=
  runExec (do
    needsEap (encode1 .ctr)
    resolveAcAddr .a0
    let u ← get
    let tbl ← memRead (addrOf u.ac0)
    if s.ac1.msb then translateMove tbl (countOf s.ac1)
    else do
      let c ← translateCompare tbl (countOf s.ac1)
      modify fun t => t.setAc1 c
    advance 1) s

/-- Bit(b) of CMT's table at word address a (R449). -/
def tableBit (a : Addr) (b : Byte) : Exec Bool := do
  let w ← memRead (a + BitVec.ofNat 15 (b.toNat / 16))
  pure (w.getMsbD (b.toNat % 16))

/-- CMT's bytes (R449). -/
def moveUntil (a : Addr) : Nat → Exec Unit
  | 0 => pure ()
  | n + 1 => do
    let s ← get
    let b ← byteRead s.ac3
    let stop ← tableBit a b
    if stop then pure ()
    else do
      byteWrite s.ac2 b
      modify fun u => (u.setAc2 (u.ac2 + sgnWord u.ac1)).nextSource
      moveUntil a n

/-- CMT (R449). -/
def execCmt (s : State) : Outcome State Fault Refusal :=
  runExec (do
    needsEap (encode1 .cmt)
    resolveAcAddr .a0
    let u ← get
    moveUntil (addrOf u.ac0) (countOf s.ac1)
    advance 1) s

end Sys2Proof.Machine
end

