-- ==== Sys2Proof/Machine/Edit.lean ====
section
/-! DEFINITION. EDIT and its sub-program operations (48_commercial.md R450 to R475; D27). -/

namespace Sys2Proof.Machine

open Host (Outcome)

/-- The operations of the sub-program, in the order of their default codes (R451 (f)). -/
inductive EditOp where
  | dend
  | dndf
  | dstk
  | ddtk
  | dapu
  | daps
  | dapt
  | dsso
  | dssz
  | dsto
  | dint
  | dinc
  | dmvc
  | dmva
  | dins
  | dmvo
  | dmvn
  | dasi
  | dadi
  | dstz
  | dmvf
  | dimc
  | dmvs
  | dici
  deriving DecidableEq, Repr

/-- All operations, in the order of Config.editOpcodes. -/
def EditOp.all : List EditOp :=
  [.dend, .dndf, .dstk, .ddtk, .dapu, .daps, .dapt, .dsso, .dssz, .dsto, .dint, .dinc, .dmvc, .dmva, .dins,
   .dmvo, .dmvn, .dasi, .dadi, .dstz, .dmvf, .dimc, .dmvs, .dici]

/-- The operation a code names under a table of codes (R451 (f)). -/
def editOpOf : List Byte → List EditOp → Byte → Option EditOp
  | c :: cs, o :: os, b => if b = c then some o else editOpOf cs os b
  | _, _, _ => none

/-- EDIT's indicators and pointers (R450), the half-byte indicator and the outside flag (R451 (b), (c)). -/
structure Edit where
  attr : Attribute
  /-- the first byte of the source field -/
  source : Word
  p : Word
  si : Word
  di : Word
  t : Bool
  s : Bool
  /-- the low hex digit of the byte at SI is next (type 5) -/
  low : Bool
  outside : Bool
  deriving DecidableEq, Repr

/-- A commercial fault inside the sub-program (R450): AC0 is the op-code's address plus 1. -/
def editFault {α : Type} (e : Edit) (code : Word) : Exec α := do
  modify fun u => ((u.setAc0 (e.p + 1)).setAc2 e.di).setAc3 e.si
  commercialFault code

/-- Put(c). -/
def Edit.put (e : Edit) (c : Byte) : Exec Edit := do
  byteWrite e.di c
  pure { e with di := e.di + 1 }

/-- The position of SI in the source field. -/
def Edit.position (e : Edit) : Nat := (e.si - e.source).toNat

/-- SI addresses no digit position of the source field (R451 (c)). -/
def Edit.isOutside (e : Edit) : Bool :=
  match e.attr.type with
  | 2 => decide (e.attr.size ≤ e.position)
  | 3 => decide (e.position = 0) || decide (e.attr.size < e.position)
  | 5 => decide (e.attr.size / 2 < e.position) || (decide (e.position = e.attr.size / 2) && e.low)
  | _ => decide (e.attr.size < e.position)

/-- The outside flag is set and stays set (R451 (c)). -/
def Edit.noteOutside (e : Edit) : Edit := { e with outside := e.outside || e.isOutside }

/-- SI moved by whole bytes (R458). -/
def Edit.moveSi (e : Edit) (d : Word) : Edit := Edit.noteOutside { e with si := e.si + d }

/-- SI steps to the next digit (R451 (b)). -/
def Edit.stepSi (e : Edit) : Edit :=
  if e.attr.type = 5 then
    Edit.noteOutside (if e.low then { e with si := e.si + 1, low := false } else { e with low := true })
  else e.moveSi 1

/-- The last digit of a type 2 number is at SI: after it SI is undefined (R471, R473 to R475). -/
def Edit.atLastOfTrailing (e : Edit) : Bool :=
  decide (e.attr.type = 2) && !e.outside && decide (e.position + 1 = e.attr.size)

/-- The byte at SI carries the sign (R451 (b)). -/
def Edit.atSignDigit (e : Edit) : Bool :=
  (decide (e.attr.type = 0) && decide (e.position = e.attr.size))
    || (decide (e.attr.type = 1) && decide (e.position = 0))

/-- The character a numeric move supplies, before SI moves on (R451 (b), (c)). -/
def Edit.digitAt (e : Edit) : Exec Byte :=
  if e.outside then pure 0x30
  else do
    let b ← byteRead e.si
    if e.attr.type = 5 then
      match hexDigit (if e.low then lowHex b else highHex b) with
      | .ok d => pure (digitChar d)
      | .error c => editFault e c
    else if e.atSignDigit then
      match signedDigit b with
      | .ok r => pure (digitChar r.2)
      | .error c => editFault e c
    else
      match plainDigit b with
      | .ok _ => pure b
      | .error c => editFault e c

/-- NextDigit(). -/
def Edit.nextDigit (e : Edit) : Exec (Byte × Edit) := do
  let c ← e.digitAt
  if e.atLastOfTrailing then do
    let undef ← freshWord
    pure (c, { e with si := undef, outside := true })
  else pure (c, e.stepSi)

/-- A zero or a space (R473). -/
def isZeroChar (c : Byte) : Bool := c == 0x30 || c == 0x20

/-- J(j) (R451). -/
def repeatCount (j : Byte) : Exec Nat :=
  if j.msb then do
    let sp ← memRead 0o40
    let w ← memRead (addrOf (sp + 1 + j.signExtend 16))
    pure w.toNat
  else pure j.toNat

/-- StackWord(k) (R463). -/
def stackWord (k : Byte) : Exec Addr := do
  let base ← memRead (if k.msb then 0o40 else 0o41)
  pure (addrOf (base + 1 + k.signExtend 16))

/-- The operand byte k of the operation at P. -/
def Edit.operand (e : Edit) (k : Word) : Exec Byte := byteRead (e.p + 1 + k)

/-- P past the operation and its n operand bytes. -/
def Edit.past (e : Edit) (n : Word) : Edit := { e with p := e.p + 1 + n }

/-- A body repeated n times. -/
def repeatEdit (body : Edit → Exec Edit) : Nat → Edit → Exec Edit
  | 0, e => pure e
  | n + 1, e => do
    let e' ← body e
    repeatEdit body n e'

/-- DMVA's characters (R470). -/
def isAlphabetic (c : Byte) : Bool :=
  (decide (0x41 ≤ c.toNat) && decide (c.toNat ≤ 0x5A)) || (decide (0x61 ≤ c.toNat) && decide (c.toNat ≤ 0x7A))
    || c == 0x20

/-- One character of DMVC, or of DMVA if `alpha` (R470, R472). -/
def Edit.moveChar (alpha : Bool) (e : Edit) : Exec Edit := do
  let c ← byteRead e.si
  if alpha && !isAlphabetic c then editFault e 3
  else do
    let e ← e.put c
    pure (e.moveSi 1)

/-- DMVA and DMVC. -/
def Edit.moveChars (alpha : Bool) (e : Edit) : Exec Edit := do
  let j ← e.operand 0
  if e.attr.type = 5 then editFault e 1
  else do
    let n ← repeatCount j
    let e ← repeatEdit (Edit.moveChar alpha) n e
    pure ({ e with t := true }.past 1)

/-- One digit of DMVN (R471). -/
def Edit.moveDigit (e : Edit) : Exec Edit := do
  let r ← e.nextDigit
  let c := r.1
  let e := r.2
  e.put c

/-- One digit of DMVS (R473). -/
def Edit.suppressDigit (fill : Byte) (e : Edit) : Exec Edit := do
  let r ← e.nextDigit
  let c := r.1
  let e := r.2
  if !e.t && isZeroChar c then e.put fill
  else Edit.put { e with t := true } c

/-- One digit of DMVF (R475). -/
def Edit.floatDigit (fill plus minus : Byte) (e : Edit) : Exec Edit := do
  let r ← e.nextDigit
  let c := r.1
  let e := r.2
  if e.t then e.put c
  else if isZeroChar c then e.put fill
  else do
    let e ← Edit.put { e with t := true } (if e.s then minus else plus)
    e.put c

/-- One operation of the sub-program (R452 to R475): the pointers after it; DEND leaves P past itself. -/
def Edit.run (e : Edit) : EditOp → Exec Edit
  | .dend => pure (e.past 0)
  | .dndf => do
    let p0 ← e.operand 0
    let p1 ← e.operand 1
    if e.t then pure (e.past 2)
    else do
      let e ← e.put (if e.s then p1 else p0)
      pure (e.past 2)
  | .dstk => do
    let k ← e.operand 0
    let p0 ← e.operand 1
    let a ← stackWord k
    memWrite a (p0.zeroExtend 16)
    pure (e.past 2)
  | .ddtk => do
    let k ← e.operand 0
    let p0 ← e.operand 1
    let a ← stackWord k
    let v ← memRead a
    memWrite a (v - 1)
    if v - 1 = 0 then pure { e with p := e.p + p0.signExtend 16 } else pure (e.past 2)
  | .dapu => do
    let p0 ← e.operand 0
    pure { e with p := e.p + p0.signExtend 16 }
  | .daps => do
    let p0 ← e.operand 0
    if e.s then pure (e.past 1) else pure { e with p := e.p + p0.signExtend 16 }
  | .dapt => do
    let p0 ← e.operand 0
    if e.t then pure { e with p := e.p + p0.signExtend 16 } else pure (e.past 1)
  | .dsso => pure ({ e with s := true }.past 0)
  | .dssz => pure ({ e with s := false }.past 0)
  | .dsto => pure ({ e with t := true }.past 0)
  | .dint => do
    let p0 ← e.operand 0
    let p1 ← e.operand 1
    let e ← e.put (if e.t then p1 else p0)
    pure (e.past 2)
  | .dinc => do
    let p0 ← e.operand 0
    let e ← e.put p0
    pure (e.past 1)
  | .dmvc => e.moveChars false
  | .dmva => e.moveChars true
  | .dins => do
    let p0 ← e.operand 0
    let p1 ← e.operand 1
    let e ← e.put (if e.s then p1 else p0)
    pure (e.past 2)
  | .dmvo => do
    let p0 ← e.operand 0
    let p1 ← e.operand 1
    let p2 ← e.operand 2
    let p3 ← e.operand 3
    let r ← e.nextDigit
    let c := r.1
    let e := r.2
    if isZeroChar c then do
      let e ← e.put (if e.s then p1 else p0)
      pure (e.past 4)
    else do
      let e ← Edit.put { e with t := true } (c - 0x30 + (if e.s then p3 else p2))
      pure (e.past 4)
  | .dmvn => do
    let j ← e.operand 0
    let n ← repeatCount j
    let e ← repeatEdit Edit.moveDigit n e
    pure ({ e with t := true }.past 1)
  | .dasi => do
    let p0 ← e.operand 0
    pure ((e.moveSi (p0.signExtend 16)).past 1)
  | .dadi => do
    let p0 ← e.operand 0
    pure ({ e with di := e.di + p0.signExtend 16 }.past 1)
  | .dstz => pure ({ e with t := false }.past 0)
  | .dmvf => do
    let j ← e.operand 0
    let p0 ← e.operand 1
    let p1 ← e.operand 2
    let p2 ← e.operand 3
    let n ← repeatCount j
    let e ← repeatEdit (Edit.floatDigit p0 p1 p2) n e
    pure (e.past 4)
  | .dimc => do
    let j ← e.operand 0
    let p0 ← e.operand 1
    let n ← repeatCount j
    let e ← repeatEdit (fun x => x.put p0) n e
    pure (e.past 2)
  | .dmvs => do
    let j ← e.operand 0
    let p0 ← e.operand 1
    let n ← repeatCount j
    let e ← repeatEdit (Edit.suppressDigit p0) n e
    pure (e.past 2)
  | .dici => do
    let j ← e.operand 0
    let n ← repeatCount j
    let e' ← repeatEdit (fun x => do
      let c ← byteRead (x.p + 2)
      let x ← x.put c
      pure { x with p := x.p + 1 }) n e
    pure (e'.past 1)

/-- The sub-program until DEND (R450). A sub-program that has not ended when the fuel is out never ends (R460 "loops forever"):
the processor stays in it (log entry 22). -/
def editLoop : Nat → Edit → Exec Edit
  | 0, _ => throw .stuck
  | fuel + 1, e => do
    let b ← byteRead e.p
    let s ← get
    match editOpOf s.cfg.editOpcodes EditOp.all b with
    | none => editFault e 0
    | some .dend => e.run .dend
    | some o => do
      let e' ← e.run o
      editLoop fuel e'

/-- More operations than any machine performs in half a million years (log entry 22). -/
def editFuel : Nat := 18446744073709551616

/-- S at the start (R451 (a)): the sign where the type has it. -/
def editSign (x : Attribute) (p : Word) : Exec (Except Word Bool) :=
  match x.type with
  | 0 => do
    let b ← byteRead (p + BitVec.ofNat 16 x.size)
    pure (do let r ← signedDigit b; pure r.1)
  | 1 => do
    let b ← byteRead p
    pure (do let r ← signedDigit b; pure r.1)
  | 2 => do
    let b ← byteRead (p + BitVec.ofNat 16 x.size)
    pure (signByte b)
  | 3 => do
    let b ← byteRead p
    pure (signByte b)
  | 4 => pure (.ok false)
  | _ => do
    let b ← byteRead (p + BitVec.ofNat 16 (x.size / 2))
    pure (packedSign (lowHex b))

/-- EDIT (R450, R451): AC1 is unpredictable on success (U11). -/
def execEdit (s : State) : Outcome State Fault Refusal :=
  runExec (do
    needsEap (encode1 .edit)
    let x := attributeOf s.ac1
    if s.ac0 = 0o177777 then throw (.refuse .editRestart)
    else if 6 ≤ x.type then commercialFault 1
    else do
      match ← editSign x s.ac3 with
      | .error c => commercialFault c
      | .ok neg =>
        let e ← editLoop editFuel { attr := x, source := s.ac3, p := s.ac0, si := s.ac3, di := s.ac2, t := false,
                                    s := neg, low := false, outside := false }
        let undef ← freshWord
        modify fun u => ((((u.setCarry e.t).setAc0 e.p).setAc1 undef).setAc2 e.di).setAc3 e.si
        advance 1) s

end Sys2Proof.Machine
end

