-- ==== Sys2Proof/Machine/Fixed.lean ====
section
/-! DEFINITION. Fixed point arithmetic (40_fixed_point.md). -/

namespace Sys2Proof.Machine

open Host (Outcome)

/-- NEG (R144). -/
def execNeg (f : Alu) (s : State) : Outcome State Fault Refusal :=
  .next (aluFinish f s ((~~~s.ac f.acs).toNat + 1))

/-- MOV (R146). -/
def execMov (f : Alu) (s : State) : Outcome State Fault Refusal :=
  .next (aluFinish f s (s.ac f.acs).toNat)

/-- INC (R147). -/
def execInc (f : Alu) (s : State) : Outcome State Fault Refusal :=
  .next (aluFinish f s ((s.ac f.acs).toNat + 1))

/-- ADC (R145). -/
def execAdc (f : Alu) (s : State) : Outcome State Fault Refusal :=
  .next (aluFinish f s ((s.ac f.acd).toNat + (~~~s.ac f.acs).toNat))

/-- SUB (R143). -/
def execSub (f : Alu) (s : State) : Outcome State Fault Refusal :=
  .next (aluFinish f s ((s.ac f.acd).toNat + (~~~s.ac f.acs).toNat + 1))

/-- ADD (R142). -/
def execAdd (f : Alu) (s : State) : Outcome State Fault Refusal :=
  .next (aluFinish f s ((s.ac f.acd).toNat + (s.ac f.acs).toNat))

/-- LDA (R148). -/
def execLda (ac : Acc) (m : ShortMem) (s : State) : Outcome State Fault Refusal :=
  runExec (singleUse do
    let e ← eaShortSingle m
    let v ← readBus e.2 e.1
    modify fun t => t.setAc ac v
    advance 1) s

/-- ELDA (R149). -/
def execElda (ac : Acc) (m : ExtMem) (s : State) : Outcome State Fault Refusal :=
  runExec (do
    let e ← eaExt m
    let v ← memRead e
    modify fun t => t.setAc ac v
    advance 2) s

/-- STA (R150). -/
def execSta (ac : Acc) (m : ShortMem) (s : State) : Outcome State Fault Refusal :=
  runExec (singleUse do
    let e ← eaShortSingle m
    let t ← get
    writeBus e.2 e.1 (t.ac ac)
    advance 1) s

/-- ESTA (R151). -/
def execEsta (ac : Acc) (m : ExtMem) (s : State) : Outcome State Fault Refusal :=
  runExec (do
    let e ← eaExt m
    let t ← get
    memWrite e (t.ac ac)
    advance 2) s

/-- ADI (R152). -/
def execAdi (n : BitVec 2) (ac : Acc) (s : State) : Outcome State Fault Refusal :=
  .next ((s.setAc ac (s.ac ac + n.zeroExtend 16 + 1)).setPc (s.pc + 1))

/-- SBI (R153). -/
def execSbi (n : BitVec 2) (ac : Acc) (s : State) : Outcome State Fault Refusal :=
  .next ((s.setAc ac (s.ac ac - n.zeroExtend 16 - 1)).setPc (s.pc + 1))

/-- ADDI (R154). -/
def execAddi (ac : Acc) (imm : Word) (s : State) : Outcome State Fault Refusal :=
  .next ((s.setAc ac (s.ac ac + imm)).setPc (s.pc + 2))

/-- DAD (R155); digits above 9 leave any value in ACD bits 12-15 and in C (U3, log entry 18). -/
def execDad (acs acd : Acc) (s : State) : Outcome State Fault Refusal :=
  runExec (do
    let x := digitOf (s.ac acs)
    let y := digitOf (s.ac acd)
    let t := x + y + s.carry.toNat
    if 9 < x ∨ 9 < y then do
      let v ← freshWord
      modify fun s => (s.setAc acd (withDigit (s.ac acd) (fld v 12 4))).setCarry (isIndirect v)
    else
      modify fun s => (s.setAc acd (withDigit (s.ac acd) (BitVec.ofNat 4 (t % 10)))).setCarry (decide (10 ≤ t))
    advance 1) s

/-- DSB (R156); digits above 9 as in DAD (U3, log entry 18). -/
def execDsb (acs acd : Acc) (s : State) : Outcome State Fault Refusal :=
  runExec (do
    let x := digitOf (s.ac acs)
    let y := digitOf (s.ac acd)
    let t : Int := (y : Int) - x - (1 - (s.carry.toNat : Int))
    if 9 < x ∨ 9 < y then do
      let v ← freshWord
      modify fun s => (s.setAc acd (withDigit (s.ac acd) (fld v 12 4))).setCarry (isIndirect v)
    else
      modify fun s => (s.setAc acd (withDigit (s.ac acd) (BitVec.ofInt 4 (if t < 0 then t + 10 else t)))).setCarry
        (decide (0 ≤ t))
    advance 1) s

/-- XCH (R157). -/
def execXch (acs acd : Acc) (s : State) : Outcome State Fault Refusal :=
  .next (((s.setAc acs (s.ac acd)).setAc acd (s.ac acs)).setPc (s.pc + 1))

/-- HLV (R158). -/
def execHlv (ac : Acc) (s : State) : Outcome State Fault Refusal :=
  .next ((s.setAc ac (halveWord (s.ac ac))).setPc (s.pc + 1))

/-- MUL (R160). -/
def execMul (s : State) : Outcome State Fault Refusal :=
  .next ((s.setAcPair .a0 (BitVec.ofNat 32 (s.ac1.toNat * s.ac2.toNat + s.ac0.toNat))).setPc (s.pc + 1))

/-- MULS (R161). -/
def execMuls (s : State) : Outcome State Fault Refusal :=
  .next ((s.setAcPair .a0 (BitVec.ofInt 32 (s.ac1.toInt * s.ac2.toInt + s.ac0.toInt))).setPc (s.pc + 1))

/-- DIV (R162). -/
def execDiv (s : State) : Outcome State Fault Refusal :=
  if s.ac2.toNat ≤ s.ac0.toNat then .next ((s.setCarry true).setPc (s.pc + 1))
  else
    let n := (s.acPair .a0).toNat
    .next ((((s.setAc1 (BitVec.ofNat 16 (n / s.ac2.toNat))).setAc0 (BitVec.ofNat 16 (n % s.ac2.toNat))).setCarry
      false).setPc (s.pc + 1))

/-- The operation of R163 with dividend n; on overflow AC0 and AC1 hold any value (U4, log entry 19). -/
def divideSigned (n : Int) : Exec Unit := do
  let s ← get
  match signedDivide n s.ac2.toInt with
  | some (q, r) =>
    set (((s.setAc1 (BitVec.ofInt 16 q)).setAc0 (BitVec.ofInt 16 r)).setCarry false)
  | none => do
    let v0 ← freshWord
    let v1 ← freshWord
    modify fun t => ((t.setAc0 v0).setAc1 v1).setCarry true
  advance 1

/-- DIVS (R163). -/
def execDivs (s : State) : Outcome State Fault Refusal :=
  runExec (divideSigned (s.acPair .a0).toInt) s

/-- DIVX (R164): the sign of AC1 is extended into AC0, then as DIVS. -/
def execDivx (s : State) : Outcome State Fault Refusal :=
  runExec (divideSigned s.ac1.toInt) s

end Sys2Proof.Machine
end

