-- ==== Sys2Proof/Machine/Float.lean ====
section
/-! DEFINITION. The floating point instruction set (47_floating_point.md). -/

namespace Sys2Proof.Machine

open Host (Outcome)

/-! ### Load, store and move -/

/-- FLDS (R360). -/
def execFlds (fpac : Acc) (m : ExtMem) (s : State) : Outcome State Fault Refusal :=
  runExec (floatInstr do
    let e ← eaExt m
    let v ← readSingle e
    modify fun t => t.floatResult fpac (.clean v)
    advance 2) s

/-- FLDD (R361). -/
def execFldd (fpac : Acc) (m : ExtMem) (s : State) : Outcome State Fault Refusal :=
  runExec (floatInstr do
    let e ← eaExt m
    let v ← memRead4 e
    modify fun t => t.floatResult fpac (.clean v)
    advance 2) s

/-- FSTS (R362). -/
def execFsts (fpac : Acc) (m : ExtMem) (s : State) : Outcome State Fault Refusal :=
  runExec (floatInstr do
    let e ← eaExt m
    memWrite2 e ((s.fpac fpac).extractLsb' 32 32)
    modify State.markFppc
    advance 2) s

/-- FSTD (R363). -/
def execFstd (fpac : Acc) (m : ExtMem) (s : State) : Outcome State Fault Refusal :=
  runExec (floatInstr do
    let e ← eaExt m
    memWrite4 e (s.fpac fpac)
    modify State.markFppc
    advance 2) s

/-- FMOV (R396). -/
def execFmov (facs facd : Acc) (s : State) : Outcome State Fault Refusal :=
  runExec (floatInstr do
    modify fun t => t.floatResult facd (.clean (t.fpac facs))
    advance 1) s

/-! ### Conversions -/

/-- FLAS (R382). -/
def execFlas (ac fpac : Acc) (s : State) : Outcome State Fault Refusal :=
  runExec (floatInstr do
    modify fun t => t.floatResult fpac (floatOfInt (t.ac ac).toInt true)
    advance 1) s

/-- FLMD (R383). -/
def execFlmd (fpac : Acc) (m : ExtMem) (s : State) : Outcome State Fault Refusal :=
  runExec (floatInstr do
    let e ← eaExt m
    let v ← memRead2 e
    modify fun t => t.floatResult fpac (floatOfInt v.toInt false)
    advance 2) s

/-- The status register after a Fix (R384): MOF on overflow, Z and N zero, FPPC. -/
def State.fixStatus (s : State) (overflow : Bool) : State :=
  s.setFpsr (setFppc (setZN (fixAny (raiseFpsr s.fpsr 4 overflow)) false false) s.pc)

/-- FFAS (R384). -/
def execFfas (ac fpac : Acc) (s : State) : Outcome State Fault Refusal :=
  runExec (floatInstr do
    modify fun t => (t.setAc ac (fixTo 15 (t.fpac fpac))).fixStatus (fixOverflows 15 (t.fpac fpac))
    advance 1) s

/-- FFMD (R385): MOF is set before the store (D6). -/
def execFfmd (fpac : Acc) (m : ExtMem) (s : State) : Outcome State Fault Refusal :=
  runExec (floatInstr do
    let e ← eaExt m
    modify fun t => t.setFpsr (fixAny (raiseFpsr t.fpsr 4 (fixOverflows 31 (t.fpac fpac))))
    memWrite2 e (fixTo 31 (s.fpac fpac))
    modify fun t => t.fixStatus false
    advance 2) s

/-! ### Arithmetic -/

/-- FAS (R366). -/
def execFas (facs facd : Acc) (s : State) : Outcome State Fault Refusal :=
  runExec (floatInstr do
    modify fun t => t.floatResult facd (floatAdd (t.fpac facd) (t.fpac facs) true)
    advance 1) s

/-- FAD (R367). -/
def execFad (facs facd : Acc) (s : State) : Outcome State Fault Refusal :=
  runExec (floatInstr do
    modify fun t => t.floatResult facd (floatAdd (t.fpac facd) (t.fpac facs) false)
    advance 1) s

/-- FAMS (R368). -/
def execFams (facd : Acc) (m : ExtMem) (s : State) : Outcome State Fault Refusal :=
  runExec (floatInstr do
    let e ← eaExt m
    let b ← readSingle e
    modify fun t => t.floatResult facd (floatAdd (t.fpac facd) b true)
    advance 2) s

/-- FAMD (R369). -/
def execFamd (facd : Acc) (m : ExtMem) (s : State) : Outcome State Fault Refusal :=
  runExec (floatInstr do
    let e ← eaExt m
    let b ← memRead4 e
    modify fun t => t.floatResult facd (floatAdd (t.fpac facd) b false)
    advance 2) s

/-- FSS (R370). -/
def execFss (facs facd : Acc) (s : State) : Outcome State Fault Refusal :=
  runExec (floatInstr do
    modify fun t => t.floatResult facd (floatSub (t.fpac facd) (t.fpac facs) true)
    advance 1) s

/-- FSD (R371). -/
def execFsd (facs facd : Acc) (s : State) : Outcome State Fault Refusal :=
  runExec (floatInstr do
    modify fun t => t.floatResult facd (floatSub (t.fpac facd) (t.fpac facs) false)
    advance 1) s

/-- FSMS (R372). -/
def execFsms (facd : Acc) (m : ExtMem) (s : State) : Outcome State Fault Refusal :=
  runExec (floatInstr do
    let e ← eaExt m
    let b ← readSingle e
    modify fun t => t.floatResult facd (floatSub (t.fpac facd) b true)
    advance 2) s

/-- FSMD (R373). -/
def execFsmd (facd : Acc) (m : ExtMem) (s : State) : Outcome State Fault Refusal :=
  runExec (floatInstr do
    let e ← eaExt m
    let b ← memRead4 e
    modify fun t => t.floatResult facd (floatSub (t.fpac facd) b false)
    advance 2) s

/-- FMS (R374). -/
def execFms (facs facd : Acc) (s : State) : Outcome State Fault Refusal :=
  runExec (floatInstr do
    modify fun t => t.floatResult facd (floatMul (t.fpac facd) (t.fpac facs) true)
    advance 1) s

/-- FMD (R375). -/
def execFmd (facs facd : Acc) (s : State) : Outcome State Fault Refusal :=
  runExec (floatInstr do
    modify fun t => t.floatResult facd (floatMul (t.fpac facd) (t.fpac facs) false)
    advance 1) s

/-- FMMS (R376). -/
def execFmms (facd : Acc) (m : ExtMem) (s : State) : Outcome State Fault Refusal :=
  runExec (floatInstr do
    let e ← eaExt m
    let b ← readSingle e
    modify fun t => t.floatResult facd (floatMul (t.fpac facd) b true)
    advance 2) s

/-- FMMD (R377). -/
def execFmmd (facd : Acc) (m : ExtMem) (s : State) : Outcome State Fault Refusal :=
  runExec (floatInstr do
    let e ← eaExt m
    let b ← memRead4 e
    modify fun t => t.floatResult facd (floatMul (t.fpac facd) b false)
    advance 2) s

/-- FDS (R378). -/
def execFds (facs facd : Acc) (s : State) : Outcome State Fault Refusal :=
  runExec (floatInstr do
    modify fun t => t.divideResult facd (t.fpac facs) true
    advance 1) s

/-- FDD (R379). -/
def execFdd (facs facd : Acc) (s : State) : Outcome State Fault Refusal :=
  runExec (floatInstr do
    modify fun t => t.divideResult facd (t.fpac facs) false
    advance 1) s

/-- FDMS (R380). -/
def execFdms (facd : Acc) (m : ExtMem) (s : State) : Outcome State Fault Refusal :=
  runExec (floatInstr do
    let e ← eaExt m
    let b ← readSingle e
    modify fun t => t.divideResult facd b true
    advance 2) s

/-- FDMD (R381). -/
def execFdmd (facd : Acc) (m : ExtMem) (s : State) : Outcome State Fault Refusal :=
  runExec (floatInstr do
    let e ← eaExt m
    let b ← memRead4 e
    modify fun t => t.divideResult facd b false
    advance 2) s

/-- FCMP (R397): Z and N are those of FACD - FACS, compared as values. -/
def execFcmp (facs facd : Acc) (s : State) : Outcome State Fault Refusal :=
  runExec (floatInstr do
    modify fun t =>
      let a := fpScaled (t.fpac facs)
      let b := fpScaled (t.fpac facd)
      t.setFpsr (setFppc (setZN t.fpsr (decide (a = b)) (decide (b < a))) t.pc)
    advance 1) s

/-! ### Single accumulator operations -/

/-- FNOM (R386). -/
def execFnom (fpac : Acc) (s : State) : Outcome State Fault Refusal :=
  runExec (floatInstr do
    modify fun t =>
      let x := t.fpac fpac
      t.floatResult fpac (finishNormalized (fpSign x) (fpExp x) (fpMan x) false)
    advance 1) s

/-- FRH (R387). -/
def execFrh (fpac : Acc) (s : State) : Outcome State Fault Refusal :=
  runExec (floatInstr do
    modify fun t => (t.setAc0 ((t.fpac fpac).extractLsb' 48 16)).markFppc
    advance 1) s

/-- FAB (R388). -/
def execFab (fpac : Acc) (s : State) : Outcome State Fault Refusal :=
  runExec (floatInstr do
    modify fun t => t.floatResult fpac (.clean (t.fpac fpac &&& 0x7FFFFFFFFFFFFFFF#64))
    advance 1) s

/-- FNEG (R389): true zero keeps its sign. -/
def execFneg (fpac : Acc) (s : State) : Outcome State Fault Refusal :=
  runExec (floatInstr do
    modify fun t =>
      let x := t.fpac fpac
      t.floatResult fpac (.clean (if x = 0 then x else flipSign x))
    advance 1) s

/-- The exponent field of AC0 (R390, R391). -/
def exponentField (w : Word) : BitVec 7 := fld w 1 7

/-- The shift of FSCAL (R390). -/
def scale (x : Quad) (t : Nat) : FloatResult :=
  let e := fpExp x
  if t = e then .clean x
  else
    let m := if e < t then fpMan x / 16 ^ (t - e) else fpMan x * 16 ^ (e - t) % 2 ^ 56
    { value := if m = 0 then 0 else fpPack (fpSign x) t m, ovf := false, unf := false, mof := decide (t < e) }

/-- FSCAL (R390). -/
def execFscal (fpac : Acc) (s : State) : Outcome State Fault Refusal :=
  runExec (floatInstr do
    modify fun t => t.floatResult fpac (scale (t.fpac fpac) (exponentField t.ac0).toNat)
    advance 1) s

/-- FEXP (R391): true zero is left alone. -/
def execFexp (fpac : Acc) (s : State) : Outcome State Fault Refusal :=
  runExec (floatInstr do
    modify fun t =>
      let x := t.fpac fpac
      t.floatResult fpac
        (.clean (if x = 0 then x else bitOf (fpSign x) ++ exponentField t.ac0 ++ x.extractLsb' 0 56))
    advance 1) s

/-- FHLV (R394). -/
def execFhlv (fpac : Acc) (s : State) : Outcome State Fault Refusal :=
  runExec (floatInstr do
    modify fun t =>
      let x := t.fpac fpac
      t.floatResult fpac (finishNormalized (fpSign x) (fpExp x) (fpMan x / 2) false)
    advance 1) s

/-- FINT (R395), present with the commercial set. -/
def execFint (fpac : Acc) (s : State) : Outcome State Fault Refusal :=
  runExec (do
    needsEap (encode1 (.fint fpac))
    fpIssue do
      modify fun t =>
        let x := t.fpac fpac
        t.floatResult fpac (finishNormalized (fpSign x) (fpExp x) (integerDigits x) false)
      advance 1) s

/-! ### Status and state -/

/-- FLST (R392). -/
def execFlst (m : ExtMem) (s : State) : Outcome State Fault Refusal :=
  runExec (floatInstr do
    let e ← eaExt m
    let v ← memRead2 e
    modify fun t => t.setFpsr (loadFpsr v)
    advance 2) s

/-- FSST (R393). -/
def execFsst (m : ExtMem) (s : State) : Outcome State Fault Refusal :=
  runExec (floatInstr do
    let e ← eaExt m
    memWrite2 e (fixAny s.fpsr)
    advance 2) s

/-- FTE (R398). -/
def execFte (s : State) : Outcome State Fault Refusal :=
  runExec (floatInstr do
    modify fun t => t.setFpsr (setFpsrBit t.fpsr 5 true)
    advance 1) s

/-- FTD (R399). -/
def execFtd (s : State) : Outcome State Fault Refusal :=
  runExec (floatInstr do
    modify fun t => t.setFpsr (setFpsrBit t.fpsr 5 false)
    advance 1) s

/-- FCLE (R400): bits 0-4 are set to 0. -/
def execFcle (s : State) : Outcome State Fault Refusal :=
  runExec (floatInstr do
    modify fun t => t.setFpsr (t.fpsr &&& 0x07FFFFFF#32)
    advance 1) s

/-- Push a word with the stack pointer held in the processor: the word goes above `sp`, which is answered moved up (43_stack.md
R232). -/
def pushAbove (sp v : Word) : Exec Word := do
  memWrite (addrOf (sp + 1)) v
  pure (sp + 1)

/-- Push the four words of a quantity, high-order word first, with the stack pointer held. -/
def pushQuad (sp : Word) (v : Quad) : Exec Word := do
  let sp ← pushAbove sp (v.extractLsb' 48 16)
  let sp ← pushAbove sp (v.extractLsb' 32 16)
  let sp ← pushAbove sp (v.extractLsb' 16 16)
  pushAbove sp (v.extractLsb' 0 16)

/-- Pop the four words of a quantity, low-order word first, with the stack pointer held at `sp`. -/
def popQuad (sp : Word) : Exec Quad := do
  let w3 ← memRead (addrOf sp)
  let w2 ← memRead (addrOf (sp - 1))
  let w1 ← memRead (addrOf (sp - 2))
  let w0 ← memRead (addrOf (sp - 3))
  pure (w0 ++ w1 ++ w2 ++ w3)

/-- FPSH (R401): no fault check. The stack pointer in location 40 octal is not updated before the eighteenth word is stored
(60_exceptions.md R570, R576), so a protection fault on the way leaves it. -/
def execFpsh (s : State) : Outcome State Fault Refusal :=
  runExec (if s.cfg.hasFpu then do
      let sp ← memRead 0o40
      let sp ← pushAbove sp ((fixAny s.fpsr).extractLsb' 16 16)
      let sp ← pushAbove sp (s.fpsr.extractLsb' 0 16)
      let sp ← pushQuad sp s.fpac0
      let sp ← pushQuad sp s.fpac1
      let sp ← pushQuad sp s.fpac2
      let sp ← pushQuad sp s.fpac3
      memWrite 0o40 sp
      advance 1
      checkOverflow (s.pc + 1)
    else advance 1) s

/-- FPOP (R402): no fault check. The stack pointer in location 40 octal is updated after the eighteenth word is read
(60_exceptions.md R570, R576). -/
def execFpop (s : State) : Outcome State Fault Refusal :=
  runExec (if s.cfg.hasFpu then do
      let sp ← memRead 0o40
      let v3 ← popQuad sp
      let v2 ← popQuad (sp - 4)
      let v1 ← popQuad (sp - 8)
      let v0 ← popQuad (sp - 12)
      let lo ← memRead (addrOf (sp - 16))
      let hi ← memRead (addrOf (sp - 17))
      memWrite 0o40 (sp - 18)
      modify fun t =>
        ((((t.setFpac3 v3).setFpac2 v2).setFpac1 v1).setFpac0 v0).setFpsr (loadFpsr (hi ++ lo))
      advance 1
      checkUnderflow (s.pc + 1)
    else advance 1) s

/-! ### Skips -/

/-- A floating point skip on a condition of the FPSR (section 7 of the file). -/
def floatSkip (cond : BitVec 32 → Bool) : Exec Unit :=
  floatInstr do
    let s ← get
    advanceSkip 1 (cond s.fpsr)

/-- FNS (R405). -/
def execFns (s : State) : Outcome State Fault Refusal := runExec (floatSkip fun _ => false) s

/-- FSA (R406). -/
def execFsa (s : State) : Outcome State Fault Refusal := runExec (floatSkip fun _ => true) s

/-- FSEQ (R407). -/
def execFseq (s : State) : Outcome State Fault Refusal := runExec (floatSkip fun r => fpsrBit r 6) s

/-- FSNE (R408). -/
def execFsne (s : State) : Outcome State Fault Refusal := runExec (floatSkip fun r => !fpsrBit r 6) s

/-- FSLT (R409). -/
def execFslt (s : State) : Outcome State Fault Refusal := runExec (floatSkip fun r => fpsrBit r 7) s

/-- FSGE (R410). -/
def execFsge (s : State) : Outcome State Fault Refusal := runExec (floatSkip fun r => !fpsrBit r 7) s

/-- FSLE (R411). -/
def execFsle (s : State) : Outcome State Fault Refusal := runExec (floatSkip fun r => fpsrBit r 6 || fpsrBit r 7) s

/-- FSGT (R412). -/
def execFsgt (s : State) : Outcome State Fault Refusal := runExec (floatSkip fun r => !fpsrBit r 6 && !fpsrBit r 7) s

/-- FSNM (R413). -/
def execFsnm (s : State) : Outcome State Fault Refusal := runExec (floatSkip fun r => !fpsrBit r 4) s

/-- FSND (R414). -/
def execFsnd (s : State) : Outcome State Fault Refusal := runExec (floatSkip fun r => !fpsrBit r 3) s

/-- FSNU (R415). -/
def execFsnu (s : State) : Outcome State Fault Refusal := runExec (floatSkip fun r => !fpsrBit r 2) s

/-- FSNUD (R416). -/
def execFsnud (s : State) : Outcome State Fault Refusal := runExec (floatSkip fun r => !fpsrBit r 2 && !fpsrBit r 3) s

/-- FSNO (R417). -/
def execFsno (s : State) : Outcome State Fault Refusal := runExec (floatSkip fun r => !fpsrBit r 1) s

/-- FSNOD (R418). -/
def execFsnod (s : State) : Outcome State Fault Refusal := runExec (floatSkip fun r => !fpsrBit r 1 && !fpsrBit r 3) s

/-- FSNUO (R419). -/
def execFsnuo (s : State) : Outcome State Fault Refusal := runExec (floatSkip fun r => !fpsrBit r 2 && !fpsrBit r 1) s

/-- FSNER (R420). -/
def execFsner (s : State) : Outcome State Fault Refusal := runExec (floatSkip fun r => !fpsrError r) s

end Sys2Proof.Machine
end

