-- ==== Sys2Proof/Machine/Flow.lean ====
section
/-! DEFINITION. Program flow alteration (44_program_flow.md), but for XCT, which stands in Execute.lean. -/

namespace Sys2Proof.Machine

open Host (Outcome)

/-- PC <- e. -/
def jumpTo (e : Addr) : Exec Unit := modify fun s => s.setPc e

/-- JMP (R261). -/
def execJmp (m : ShortMem) (s : State) : Outcome State Fault Refusal :=
  runExec (do
    let e ← eaShort m
    jumpTo e) s

/-- EJMP (R262). -/
def execEjmp (m : ExtMem) (s : State) : Outcome State Fault Refusal :=
  runExec (do
    let e ← eaExt m
    jumpTo e) s

/-- JSR (R263). -/
def execJsr (m : ShortMem) (s : State) : Outcome State Fault Refusal :=
  runExec (do
    let e ← eaShort m
    modify fun t => t.setAc3 (wordOfAddr (s.pc + 1))
    jumpTo e) s

/-- EJSR (R264). -/
def execEjsr (m : ExtMem) (s : State) : Outcome State Fault Refusal :=
  runExec (do
    let e ← eaExt m
    modify fun t => t.setAc3 (wordOfAddr (s.pc + 2))
    jumpTo e) s

/-- Add to a word of memory, write it back, advance, and skip if the result is zero (R265, R267). -/
def modifySkip (len : Addr) (delta : Word) (e : Addr) : Exec Unit := do
  let v ← memRead e
  memWrite e (v + delta)
  advanceSkip len (v + delta == 0)

/-- ISZ (R265). -/
def execIsz (m : ShortMem) (s : State) : Outcome State Fault Refusal :=
  runExec (do
    let e ← eaShort m
    modifySkip 1 1 e) s

/-- EISZ (R266). -/
def execEisz (m : ExtMem) (s : State) : Outcome State Fault Refusal :=
  runExec (do
    let e ← eaExt m
    modifySkip 2 1 e) s

/-- DSZ (R267). -/
def execDsz (m : ShortMem) (s : State) : Outcome State Fault Refusal :=
  runExec (do
    let e ← eaShort m
    modifySkip 1 (-1) e) s

/-- EDSZ (R268). -/
def execEdsz (m : ExtMem) (s : State) : Outcome State Fault Refusal :=
  runExec (do
    let e ← eaExt m
    modifySkip 2 (-1) e) s

/-- SGT (R269). -/
def execSgt (acs acd : Acc) (s : State) : Outcome State Fault Refusal :=
  .next (s.setPc (s.pc + (if (s.ac acd).toInt < (s.ac acs).toInt then 2 else 1)))

/-- SGE (R270). -/
def execSge (acs acd : Acc) (s : State) : Outcome State Fault Refusal :=
  .next (s.setPc (s.pc + (if (s.ac acd).toInt ≤ (s.ac acs).toInt then 2 else 1)))

/-- CLM (R271). -/
def execClm (acs acd : Acc) (s : State) : Outcome State Fault Refusal :=
  runExec (do
    let a := if acs = acd then s.pc + 1 else addrOf (s.ac acd)
    let len : Addr := if acs = acd then 3 else 1
    let l ← memRead a
    let h ← memRead (a + 1)
    advanceSkip len (decide (l.toInt ≤ (s.ac acs).toInt ∧ (s.ac acs).toInt ≤ h.toInt))) s

/-- SYC (R273). -/
def execSyc (acs acd : Acc) (s : State) : Outcome State Fault Refusal :=
  runExec (do
    if s.userMode then
      modify fun t => (t.setMap { t.map with userEn := false }).setSycHold .fresh
    if acs = .a0 ∧ acd = .a0 then jumpIndirect 2
    else do
      pushBlock (s.pc + 1)
      jumpIndirect 2
      let t ← get
      checkOverflow t.pc) s

/-- A fetched word treated as the intermediate address of an effective address calculation and placed in the
program counter (R274; 45_xop_wcs.md R291). -/
def jumpThrough (t : Word) : Exec Unit := do
  if isIndirect t then do
    let e ← indirect (addrOf t)
    jumpTo e
  else jumpTo (addrOf t)

/-- DSPA (R274). -/
def execDspa (ac : Acc) (m : ExtMem) (s : State) : Outcome State Fault Refusal :=
  runExec (do
    let e ← eaExt m
    let l ← memRead (e - 2)
    let h ← memRead (e - 1)
    let n := s.ac ac
    if n.toInt < l.toInt ∨ h.toInt < n.toInt then advance 2
    else do
      let t ← memRead (e - addrOf l + addrOf n)
      if t = 0xFFFF then advance 2 else jumpThrough t) s

/-- PSHJ (R275): push, then compute the address. -/
def execPshj (m : ExtMem) (s : State) : Outcome State Fault Refusal :=
  runExec (do
    push (wordOfAddr (s.pc + 2))
    let e ← eaExt m
    jumpTo e
    checkOverflow e) s

/-- POPJ (R277). -/
def execPopj (s : State) : Outcome State Fault Refusal :=
  runExec (do
    let t ← pop
    jumpTo (addrOf t)
    checkUnderflow (addrOf t)
    enablePendingUser) s

/-- POPB (R276). -/
def execPopb (s : State) : Outcome State Fault Refusal :=
  runExec (do
    popBlock
    let t ← get
    checkUnderflow t.pc
    enablePendingUser) s

/-- RTN (R278). -/
def execRtn (s : State) : Outcome State Fault Refusal :=
  runExec (do
    let fp ← memRead 0o41
    memWrite 0o40 fp
    popBlock
    let t ← get
    memWrite 0o41 t.ac3
    checkUnderflow t.pc
    enablePendingUser) s

/-- RSTR (R279): nine words, no underflow check. -/
def execRstr (s : State) : Outcome State Fault Refusal :=
  runExec (do
    let sp ← memRead 0o40
    let w ← memRead (addrOf sp)
    modify fun t => (t.setCarry (isIndirect w)).setPc (addrOf w)
    let v3 ← memRead (addrOf (sp - 1))
    modify fun t => t.setAc3 v3
    let v2 ← memRead (addrOf (sp - 2))
    modify fun t => t.setAc2 v2
    let v1 ← memRead (addrOf (sp - 3))
    modify fun t => t.setAc1 v1
    let v0 ← memRead (addrOf (sp - 4))
    modify fun t => t.setAc0 v0
    let sfa ← memRead (addrOf (sp - 5))
    memWrite 0o43 sfa
    let sl ← memRead (addrOf (sp - 6))
    memWrite 0o42 sl
    let fp ← memRead (addrOf (sp - 7))
    memWrite 0o41 fp
    let top ← memRead (addrOf (sp - 8))
    memWrite 0o40 top
    enablePendingUser) s

end Sys2Proof.Machine
end

