-- ==== Sys2Proof/Machine/Logical.lean ====
section
/-! DEFINITION. Logical operations (41_logical.md). -/

namespace Sys2Proof.Machine

open Host (Outcome)

/-- COM (R181). -/
def execCom (f : Alu) (s : State) : Outcome State Fault Refusal :=
  .next (aluFinish f s (~~~s.ac f.acs).toNat)

/-- AND (R182). -/
def execAnd (f : Alu) (s : State) : Outcome State Fault Refusal :=
  .next (aluFinish f s (s.ac f.acd &&& s.ac f.acs).toNat)

/-- LEF (R183). -/
def execLef (ac : Acc) (m : ShortMem) (s : State) : Outcome State Fault Refusal :=
  runExec (do
    let e ← eaShort m
    modify fun t => t.setAc ac (wordOfAddr e)
    advance 1) s

/-- ELEF (R184). -/
def execElef (ac : Acc) (m : ExtMem) (s : State) : Outcome State Fault Refusal :=
  runExec (do
    let e ← eaExt m
    modify fun t => t.setAc ac (wordOfAddr e)
    advance 2) s

/-- IOR (R185). -/
def execIor (acs acd : Acc) (s : State) : Outcome State Fault Refusal :=
  .next ((s.setAc acd (s.ac acd ||| s.ac acs)).setPc (s.pc + 1))

/-- XOR (R186). -/
def execXor (acs acd : Acc) (s : State) : Outcome State Fault Refusal :=
  .next ((s.setAc acd (s.ac acd ^^^ s.ac acs)).setPc (s.pc + 1))

/-- ANC (R187). -/
def execAnc (acs acd : Acc) (s : State) : Outcome State Fault Refusal :=
  .next ((s.setAc acd (s.ac acd &&& ~~~s.ac acs)).setPc (s.pc + 1))

/-- ANDI (R188). -/
def execAndi (ac : Acc) (imm : Word) (s : State) : Outcome State Fault Refusal :=
  .next ((s.setAc ac (s.ac ac &&& imm)).setPc (s.pc + 2))

/-- IORI (R189). -/
def execIori (ac : Acc) (imm : Word) (s : State) : Outcome State Fault Refusal :=
  .next ((s.setAc ac (s.ac ac ||| imm)).setPc (s.pc + 2))

/-- XORI (R190). -/
def execXori (ac : Acc) (imm : Word) (s : State) : Outcome State Fault Refusal :=
  .next ((s.setAc ac (s.ac ac ^^^ imm)).setPc (s.pc + 2))

/-- LSH (R191). -/
def execLsh (acs acd : Acc) (s : State) : Outcome State Fault Refusal :=
  .next ((s.setAc acd (logicalShift (s.ac acd) (shiftCount (s.ac acs)))).setPc (s.pc + 1))

/-- DLSH (R192). -/
def execDlsh (acs acd : Acc) (s : State) : Outcome State Fault Refusal :=
  .next ((s.setAcPair acd (logicalShift (s.acPair acd) (shiftCount (s.ac acs)))).setPc (s.pc + 1))

/-- The number of bits in N + 1 hex digits (R193 to R196). -/
def hexCount (n : BitVec 2) : Nat := 4 * (n.toNat + 1)

/-- HXL (R193). -/
def execHxl (n : BitVec 2) (ac : Acc) (s : State) : Outcome State Fault Refusal :=
  .next ((s.setAc ac (s.ac ac <<< hexCount n)).setPc (s.pc + 1))

/-- HXR (R194). -/
def execHxr (n : BitVec 2) (ac : Acc) (s : State) : Outcome State Fault Refusal :=
  .next ((s.setAc ac (s.ac ac >>> hexCount n)).setPc (s.pc + 1))

/-- DHXL (R195). -/
def execDhxl (n : BitVec 2) (ac : Acc) (s : State) : Outcome State Fault Refusal :=
  .next ((s.setAcPair ac (s.acPair ac <<< hexCount n)).setPc (s.pc + 1))

/-- DHXR (R196). -/
def execDhxr (n : BitVec 2) (ac : Acc) (s : State) : Outcome State Fault Refusal :=
  .next ((s.setAcPair ac (s.acPair ac >>> hexCount n)).setPc (s.pc + 1))

end Sys2Proof.Machine
end

