-- ==== Sys2Proof/Machine/Stack.lean ====
section
/-! DEFINITION. The stack instructions (43_stack.md). -/

namespace Sys2Proof.Machine

open Host (Outcome)

/-- Push the accumulators from ACS up to ACD, at most n + 1 of them (R237). -/
def pushAccs (last : Acc) : Nat → Acc → Exec Unit
  | 0, i => do
    let s ← get
    push (s.ac i)
  | n + 1, i => do
    let s ← get
    push (s.ac i)
    if i = last then pure () else pushAccs last n (accNext i)

/-- Pop into the accumulators from ACS down to ACD, at most n + 1 of them (R238). -/
def popAccs (last : Acc) : Nat → Acc → Exec Unit
  | 0, i => do
    let v ← pop
    modify fun s => s.setAc i v
  | n + 1, i => do
    let v ← pop
    modify fun s => s.setAc i v
    if i = last then pure () else popAccs last n (accPrev i)

/-- PSH (R237). -/
def execPsh (acs acd : Acc) (s : State) : Outcome State Fault Refusal :=
  runExec (do
    pushAccs acd 3 acs
    advance 1
    checkOverflow (s.pc + 1)) s

/-- POP (R238). -/
def execPop (acs acd : Acc) (s : State) : Outcome State Fault Refusal :=
  runExec (do
    popAccs acd 3 acs
    advance 1
    checkUnderflow (s.pc + 1)) s

/-- PSHR (R239). -/
def execPshr (s : State) : Outcome State Fault Refusal :=
  runExec (do
    push (wordOfAddr (s.pc + 2))
    advance 1
    checkOverflow (s.pc + 1)) s

/-- MSP (R240). -/
def execMsp (ac : Acc) (s : State) : Outcome State Fault Refusal :=
  runExec (do
    let sp ← memRead 0o40
    let sl ← memRead 0o42
    let r := sp + s.ac ac
    if sl.toNat < r.toNat then stackFault s.pc
    else do
      memWrite 0o40 r
      advance 1) s

/-- SAVE (R241). -/
def execSave (frame : Word) (s : State) : Outcome State Fault Refusal :=
  runExec (do
    let sp ← memRead 0o40
    let sl ← memRead 0o42
    if sl.toNat < (sp + 5 + frame).toNat then stackFault s.pc
    else do
      push s.ac0
      push s.ac1
      push s.ac2
      let fp ← memRead 0o41
      push fp
      push (wordOfBitAddr s.carry (addrOf s.ac3))
      let sp5 ← memRead 0o40
      memWrite 0o41 sp5
      modify fun t => t.setAc3 sp5
      memWrite 0o40 (sp5 + frame)
      advance 2) s

end Sys2Proof.Machine
end

