-- ==== Sys2Proof/Machine/Xop.lean ====
section
/-! DEFINITION. Extended operations (45_xop_wcs.md). -/

namespace Sys2Proof.Machine

open Host (Outcome)

/-- The operation of R291 with table word `op`. -/
def extendedOperation (acs acd : Acc) (op : Addr) : Exec Unit := do
  let s ← get
  pushBlock (s.pc + 1)
  let sp ← memRead 0o40
  modify fun t => (t.setAc2 (sp - 4 + BitVec.ofNat 16 (accNat acs))).setAc3 (sp - 4 + BitVec.ofNat 16 (accNat acd))
  let origin ← memRead 0o44
  let t ← memRead (addrOf origin + op)
  jumpThrough t
  let u ← get
  checkOverflow u.pc

/-- XOP (R291). -/
def execXop (acs acd : Acc) (op : BitVec 5) (s : State) : Outcome State Fault Refusal :=
  runExec (extendedOperation acs acd (op.zeroExtend 15)) s

/-- XOP1 (R292): with the writeable control store the microprogram of the entry, refused where its effect is not given (U5);
XOP 32 + entry without. -/
def execXop1 (acs acd : Acc) (entry : BitVec 4) (s : State) : Outcome State Fault Refusal :=
  if s.cfg.hasWcs then
    match if s.cfg.wcsEffects then wcsEntryEffect entry acs acd s else none with
    | some t => .next (s.given t)
    | none => .refused (.wcsMicroprogram entry)
  else runExec (extendedOperation acs acd (entry.zeroExtend 15 + 32)) s

end Sys2Proof.Machine
end

