-- ==== Sys2Proof/Machine/Cycle.lean ====
section
/-! DEFINITION. What surrounds an instruction (60_exceptions.md R561): its fetch, the data channel, the interrupt, the
stops of the console. -/

namespace Sys2Proof.Machine

open Host (Outcome)

/-! ### The data channel (49_io.md R507; 46_map.md R302, R315, R344) -/

/-- A data channel map. -/
def MapUnit.dmap (m : MapUnit) : DchMap → Vector MapEntry 32
  | .a => m.dmapA
  | .b => m.dmapB
  | .c => m.dmapC
  | .d => m.dmapD

/-- The entry a request goes through when the data channel map is enabled; the S/200 and C/300 have one map. -/
def State.dchEntry (s : State) (r : DchRequest) : MapEntry :=
  entryAt (match s.cfg.mapKind with | .map230 => s.map.dmap r.map | _ => s.map.dmapA) (blockOf r.addr)

/-- The data channel map translates (46_map.md R302). -/
def State.dchMapped (s : State) : Bool := s.hasMap && s.map.dchEn

/-- DchTranslate (49_io.md R507). -/
def State.dchTranslate (s : State) (r : DchRequest) : Nat :=
  if s.dchMapped then physAddr (s.dchEntry r).phys r.addr else r.addr.toNat

/-- Data channel protection refuses a request (46_map.md R315, D17). -/
def State.dchRefused (s : State) (r : DchRequest) : Bool :=
  s.cfg.mapKind == .map200 && s.dchMapped && (s.map.ustat s.map.lastUser).dchp && (s.dchEntry r).wp && r.input.isSome

/-- One transfer. -/
def serveRequest (s : State) (r : DchRequest) : State :=
  if s.dchRefused r then s.setMap { s.map with dchErr := true }
  else
    match r.input with
    | some v => s.physWrite (s.dchTranslate r) v
    | none =>
      let p := s.physRead (s.dchTranslate r)
      p.2.updateDevice r.code fun d => { d with dchWord := p.1 }

/-- The pending requests, the device closest to the CPU first; devices the bus order does not list come last. -/
def orderRequests (order : List (BitVec 6)) (q : List DchRequest) : List DchRequest :=
  order.dedup.flatMap (fun c => q.filter fun r => r.code == c) ++ q.filter fun r => !order.contains r.code

/-- Serve every pending request (60_exceptions.md R561). -/
def serveChannel (s : State) : State :=
  (orderRequests s.cfg.busOrder s.dchQueue).foldl serveRequest (s.setDchQueue [])

/-! ### The interrupt (60_exceptions.md R575, R577) -/

/-- A one-instruction hold at the end of an instruction. -/
def Hold.advance : Hold → Hold
  | .fresh => .armed
  | _ => .idle

/-- The holds that have run out are cleared (60_exceptions.md R577). -/
def State.advanceHolds (s : State) : State :=
  ((s.setIonDelay s.ionDelay.advance).setSycHold s.sycHold.advance).setUserHold s.userHold.advance

/-- An interrupt is honoured now (60_exceptions.md R575, R577). -/
def State.canInterrupt (s : State) : Bool := s.canSuspend && s.ionDelay == .idle

/-- Interrupt() (60_exceptions.md R575): auto-increment acts in its chain (20_memory.md R77). -/
def takeInterrupt : Exec Unit := do
  let s ← get
  set ((s.setIon false).setMap (if s.hasMap then { s.map with umodeInt := s.map.userEn, userEn := false } else s.map))
  supWrite 0 (wordOfAddr s.pc)
  let t ← chase supBus true chainFuel 0 false 1
  modify fun u => u.setPc t

/-- The processor is stopped by STOP or after a console instruction: the address lights show PC, the data lights
anything (70_reset_and_hazards.md R606, R609, U17). -/
def stopProcessor : Exec Unit := do
  let d ← freshWord
  modify fun s => (s.setRun false).setConsole
    { s.console with stopPending := false, oneShot := .none, dataLights := d, addressLights := s.pc }

/-- No instruction has ended: ADDRESS COMPARE has suspended the machine (70_reset_and_hazards.md R611), or the instruction was
abandoned (R601). -/
def State.unended (s : State) : Bool :=
  s.console.suspended || (match s.cut with | some 0 => true | _ => false)

/-- EndOfInstruction (60_exceptions.md R561): data channel, holds, interrupt, then a pending STOP; in an instruction that never
ends the data channel only (93_implementation_defined.md U2). -/
def endOfInstruction : Exec Unit := do
  let s ← get
  if s.unended then pure ()
  else if s.endless ≠ .none then modify serveChannel
  else do
    modify fun t => (serveChannel t).advanceHolds
    let t ← get
    if t.canInterrupt then takeInterrupt
    else if t.console.stopPending then stopProcessor
    else pure ()

/-- The end of an instruction that left a next state. -/
def endStep (o : Outcome State Fault Refusal) : Outcome State Fault Refusal :=
  match o with
  | .next t => runExec endOfInstruction t
  | .fault f => .fault f
  | .refused r => .refused r

/-! ### One instruction -/

/-- Fetch and decode (60_exceptions.md R561). -/
def fetchInstr : Exec Instr := do
  let s ← get
  let w ← memRead s.pc
  instructionOf w

/-- One instruction of the running processor. -/
def runInstruction (ex : Instr → State → Outcome State Fault Refusal) (s : State) : Outcome State Fault Refusal :=
  endStep (executeFrom fetchInstr ex s)

/-- A LEF is executed by the instruction: LEF itself, or an XCT whose word is one, as if it stood in memory there
(44_program_flow.md R272). -/
def State.reachesLef (s : State) : Instr → Bool
  | .lef _ _ => true
  | .xct ac =>
    match decode s.decodeCtx (s.xctWord 4 ac) 0 with
    | .ok (.lef _ _) => true
    | _ => false
  | _ => false

/-- LEF from the console in user LEF mode is undefined (70_reset_and_hazards.md R609, U14). -/
def refuseLef (m : Exec Instr) : Exec Instr := do
  let i ← m
  let s ← get
  if s.reachesLef i then throw (.refuse .consoleLef) else pure i

/-- The end of a console instruction: no interrupt test, then stopped (70_reset_and_hazards.md R609). -/
def endOfConsoleInstruction : Exec Unit := do
  let s ← get
  if s.unended then pure ()
  else if s.endless ≠ .none then modify serveChannel
  else do
    modify fun t => (serveChannel t).advanceHolds
    stopProcessor

/-- An instruction executed for the console (70_reset_and_hazards.md R609). -/
def consoleInstruction (m : Exec Instr) (ex : Instr → State → Outcome State Fault Refusal) (s : State) :
    Outcome State Fault Refusal :=
  match executeFrom (refuseLef m) ex (s.setConsole { s.console with oneShot := .none }) with
  | .next t => runExec endOfConsoleInstruction t
  | .fault f => .fault f
  | .refused r => .refused r

/-- The stopped processor (70_reset_and_hazards.md R606, R609): it serves the data channel, or does what the console
asks. -/
def idleStep (ex : Instr → State → Outcome State Fault Refusal) (s : State) : Outcome State Fault Refusal :=
  match s.console.oneShot with
  | .none => .next (serveChannel s)
  | .step => consoleInstruction fetchInstr ex s
  | .execute w => consoleInstruction (instructionOf w) ex s
  | .microStep => .fault .microStep

/-! ### Steps that end no instruction -/

/-- The processor in an instruction that never ends (93_implementation_defined.md U2; 60_exceptions.md R569 (d)): the data channel
is served; an EXECUTE of itself is left by an interrupt, with PC on it (44_program_flow.md R272), which a pending STOP keeps
out (70_reset_and_hazards.md R606); STOP does not end it. -/
def endlessStep (s : State) : Outcome State Fault Refusal :=
  if s.endless = .execute ∧ s.canSuspend then endStep (.next ((s.setEndless .none).setIonDelay .idle))
  else .next (serveChannel s)

/-- What the machine does where no RESET comes inside: an instruction of the program, or what the console asks for. -/
def wholeStep (ex : Instr → State → Outcome State Fault Refusal) (s : State) : Outcome State Fault Refusal :=
  if s.run then runInstruction ex s else idleStep ex s

/-- The state a step leaves; the state itself where it leaves none. -/
def nextOr (s : State) (o : Outcome State Fault Refusal) : State :=
  match o with
  | .next t => t
  | .fault _ => s
  | .refused _ => s

/-- RESET with an instruction in progress (70_reset_and_hazards.md R601, U13): the instruction runs up to a free moment, any
subset of its writes has been made, PC is any value, then the RESET takes effect. Requests of the data channel stay
pending. An ADDRESS COMPARE suspension that comes before the RESET is final (R611). -/
def abandonStep (ex : Instr → State → Outcome State Fault Refusal) (s : State) : Outcome State Fault Refusal :=
  let u := (s.setConsole { s.console with resetInside := false }).setDchQueue []
  let run := fun n => wholeStep ex (u.setCut (some n))
  match run (momentAt u.free 0) with
  | .next t =>
    if t.console.suspended then .next ((t.setCut none).setDchQueue s.dchQueue)
    else .next (((mixed u.free fun n => nextOr u (run n)).after do
      abandonPc
      resetFunction).setDchQueue s.dchQueue)
  | .fault f => .fault f
  | .refused r => .refused r

/-- What the machine does in a step, its inputs applied. -/
def machineStep (ex : Instr → State → Outcome State Fault Refusal) (s : State) : Outcome State Fault Refusal :=
  if !s.console.powered || s.console.suspended then .next s
  else if s.endless ≠ .none then endlessStep s
  else if s.console.resetInside then abandonStep ex s
  else wholeStep ex s

/-- The inputs of this step are taken from the schedule (log entry 29) and applied. -/
def takeInputs (s : State) : State :=
  match s.inputs with
  | [] => s
  | is :: rest => applyInputs is (s.setInputs rest)

/-! ### A program placed from outside (log entry 7) -/

/-- Where the fetch reads a logical address. -/
def State.fetchPlace (s : State) (a : Addr) : Nat :=
  match s.translate false false a with
  | .ok pa => pa
  | .error _ => s.unmapped a

/-- The processor is running, undisturbed: no input, stop, comparison or memory error meets the next fetch. -/
def State.readyToFetch (s : State) : State :=
  (((((s.setRun true).setInputs []).setEndless .none).setCut none).setErcc { s.ercc with events := [] }).setConsole
    { s.console with powered := true, suspended := false, oneShot := .none, resetInside := false, stopPending := false,
                     addrCmp := .off }

/-- The words of an instruction stored where the next fetch reads them. -/
def State.storeInstruction (s : State) (w1 w2 : Word) : State :=
  (s.physWrite (s.fetchPlace (s.pc + 1)) w2).physWrite (s.fetchPlace s.pc) w1

end Sys2Proof.Machine
end

