-- ==== Sys2Proof/Machine/Dispatch.lean ====
section
/-! DEFINITION. One arm per instruction, each one call of its meaning. -/

namespace Sys2Proof.Machine

/-- What an instruction does to the state. -/
def exec (i : Instr) (s : State) : Host.Outcome State Fault Refusal :=
  match i with
  | .com f => Sys2Proof.Machine.execCom f s
  | .neg f => Sys2Proof.Machine.execNeg f s
  | .mov f => Sys2Proof.Machine.execMov f s
  | .inc f => Sys2Proof.Machine.execInc f s
  | .adc f => Sys2Proof.Machine.execAdc f s
  | .sub f => Sys2Proof.Machine.execSub f s
  | .add f => Sys2Proof.Machine.execAdd f s
  | .and f => Sys2Proof.Machine.execAnd f s
  | .jmp m => Sys2Proof.Machine.execJmp m s
  | .jsr m => Sys2Proof.Machine.execJsr m s
  | .isz m => Sys2Proof.Machine.execIsz m s
  | .dsz m => Sys2Proof.Machine.execDsz m s
  | .lda ac m => Sys2Proof.Machine.execLda ac m s
  | .sta ac m => Sys2Proof.Machine.execSta ac m s
  | .lef ac m => Sys2Proof.Machine.execLef ac m s
  | .ejmp m => Sys2Proof.Machine.execEjmp m s
  | .ejsr m => Sys2Proof.Machine.execEjsr m s
  | .eisz m => Sys2Proof.Machine.execEisz m s
  | .edsz m => Sys2Proof.Machine.execEdsz m s
  | .pshj m => Sys2Proof.Machine.execPshj m s
  | .elda ac m => Sys2Proof.Machine.execElda ac m s
  | .esta ac m => Sys2Proof.Machine.execEsta ac m s
  | .elef ac m => Sys2Proof.Machine.execElef ac m s
  | .dspa ac m => Sys2Proof.Machine.execDspa ac m s
  | .eldb ac ix disp => Sys2Proof.Machine.execEldb ac ix disp s
  | .estb ac ix disp => Sys2Proof.Machine.execEstb ac ix disp s
  | .adi n ac => Sys2Proof.Machine.execAdi n ac s
  | .sbi n ac => Sys2Proof.Machine.execSbi n ac s
  | .hxl n ac => Sys2Proof.Machine.execHxl n ac s
  | .hxr n ac => Sys2Proof.Machine.execHxr n ac s
  | .dhxl n ac => Sys2Proof.Machine.execDhxl n ac s
  | .dhxr n ac => Sys2Proof.Machine.execDhxr n ac s
  | .dad acs acd => Sys2Proof.Machine.execDad acs acd s
  | .dsb acs acd => Sys2Proof.Machine.execDsb acs acd s
  | .ior acs acd => Sys2Proof.Machine.execIor acs acd s
  | .xor acs acd => Sys2Proof.Machine.execXor acs acd s
  | .anc acs acd => Sys2Proof.Machine.execAnc acs acd s
  | .xch acs acd => Sys2Proof.Machine.execXch acs acd s
  | .sgt acs acd => Sys2Proof.Machine.execSgt acs acd s
  | .sge acs acd => Sys2Proof.Machine.execSge acs acd s
  | .lsh acs acd => Sys2Proof.Machine.execLsh acs acd s
  | .dlsh acs acd => Sys2Proof.Machine.execDlsh acs acd s
  | .bto acs acd => Sys2Proof.Machine.execBto acs acd s
  | .btz acs acd => Sys2Proof.Machine.execBtz acs acd s
  | .szb acs acd => Sys2Proof.Machine.execSzb acs acd s
  | .szbo acs acd => Sys2Proof.Machine.execSzbo acs acd s
  | .lob acs acd => Sys2Proof.Machine.execLob acs acd s
  | .lrb acs acd => Sys2Proof.Machine.execLrb acs acd s
  | .cob acs acd => Sys2Proof.Machine.execCob acs acd s
  | .ldb acs acd => Sys2Proof.Machine.execLdb acs acd s
  | .stb acs acd => Sys2Proof.Machine.execStb acs acd s
  | .psh acs acd => Sys2Proof.Machine.execPsh acs acd s
  | .pop acs acd => Sys2Proof.Machine.execPop acs acd s
  | .syc acs acd => Sys2Proof.Machine.execSyc acs acd s
  | .clm acs acd => Sys2Proof.Machine.execClm acs acd s
  | .snb acs acd => Sys2Proof.Machine.execSnb acs acd s
  | .msp ac => Sys2Proof.Machine.execMsp ac s
  | .xct ac => Sys2Proof.Machine.execXct ac s
  | .hlv ac => Sys2Proof.Machine.execHlv ac s
  | .iori ac imm => Sys2Proof.Machine.execIori ac imm s
  | .xori ac imm => Sys2Proof.Machine.execXori ac imm s
  | .andi ac imm => Sys2Proof.Machine.execAndi ac imm s
  | .addi ac imm => Sys2Proof.Machine.execAddi ac imm s
  | .pshr => Sys2Proof.Machine.execPshr s
  | .popb => Sys2Proof.Machine.execPopb s
  | .bam => Sys2Proof.Machine.execBam s
  | .popj => Sys2Proof.Machine.execPopj s
  | .rtn => Sys2Proof.Machine.execRtn s
  | .blm => Sys2Proof.Machine.execBlm s
  | .divx => Sys2Proof.Machine.execDivx s
  | .mul => Sys2Proof.Machine.execMul s
  | .muls => Sys2Proof.Machine.execMuls s
  | .div => Sys2Proof.Machine.execDiv s
  | .divs => Sys2Proof.Machine.execDivs s
  | .rstr => Sys2Proof.Machine.execRstr s
  | .save frame => Sys2Proof.Machine.execSave frame s
  | .lmp200 => Sys2Proof.Machine.execLmp200 s
  | .lmp230 => Sys2Proof.Machine.execLmp230 s
  | .xop acs acd op => Sys2Proof.Machine.execXop acs acd op s
  | .xop1 acs acd entry => Sys2Proof.Machine.execXop1 acs acd entry s
  | .fas facs facd => Sys2Proof.Machine.execFas facs facd s
  | .fad facs facd => Sys2Proof.Machine.execFad facs facd s
  | .fss facs facd => Sys2Proof.Machine.execFss facs facd s
  | .fsd facs facd => Sys2Proof.Machine.execFsd facs facd s
  | .fms facs facd => Sys2Proof.Machine.execFms facs facd s
  | .fmd facs facd => Sys2Proof.Machine.execFmd facs facd s
  | .fds facs facd => Sys2Proof.Machine.execFds facs facd s
  | .fdd facs facd => Sys2Proof.Machine.execFdd facs facd s
  | .fcmp facs facd => Sys2Proof.Machine.execFcmp facs facd s
  | .fmov facs facd => Sys2Proof.Machine.execFmov facs facd s
  | .fams fpac m => Sys2Proof.Machine.execFams fpac m s
  | .famd fpac m => Sys2Proof.Machine.execFamd fpac m s
  | .fsms fpac m => Sys2Proof.Machine.execFsms fpac m s
  | .fsmd fpac m => Sys2Proof.Machine.execFsmd fpac m s
  | .fmms fpac m => Sys2Proof.Machine.execFmms fpac m s
  | .fmmd fpac m => Sys2Proof.Machine.execFmmd fpac m s
  | .fdms fpac m => Sys2Proof.Machine.execFdms fpac m s
  | .fdmd fpac m => Sys2Proof.Machine.execFdmd fpac m s
  | .flds fpac m => Sys2Proof.Machine.execFlds fpac m s
  | .fldd fpac m => Sys2Proof.Machine.execFldd fpac m s
  | .fsts fpac m => Sys2Proof.Machine.execFsts fpac m s
  | .fstd fpac m => Sys2Proof.Machine.execFstd fpac m s
  | .flmd fpac m => Sys2Proof.Machine.execFlmd fpac m s
  | .ffmd fpac m => Sys2Proof.Machine.execFfmd fpac m s
  | .flas ac fpac => Sys2Proof.Machine.execFlas ac fpac s
  | .ffas ac fpac => Sys2Proof.Machine.execFfas ac fpac s
  | .fnom fpac => Sys2Proof.Machine.execFnom fpac s
  | .frh fpac => Sys2Proof.Machine.execFrh fpac s
  | .fab fpac => Sys2Proof.Machine.execFab fpac s
  | .fneg fpac => Sys2Proof.Machine.execFneg fpac s
  | .fscal fpac => Sys2Proof.Machine.execFscal fpac s
  | .fexp fpac => Sys2Proof.Machine.execFexp fpac s
  | .fint fpac => Sys2Proof.Machine.execFint fpac s
  | .fhlv fpac => Sys2Proof.Machine.execFhlv fpac s
  | .fsst m => Sys2Proof.Machine.execFsst m s
  | .flst m => Sys2Proof.Machine.execFlst m s
  | .fte => Sys2Proof.Machine.execFte s
  | .ftd => Sys2Proof.Machine.execFtd s
  | .fcle => Sys2Proof.Machine.execFcle s
  | .fpsh => Sys2Proof.Machine.execFpsh s
  | .fpop => Sys2Proof.Machine.execFpop s
  | .fns => Sys2Proof.Machine.execFns s
  | .fsa => Sys2Proof.Machine.execFsa s
  | .fseq => Sys2Proof.Machine.execFseq s
  | .fsne => Sys2Proof.Machine.execFsne s
  | .fslt => Sys2Proof.Machine.execFslt s
  | .fsge => Sys2Proof.Machine.execFsge s
  | .fsle => Sys2Proof.Machine.execFsle s
  | .fsgt => Sys2Proof.Machine.execFsgt s
  | .fsnm => Sys2Proof.Machine.execFsnm s
  | .fsnd => Sys2Proof.Machine.execFsnd s
  | .fsnu => Sys2Proof.Machine.execFsnu s
  | .fsnud => Sys2Proof.Machine.execFsnud s
  | .fsno => Sys2Proof.Machine.execFsno s
  | .fsnod => Sys2Proof.Machine.execFsnod s
  | .fsnuo => Sys2Proof.Machine.execFsnuo s
  | .fsner => Sys2Proof.Machine.execFsner s
  | .ldi fpac => Sys2Proof.Machine.execLdi fpac s
  | .sti fpac => Sys2Proof.Machine.execSti fpac s
  | .ldix => Sys2Proof.Machine.execLdix s
  | .stix => Sys2Proof.Machine.execStix s
  | .cmv => Sys2Proof.Machine.execCmv s
  | .cmp => Sys2Proof.Machine.execCmp s
  | .ctr => Sys2Proof.Machine.execCtr s
  | .cmt => Sys2Proof.Machine.execCmt s
  | .edit => Sys2Proof.Machine.execEdit s
  | .lsn => Sys2Proof.Machine.execLsn s
  | .nio ac f dev => Sys2Proof.Machine.execNio ac f dev s
  | .dia ac f dev => Sys2Proof.Machine.execDia ac f dev s
  | .doa ac f dev => Sys2Proof.Machine.execDoa ac f dev s
  | .dib ac f dev => Sys2Proof.Machine.execDib ac f dev s
  | .dob ac f dev => Sys2Proof.Machine.execDob ac f dev s
  | .dic ac f dev => Sys2Proof.Machine.execDic ac f dev s
  | .doc ac f dev => Sys2Proof.Machine.execDoc ac f dev s
  | .skp ac t dev => Sys2Proof.Machine.execSkp ac t dev s
  | .inten => Sys2Proof.Machine.execInten s
  | .intds => Sys2Proof.Machine.execIntds s
  | .reads ac f => Sys2Proof.Machine.execReads ac f s
  | .inta ac f => Sys2Proof.Machine.execInta ac f s
  | .msko ac f => Sys2Proof.Machine.execMsko ac f s
  | .iorst ac f => Sys2Proof.Machine.execIorst ac f s
  | .halt ac f => Sys2Proof.Machine.execHalt ac f s
  | .skpCpu t => Sys2Proof.Machine.execSkpCpu t s
  | .vct change table => Sys2Proof.Machine.execVct change table s
  | .doaMap200 ac => Sys2Proof.Machine.execDoaMap200 ac s
  | .doaMap230 ac => Sys2Proof.Machine.execDoaMap230 ac s
  | .dobMap200 ac => Sys2Proof.Machine.execDobMap200 ac s
  | .dobMap230 ac => Sys2Proof.Machine.execDobMap230 ac s
  | .docMap200 ac => Sys2Proof.Machine.execDocMap200 ac s
  | .docMap230 ac => Sys2Proof.Machine.execDocMap230 ac s
  | .diaMap200 ac => Sys2Proof.Machine.execDiaMap200 ac s
  | .diaMap230 ac => Sys2Proof.Machine.execDiaMap230 ac s
  | .dicMap200 ac => Sys2Proof.Machine.execDicMap200 ac s
  | .dicMap230 ac => Sys2Proof.Machine.execDicMap230 ac s
  | .niopMap200 => Sys2Proof.Machine.execNiopMap200 s
  | .niopMap230 => Sys2Proof.Machine.execNiopMap230 s
  | .doaWcs ac => Sys2Proof.Machine.execDoaWcs ac s
  | .dobWcs ac => Sys2Proof.Machine.execDobWcs ac s
  | .docWcs ac => Sys2Proof.Machine.execDocWcs ac s
  | .doaErcc ac f => Sys2Proof.Machine.execDoaErcc ac f s
  | .diaErcc ac f => Sys2Proof.Machine.execDiaErcc ac f s
  | .dibErcc ac f => Sys2Proof.Machine.execDibErcc ac f s
  | .doaRtc ac f => Sys2Proof.Machine.execDoaRtc ac f s

end Sys2Proof.Machine
end

