-- ==== Sys2Proof/Machine/Step.lean ====
section
/-! DEFINITION. One step of the machine (60_exceptions.md R561), and the placing of an instruction where it fetches. -/

namespace Sys2Proof.Machine

/-- One step: the host's inputs, then one instruction if the processor runs. -/
def step (s : State) : Host.Outcome State Fault Refusal := machineStep exec (takeInputs s)

/-- The instruction whose bits are `w` (the first word in bits 15..0, the second in bits 31..16, bits from `nbits` up
0) stored where the next step fetches, the processor running (log entry 7). -/
def State.withFetchWord (s : State) (nbits w : Nat) : State :=
  s.readyToFetch.storeInstruction (BitVec.ofNat 16 (w % 2 ^ nbits)) (BitVec.ofNat 16 (w % 2 ^ nbits / 65536))

end Sys2Proof.Machine
end

