-- ==== Sys2Proof/Safety.lean ====
section
/-! DEFINITION. The terms the claims are stated in: states in which nothing disturbs a memory reference, what
memory reads as and what a store leaves, the stack as the claims see it, the invariant of the machine. -/

namespace Sys2Proof.Machine

/-- Nothing outside the instruction acts on a memory reference: ADDRESS COMPARE is off (or disabled by LOCK), no memory error
waits, and no RESET is to cut the instruction off (70_reset_and_hazards.md R611, R612, R601; 49_io.md R535). -/
def State.quiet (s : State) : Bool := s.comparing == .off && s.ercc.events.isEmpty && s.cut.isNone

/-- A quiet state in supervisor mode, or without a MAP: no reference is refused (46_map.md R303). -/
def State.calm (s : State) : Bool := s.quiet && !s.userMode

/-- The word at a physical address (20_memory.md R65). -/
def State.content (s : State) (pa : Nat) : Word := if pa < s.cfg.memWords then Memory.word s.mem pa else s.cfg.nxmRead

/-- A processor read of a logical address is allowed (20_memory.md R66). -/
def State.readable (s : State) (a : Addr) : Bool :=
  match s.translate false false a with
  | .ok _ => true
  | .error _ => false

/-- A processor write of a logical address is allowed (20_memory.md R66). -/
def State.writable (s : State) (a : Addr) : Bool :=
  match s.translate false true a with
  | .ok _ => true
  | .error _ => false

/-- What a logical address reads as; 0 where the read is not allowed. -/
def State.look (s : State) (a : Addr) : Word :=
  match s.translate false false a with
  | .ok pa => s.content pa
  | .error _ => 0

/-- The state after a store; unchanged where the store is not allowed. -/
def State.put (s : State) (a : Addr) (v : Word) : State :=
  match s.translate false true a with
  | .ok pa => s.physWrite pa v
  | .error _ => s

/-- The byte at a byte pointer (20_memory.md R71). -/
def State.lookByte (s : State) (bp : Word) : Byte := byteOfWord bp (s.look (bytePtrAddr bp))

/-- The state after a byte is stored (20_memory.md R71). -/
def State.putByte (s : State) (bp : Word) (v : Byte) : State :=
  s.put (bytePtrAddr bp) (withByte bp (s.look (bytePtrAddr bp)) v)

/-- The two words from a logical address on (20_memory.md R63). -/
def State.look2 (s : State) (a : Addr) : BitVec 32 := s.look a ++ s.look (a + 1)

/-- The four words from a logical address on (20_memory.md R63). -/
def State.look4 (s : State) (a : Addr) : Quad := s.look2 a ++ s.look2 (a + 2)

/-- The state after two words are stored. -/
def State.put2 (s : State) (a : Addr) (v : BitVec 32) : State :=
  (s.put a (v.extractLsb' 16 16)).put (a + 1) (v.extractLsb' 0 16)

/-- The state after four words are stored. -/
def State.put4 (s : State) (a : Addr) (v : Quad) : State :=
  (s.put2 a (v.extractLsb' 32 32)).put2 (a + 2) (v.extractLsb' 0 32)

/-- Where a chain of address words without auto-index updates ends (20_memory.md R76), within a number of levels. -/
def State.follow (s : State) : Nat → Addr → Option Addr
  | 0, _ => none
  | n + 1, a => if isIndirect (s.look a) then s.follow n (addrOf (s.look a)) else some (addrOf (s.look a))

/-- Where a chain of address words of the short class or of an interrupt ends within a number of levels, with the state that
its auto-increments and auto-decrements leave (20_memory.md R77). -/
def State.followAuto : Nat → State → Addr → Option (Addr × State)
  | 0, _, _ => none
  | n + 1, s, a =>
    let w := s.look a
    let v := if 16 ≤ a.toNat ∧ a.toNat ≤ 23 then w + 1 else if 24 ≤ a.toNat ∧ a.toNat ≤ 31 then w - 1 else w
    let t := if 16 ≤ a.toNat ∧ a.toNat ≤ 31 then s.put a v else s
    if w.msb then State.followAuto n t (v.setWidth 15) else some (v.setWidth 15, t)

/-- The address of the k-th word of a chain without auto-index updates (20_memory.md R76). -/
def State.chainAddr (s : State) (a : Addr) : Nat → Addr
  | 0 => a
  | k + 1 => addrOf (s.look (State.chainAddr s a k))

/-- The state after a push (43_stack.md R232). -/
def State.pushed (s : State) (v : Word) : State :=
  (s.put (addrOf (s.look 0o40 + 1)) v).put 0o40 (s.look 0o40 + 1)

/-- The word on top of the stack (43_stack.md R232). -/
def State.top (s : State) : Word := s.look (addrOf (s.look 0o40))

/-- The state after a pop (43_stack.md R232). -/
def State.popped (s : State) : State := s.put 0o40 (s.look 0o40 - 1)

/-- The state after a return block with a return address is pushed (43_stack.md R233). -/
def State.pushedBlock (s : State) (pc : Addr) : State :=
  ((((s.pushed s.ac0).pushed s.ac1).pushed s.ac2).pushed s.ac3).pushed (wordOfBitAddr s.carry pc)

/-- The state after a return block is popped (43_stack.md R233). -/
def State.poppedBlock (s : State) : State :=
  let t := s.popped
  let u := t.popped
  let v := u.popped
  let w := v.popped
  (((((w.popped.setCarry (isIndirect s.top)).setPc (addrOf s.top)).setAc3 t.top).setAc2 u.top).setAc1 v.top).setAc0 w.top

/-- The stack pointer is beyond the stack limit (43_stack.md R234). -/
def State.overflowed (s : State) : Bool := decide ((s.look 0o42).toNat < (s.look 0o40).toNat)

/-- The stack pointer is below 400 octal with underflow protection on (43_stack.md R235). -/
def State.underflowed (s : State) : Bool := decide ((s.look 0o40).toNat < 0o400) && !isIndirect (s.look 0o42)

/-- The state after the stack fault's block and stack word changes, before the jump (43_stack.md R234). -/
def State.stackFaulted (s : State) (pc : Addr) : State :=
  let t := s.pushedBlock pc
  let u := t.put 0o40 (wordOfAddr (addrOf (t.look 0o40)))
  u.put 0o42 (wordOfBitAddr true (addrOf (u.look 0o42)))

/-- The accumulators, the carry and PC of another state. -/
def State.cpuFrom (s t : State) : State :=
  (((((s.setAc0 t.ac0).setAc1 t.ac1).setAc2 t.ac2).setAc3 t.ac3).setCarry t.carry).setPc t.pc

/-- A floating point instruction executes (47_floating_point.md R355, R358). -/
def State.fpReady (s : State) : Bool := s.cfg.hasFpu && !s.fpTrapPending

/-- The machine's invariant: memory is in canonical form within the installed memory, and FPSR bit 0 follows bits
1-4 (10_state.md R24). -/
def State.inv (s : State) : Bool :=
  Memory.wf s.mem && s.mem.all (fun c => decide (c.1 < 2 * s.cfg.memWords)) && (fpsrBit s.fpsr 0 == fpsrError s.fpsr)

/-! ### Terms of the statements about single families -/

/-- The next state of an arithmetic/logical instruction, told as arithmetic on the 17 bits carry and word: the
function generator's integer `t` added to the initial carry in the place of 65536, the sum cut to 17 bits, rotated or its
bytes swapped, then loaded and tested (40_fixed_point.md R141). -/
def State.aluEffect (s : State) (f : Alu) (t : Nat) : State :=
  let c0 : Nat :=
    match f.carry with
    | .keep => s.carry.toNat
    | .zero => 0
    | .one => 1
    | .complement => 1 - s.carry.toNat
  let v := BitVec.ofNat 17 (t + 65536 * c0)
  let v2 : BitVec 17 :=
    match f.shift with
    | .keep => v
    | .left => v.rotateLeft 1
    | .right => v.rotateRight 1
    | .swap => v.extractLsb' 16 1 ++ v.extractLsb' 0 8 ++ v.extractLsb' 8 8
  let c2 := v2.msb
  let zero := decide (v2.toNat % 65536 = 0)
  let skip :=
    match f.skip with
    | .never => false
    | .always => true
    | .szc => !c2
    | .snc => c2
    | .szr => zero
    | .snr => !zero
    | .sez => !c2 || zero
    | .sbn => c2 && !zero
  let loaded := if f.noLoad then s else (s.setAc f.acd (v2.setWidth 16)).setCarry c2
  loaded.setPc (s.pc + if skip then 2 else 1)

/-- The register-only fixed point and logical instructions, with the accumulators each may write (40_fixed_point.md,
41_logical.md; 42_byte_bit.md R223 to R225; 44_program_flow.md R269, R270). -/
def registerDests : Instr → Option (List Acc)
  | .com f | .neg f | .mov f | .inc f | .adc f | .sub f | .add f | .and f => some (if f.noLoad then [] else [f.acd])
  | .adi _ a | .sbi _ a | .hxl _ a | .hxr _ a | .hlv a | .iori a _ | .xori a _ | .andi a _ | .addi a _ => some [a]
  | .dad _ d | .dsb _ d | .ior _ d | .xor _ d | .anc _ d | .lsh _ d | .lob _ d | .cob _ d => some [d]
  | .xch s d | .lrb s d => some [s, d]
  | .dlsh _ d => some [d, accNext d]
  | .dhxl _ a | .dhxr _ a => some [a, accNext a]
  | .mul | .muls | .div | .divs | .divx => some [.a0, .a1]
  | .sgt _ _ | .sge _ _ => some []
  | _ => none

/-- Those of them that write the carry. -/
def registerCarry : Instr → Bool
  | .com f | .neg f | .mov f | .inc f | .adc f | .sub f | .add f | .and f => !f.noLoad
  | .dad _ _ | .dsb _ _ | .div | .divs | .divx => true
  | _ => false

/-- The number of an accumulator taken modulo 4. -/
def accOfNat (n : Nat) : Acc :=
  match n % 4 with
  | 0 => .a0
  | 1 => .a1
  | 2 => .a2
  | _ => .a3

/-- The accumulators from one up to another, AC0 following AC3 (43_stack.md R237). -/
def accsUp (x y : Acc) : List Acc :=
  (List.range ((accNat y + 4 - accNat x) % 4 + 1)).map fun k => accOfNat (accNat x + k)

/-- The accumulators from one down to another, AC3 following AC0 (43_stack.md R238). -/
def accsDown (x y : Acc) : List Acc :=
  (List.range ((accNat x + 4 - accNat y) % 4 + 1)).map fun k => accOfNat (accNat x + 4 - k)

/-- Words pushed in the order of the list (43_stack.md R232). -/
def State.pushedAll (s : State) (ws : List Word) : State := ws.foldl State.pushed s

/-- Accumulators filled from the stack in the order of the list (43_stack.md R232). -/
def State.poppedInto (s : State) (as : List Acc) : State := as.foldl (fun t a => t.popped.setAc a t.top) s

/-- The state after words are stored in consecutive locations above a stack pointer, which location 40 octal does not follow. -/
def State.storedAbove (s : State) (sp : Word) : List Word → State
  | [] => s
  | w :: ws => (s.put (addrOf (sp + 1)) w).storedAbove (sp + 1) ws

/-- Words pushed with the stack pointer updated once, at the end (43_stack.md R232; 47_floating_point.md R401). -/
def State.pushedTogether (s : State) (ws : List Word) : State :=
  (s.storedAbove (s.look 0o40) ws).put 0o40 (s.look 0o40 + BitVec.ofNat 16 ws.length)

/-- The k-th word of the stack, counted from the top. -/
def State.stackWord (s : State) (k : Nat) : Word := s.look (addrOf (s.look 0o40 - BitVec.ofNat 16 k))

/-- The words of the floating point state block in the order they are pushed (47_floating_point.md R401). -/
def State.floatBlock (s : State) : List Word :=
  let four (v : Quad) : List Word :=
    [v.extractLsb' 48 16, v.extractLsb' 32 16, v.extractLsb' 16 16, v.extractLsb' 0 16]
  [(fixAny s.fpsr).extractLsb' 16 16, s.fpsr.extractLsb' 0 16] ++ four s.fpac0 ++ four s.fpac1 ++ four s.fpac2 ++ four s.fpac3

/-- The state a stack fault leaves when the handler address chain ends at `e` (43_stack.md R234). -/
def State.inStackFault (s : State) (pc e : Addr) : State := (s.stackFaulted pc).setPc e

/-- The pending user map is switched on at the end of POPJ, POPB, RTN and RSTR (46_map.md R318, R334). -/
def State.returned (s : State) : State :=
  match s.map.enablePending with
  | some u => s.enableUser u
  | none => s

/-- The state in which SYC runs its sequence: out of user mode, interrupts held (44_program_flow.md R273). -/
def State.systemEntered (s : State) : State :=
  if s.userMode then (s.setMap { s.map with userEn := false }).setSycHold .fresh else s

/-- One word of a block move (42_byte_bit.md R221): stored, then the count and both addresses move on. -/
def State.movedWord (f : Word → Word) (s : State) : State :=
  let t := s.put (addrOf s.ac3) (f (s.look (addrOf s.ac2)))
  ((t.setAc1 (s.ac1 - 1)).setAc2 (0#1 ++ (addrOf s.ac2 + 1))).setAc3 (0#1 ++ (addrOf s.ac3 + 1))

/-- One word of a LOAD MAP (46_map.md R306). -/
def State.loadedWord (load : MapUnit → Word → MapUnit) (s : State) : State :=
  ((s.setMap (load s.map (s.look (addrOf s.ac2) + s.ac0))).setAc1 (s.ac1 - 1)).setAc2 (0#1 ++ (addrOf s.ac2 + 1))

/-- n words from an address on may be read. -/
def State.readableWords (s : State) (a : Addr) (n : Nat) : Bool :=
  (List.range n).all fun k => s.readable (a + BitVec.ofNat 15 k)

/-- n words from an address on may be written. -/
def State.writableWords (s : State) (a : Addr) (n : Nat) : Bool :=
  (List.range n).all fun k => s.writable (a + BitVec.ofNat 15 k)

/-- The floating point instructions that make the fault check of 47_floating_point.md R358 and are no-operations without the
feature (R355): all but FPSH, FPOP (no check) and FINT (present with the commercial set). -/
def checkedFloat : Instr → Bool
  | .fas _ _ | .fad _ _ | .fss _ _ | .fsd _ _ | .fms _ _ | .fmd _ _ | .fds _ _ | .fdd _ _ | .fcmp _ _ | .fmov _ _
  | .fams _ _ | .famd _ _ | .fsms _ _ | .fsmd _ _ | .fmms _ _ | .fmmd _ _ | .fdms _ _ | .fdmd _ _ | .flds _ _
  | .fldd _ _ | .fsts _ _ | .fstd _ _ | .flmd _ _ | .ffmd _ _ | .flas _ _ | .ffas _ _ | .fnom _ | .frh _ | .fab _
  | .fneg _ | .fscal _ | .fexp _ | .fhlv _ | .fsst _ | .flst _ | .fte | .ftd | .fcle | .fns | .fsa | .fseq | .fsne
  | .fslt | .fsge | .fsle | .fsgt | .fsnm | .fsnd | .fsnu | .fsnud | .fsno | .fsnod | .fsnuo | .fsner => true
  | _ => false

/-- The magnitude of a floating point number times 16^78, exact (47_floating_point.md R350). -/
def fpMagnitude (x : Quad) : Nat := fpMan x * 16 ^ fpExp x

/-- A normalized number: the leading hex digit of the mantissa is not 0 (47_floating_point.md R351). -/
def fpNormalized (x : Quad) : Bool := decide (16 ^ 13 ≤ fpMan x)

/-! ### Strings and decimal fields (48_commercial.md) -/

/-- n bytes from a pointer on. -/
def State.lookBytes (s : State) (p : Word) (n : Nat) : List Byte :=
  (List.range n).map fun k => s.lookByte (p + BitVec.ofNat 16 k)

/-- Bytes stored from a pointer on, one by one in ascending order (R430). -/
def State.putBytes : State → List Byte → Word → State
  | s, [], _ => s
  | s, b :: bs, p => State.putBytes (s.putByte p b) bs (p + 1)

/-- The next character of string 1, a space when none is left (R446, R447). -/
def State.sourceChar (s : State) : Byte := if s.ac1 = 0 then 0x20 else s.lookByte s.ac3

/-- The next character of string 2, a space when none is left (R447). -/
def State.targetChar (s : State) : Byte := if s.ac0 = 0 then 0x20 else s.lookByte s.ac2

/-- One character of string 1 taken: up or down as the sign of the count says (R446). -/
def State.pastSource (s : State) : State :=
  if s.ac1 = 0 then s
  else if s.ac1.msb then (s.setAc3 (s.ac3 - 1)).setAc1 (s.ac1 + 1)
  else (s.setAc3 (s.ac3 + 1)).setAc1 (s.ac1 - 1)

/-- One character of string 2 taken (R446). -/
def State.pastTarget (s : State) : State :=
  if s.ac0 = 0 then s
  else if s.ac0.msb then (s.setAc2 (s.ac2 - 1)).setAc0 (s.ac0 + 1)
  else (s.setAc2 (s.ac2 + 1)).setAc0 (s.ac0 - 1)

/-- One character of CMV (R446). -/
def State.movedChar (s : State) : State := (s.pastSource.putByte s.ac2 s.sourceChar).pastTarget

/-- One pair of equal characters of CMP (R447). -/
def State.pastPair (s : State) : State := s.pastSource.pastTarget

/-- The character a translation table gives for a byte (R448). -/
def State.translated (s : State) (tbl : Word) (b : Byte) : Byte := s.lookByte (tbl + b.setWidth 16)

/-- One character of CTR's move option (R448). -/
def State.translatedChar (tbl : Word) (s : State) : State :=
  let t := s.putByte s.ac2 (s.translated tbl (s.lookByte s.ac3))
  ((t.setAc2 (s.ac2 + 1)).setAc3 (s.ac3 + 1)).setAc1 (s.ac1 + 1)

/-- One pair of characters of CTR's compare option whose translations are equal (R448). -/
def State.pastEqual (s : State) : State := ((s.setAc2 (s.ac2 + 1)).setAc3 (s.ac3 + 1)).setAc1 (s.ac1 - 1)

/-- CMT's table at a word address has a 1 for the next character (R449). -/
def State.stopsAt (a : Addr) (s : State) : Bool :=
  let b := s.lookByte s.ac3
  (s.look (a + BitVec.ofNat 15 (b.toNat / 16))).getMsbD (b.toNat % 16)

/-- One character of CMT (R449). -/
def State.movedUntil (s : State) : State :=
  let d : Word := if s.ac1.msb then -1 else 1
  let t := s.putByte s.ac2 (s.lookByte s.ac3)
  ((t.setAc2 (s.ac2 + d)).setAc3 (s.ac3 + d)).setAc1 (s.ac1 - d)

/-- The state after n bytes from a byte pointer on have taken free values (93_implementation_defined.md U11). -/
def State.spoiled : Nat → Word → State → State
  | 0, _, s => s
  | n + 1, p, s => State.spoiled n (p + 1) ((s.putByte p ((Config.freeWord s.free).setWidth 8)).setFree (s.free + 1))

/-- The state a commercial fault leaves when the handler address chain ends at `e` (60_exceptions.md R567). -/
def State.inCommercialFault (s : State) (code : Word) (e : Addr) : State := ((s.setAc1 code).pushedBlock s.pc).setPc e

/-- The commercial fault's jump ends at `e` and its block does not overflow the stack (60_exceptions.md R567). -/
def State.commercialGoes (s : State) (code : Word) (e : Addr) : Prop :=
  let t := (s.setAc1 code).pushedBlock s.pc
  t.follow 32768 0o46 = some e ∧ t.overflowed = false

/-! ### EDIT (48_commercial.md R450 to R475) -/

/-- The count of a repeated operation with operand byte j (R451). -/
def State.repeats (s : State) (j : Byte) : Nat :=
  if j.msb then (s.look ((s.look 0o40 + 1 + j.signExtend 16).setWidth 15)).toNat else j.toNat

/-- n characters copied one by one from a pointer to another (R470, R472). -/
def State.copied (s : State) (src dst : Word) : Nat → State
  | 0 => s
  | n + 1 =>
    let t := State.copied s src dst n
    t.putByte (dst + BitVec.ofNat 16 n) (t.lookByte (src + BitVec.ofNat 16 n))

/-- EDIT's indicators after SI has moved n bytes, one by one (R458). -/
def Edit.siMoved (e : Edit) (n : Nat) : Edit :=
  { e with
    si := e.si + BitVec.ofNat 16 n,
    outside := e.outside || (List.range n).any fun k => Edit.isOutside { e with si := e.si + BitVec.ofNat 16 (k + 1) } }

/-- n digits moved, each supplied by NextDigit: `out` says what a digit does to the indicators and which bytes it puts
(R471, R473, R475). -/
def digitsMoved (out : Edit → Byte → Edit × List Byte) : Nat → Edit → State → Edit → State → Prop
  | 0, e, s, e', s' => e' = e ∧ s' = s
  | n + 1, e, s, e', s' => ∃ c x u, e.nextDigit s = .ok (c, x) u ∧ u.calm = true ∧
      (let r := out x c
       digitsMoved out n { r.1 with di := r.1.di + BitVec.ofNat 16 r.2.length } (u.putBytes r.2 r.1.di) e' s')

/-! ### Interrupts and protection faults (60_exceptions.md) -/

/-- The processor after INTEN or an S function (49_io.md R512, R513). -/
def State.interruptsOn (s : State) : State := if s.ion then s else (s.setIonDelay .fresh).setIon true

/-- The F function of an instruction for device 77 octal (49_io.md R512). -/
def State.ionAct (s : State) (f : IoF) : State :=
  match f with
  | .start => s.interruptsOn
  | .clear => s.setIon false
  | _ => s

/-- Out of user mode with a violation recorded (46_map.md R322, R325, R343). -/
def State.faultRecorded (s : State) (f : MapFault) : State :=
  (s.setMap { s.map with fault := f, userEn := false }).setFree (s.free + 2)

/-- The processor honours an interrupt: interrupts off, supervisor mode, PC at location 0 (60_exceptions.md R575). -/
def State.interrupted (s : State) : State :=
  let t := s.setIon false
  let u := if s.hasMap then t.setMap { s.map with umodeInt := s.map.userEn, userEn := false } else t
  u.put 0 (0#1 ++ s.pc)

/-- VCT's stack change: the vector stack becomes the stack and takes the old stack control words (49_io.md R522). -/
def State.stackChanged (s : State) : State :=
  let t := s.put 0o40 (s.look 4)
  let u := t.put 0o42 (t.look 6)
  let v := u.put 0o43 (u.look 7)
  v.pushedAll [s.look 0o40, s.look 0o41, s.look 0o42, s.look 0o43]

/-! ### What comes from outside (60_exceptions.md section 1; 70_reset_and_hazards.md) -/

/-- The machine stands between steps with power and nothing asked of it from outside: no input waits, ADDRESS COMPARE has not
suspended it, no RESET falls inside the step (70_reset_and_hazards.md R601, R611, R612). -/
def State.undisturbed (s : State) : Bool :=
  s.inputs.isEmpty && s.console.powered && !s.console.suspended && !s.console.resetInside

/-- The state ADDRESS COMPARE leaves when it suspends the CPU: stopped, the light on, the other lights any value (R611,
U15). -/
def State.suspendedAt (s : State) : State :=
  ((s.setFree (s.free + 2)).setRun false).setConsole
    { s.console with suspended := true, addrCompareLight := true, dataLights := Config.freeWord s.free,
                     addressLights := (Config.freeWord (s.free + 1)).setWidth 15 }

/-- The processor stopped after an instruction that left the state `u`, the data lights showing `d`: requests of the data
channel served, the holds run on, PC in the address lights (R606, R609). -/
def State.stoppedAfter (u : State) (d : Word) : State :=
  let c := (serveChannel u).advanceHolds
  ((c.setFree (c.free + 1)).setRun false).setConsole
    { c.console with stopPending := false, oneShot := .none, dataLights := d, addressLights := c.pc }

end Sys2Proof.Machine
end

