-- ==== Sys2Proof/Certificates/Slice0/Obligations.lean ====
section
/-! DEFINITION. The statements for the provers. In every one of them an equation `exec i s = .next t` gives the whole
next state: what `t` does not name is as in `s`, so it is the instruction's frame too. The notes in brackets name the
log entries a clause rests on. -/

section

open Sys2Proof Sys2Proof.Machine

/-! ### Encoding (30_encoding.md) -/

/-- Decoding what the encoder writes for a well-formed instruction gives that instruction, for every instruction,
every value of every operand and every MAP variant and mode. -/
def Obligations.DecodeOfEncode : Prop :=
  ∀ (c : DecodeCtx) (i : Instr), i.wf c = true → decode c (encode1 i) ((secondWord i).getD 0) = .ok i

/-- A word has one meaning: whatever the decoder reads is well-formed, and the encoder writes the same words for it.
-/
def Obligations.EncodeOfDecode : Prop :=
  ∀ (c : DecodeCtx) (w w2 : Word) (i : Instr), decode c w w2 = .ok i →
    i.wf c = true ∧ encode1 i = w ∧ (secondWord i).getD w2 = w2

/-- A few words written out from the spec's own examples decode to the instructions they stand for. -/
def Obligations.ExampleWordsDecode : Prop :=
  ∀ c : DecodeCtx, c.lef = false →
    decode c 0o170010 0 = .ok (.adi 3 .a2)
    ∧ decode c 0o021005 0 = .ok (.lda .a0 { ind := false, index := .ac2, disp := 5 })
    ∧ decode c 0o126070 0o012345 = .ok (.elda .a1 { index := .absolute, ind := false, disp := 0o12345 })
    ∧ decode c 0o141310 0 = .ok (.dlsh .a2 .a0)
    ∧ decode c 0o163710 6 = .ok (.save 6)
    ∧ decode c 0o060177 0 = .ok .inten
    ∧ decode c 0o124014 0 =
        .ok (.com { acs := .a1, acd := .a1, shift := .keep, carry := .keep, noLoad := true, skip := .szr })

/-! ### The step (60_exceptions.md section 1) -/

/-- In an undisturbed running machine the words at the program counter decode to an instruction and the step is that
instruction, followed by the end of the instruction (`endStep`). -/
def Obligations.StepRunsDecodedInstruction : Prop :=
  ∀ (s : State) (w2 : Word) (i : Instr),
    s.undisturbed = true → s.endless = .none → s.run = true → s.quiet = true → s.readable s.pc = true →
    (if s.needsSecond (s.look s.pc) then s.readable (s.pc + 1) = true ∧ w2 = s.look (s.pc + 1) else w2 = 0) →
    decode s.decodeCtx (s.look s.pc) w2 = .ok i →
    step s = endStep (exec i s)

/-- What surrounds the instruction: the requests on the data channel are served, the holds on interrupts run on [counters,
the model's choice: log entry 31]; an interrupt to honour turns interrupts off, leaves user mode, stores PC at location 0
and jumps through location 1, through auto-increment and auto-decrement locations too, and a chain that never ends keeps
the processor [the model's choice of its state: log entry 8]; else a pending STOP stops the processor, its data lights any
value [log entry 26]. In an endless instruction the data channel alone is served. A machine that ADDRESS COMPARE has
suspended does nothing more [the model's choice: log entry 25]; a fault or a refusal stays one. -/
def Obligations.EndOfInstruction : Prop :=
  (∀ t : State, t.console.suspended = false → t.cut = none → t.endless = .none →
    let c := serveChannel t
    let u := c.advanceHolds
    (t.dchQueue = [] → c = t)
    ∧ (u.canInterrupt = false → u.console.stopPending = false → endStep (.next t) = .next u)
    ∧ (u.canInterrupt = false → u.console.stopPending = true → ∃ d, endStep (.next t) =
      .next (((u.setFree (u.free + 1)).setRun false).setConsole
        { u.console with stopPending := false, oneShot := .none, dataLights := d, addressLights := u.pc }))
    ∧ (u.canInterrupt = true → u.quiet = true →
      let v := u.interrupted
      (∀ (n : Nat) (e : Addr) (x : State), n ≤ 34359738368 → State.followAuto n v 1 = some (e, x) →
        endStep (.next t) = .next (x.setPc e))
      ∧ (State.followAuto 34359738368 v 1 = none → ∃ x, endStep (.next t) = .next x ∧ x.endless = .instruction)))
  ∧ (∀ t : State, t.console.suspended = false → t.cut = none → t.endless ≠ .none →
    endStep (.next t) = .next (serveChannel t))
  ∧ (∀ t : State, t.console.suspended = true → endStep (.next t) = .next t)
  ∧ (∀ f, endStep (.fault f) = .fault f) ∧ (∀ r, endStep (.refused r) = .refused r)

/-! ### The invariant -/

/-- Every step keeps the invariant: memory stays in canonical form inside the installed memory, and ANY (FPSR bit 0)
stays the OR of the four error bits. -/
def Obligations.StepKeepsInvariant : Prop :=
  ∀ s t : State, s.inv = true → step s = .next t → t.inv = true

/-- The invariant holds right after reset. -/
def Obligations.ResetHasInvariant : Prop :=
State.reset.inv = true

/-! ### Arithmetic and logic in the accumulators (40_fixed_point.md, 41_logical.md) -/

/-- The eight arithmetic/logical instructions with every shift, carry and skip option, as arithmetic on 17 bits. -/
def Obligations.ArithmeticLogicalClass : Prop :=
  ∀ (f : Alu) (s : State),
    exec (.com f) s = .next (s.aluEffect f (65535 - (s.ac f.acs).toNat))
    ∧ exec (.neg f) s = .next (s.aluEffect f (65536 - (s.ac f.acs).toNat))
    ∧ exec (.mov f) s = .next (s.aluEffect f (s.ac f.acs).toNat)
    ∧ exec (.inc f) s = .next (s.aluEffect f ((s.ac f.acs).toNat + 1))
    ∧ exec (.adc f) s = .next (s.aluEffect f ((s.ac f.acd).toNat + (65535 - (s.ac f.acs).toNat)))
    ∧ exec (.sub f) s = .next (s.aluEffect f ((s.ac f.acd).toNat + (65536 - (s.ac f.acs).toNat)))
    ∧ exec (.add f) s = .next (s.aluEffect f ((s.ac f.acd).toNat + (s.ac f.acs).toNat))
    ∧ exec (.and f) s = .next (s.aluEffect f (s.ac f.acd &&& s.ac f.acs).toNat)

/-- ADI and SBI: encoding, result modulo 2^16, carry unchanged; ADDI, whose encoding is presumed [G6, log entry 35], the model's
choice. ANDI, IORI, XORI (the immediate is the second word) and IOR, XOR, ANC: encodings and results. -/
def Obligations.AddSubtractImmediate : Prop :=
  (∀ (c : DecodeCtx) (n : BitVec 2) (a : Acc) (imm : Word) (s : State),
    decode c (1#1 ++ n ++ accBits a ++ 0b00000001000#11) 0 = .ok (.adi n a)
    ∧ decode c (1#1 ++ n ++ accBits a ++ 0b00001001000#11) 0 = .ok (.sbi n a)
    ∧ exec (.adi n a) s = .next ((s.setAc a (BitVec.ofNat 16 ((s.ac a).toNat + n.toNat + 1))).setPc (s.pc + 1))
    ∧ exec (.sbi n a) s =
        .next ((s.setAc a (BitVec.ofInt 16 (((s.ac a).toNat : Int) - n.toNat - 1))).setPc (s.pc + 1))
    ∧ decode c (1#1 ++ 0b11#2 ++ accBits a ++ 0b11111111000#11) imm = .ok (.addi a imm)
    ∧ exec (.addi a imm) s = .next ((s.setAc a (BitVec.ofInt 16 ((s.ac a).toInt + imm.toInt))).setPc (s.pc + 2)))
  ∧ (∀ (c : DecodeCtx) (a : Acc) (imm : Word) (s : State),
    decode c (1#1 ++ 0b10#2 ++ accBits a ++ 0b11111111000#11) imm = .ok (.andi a imm)
    ∧ decode c (1#1 ++ 0b00#2 ++ accBits a ++ 0b11111111000#11) imm = .ok (.iori a imm)
    ∧ decode c (1#1 ++ 0b01#2 ++ accBits a ++ 0b11111111000#11) imm = .ok (.xori a imm)
    ∧ exec (.andi a imm) s = .next ((s.setAc a (s.ac a &&& imm)).setPc (s.pc + 2))
    ∧ exec (.iori a imm) s = .next ((s.setAc a (s.ac a ||| imm)).setPc (s.pc + 2))
    ∧ exec (.xori a imm) s = .next ((s.setAc a (s.ac a ^^^ imm)).setPc (s.pc + 2)))
  ∧ (∀ (c : DecodeCtx) (x y : Acc) (s : State),
    decode c (1#1 ++ accBits x ++ accBits y ++ 0b00100001000#11) 0 = .ok (.ior x y)
    ∧ decode c (1#1 ++ accBits x ++ accBits y ++ 0b00101001000#11) 0 = .ok (.xor x y)
    ∧ decode c (1#1 ++ accBits x ++ accBits y ++ 0b00110001000#11) 0 = .ok (.anc x y)
    ∧ exec (.ior x y) s = .next ((s.setAc y (s.ac y ||| s.ac x)).setPc (s.pc + 1))
    ∧ exec (.xor x y) s = .next ((s.setAc y (s.ac y ^^^ s.ac x)).setPc (s.pc + 1))
    ∧ exec (.anc x y) s = .next ((s.setAc y (s.ac y &&& ~~~s.ac x)).setPc (s.pc + 1)))

/-! ### The data channel (49_io.md R507; 46_map.md R315) -/

/-- The data channel: a request goes through the entry of its device's map when the data channel map is enabled (the one map
of the S/200 and C/300), else to the address it gives; an input stores its word, an output hands the device the word there.
On the S/200 and C/300 an input to a write protected block does nothing but record the error where the last enabled user has
data channel protection on [D17, log entry 40]. Requests of two devices are served closest device first, in whichever order
they came; the stopped processor serves the channel. -/
def Obligations.DataChannel : Prop :=
  (∀ (s : State) (r : DchRequest),
    let m := s.map
    let table : Vector MapEntry 32 :=
      if s.cfg.mapKind = .map230 then (match r.map with | .a => m.dmapA | .b => m.dmapB | .c => m.dmapC | .d => m.dmapD)
      else m.dmapA
    let x : MapEntry := table.toList.getD (r.addr.toNat / 1024) MapEntry.zero
    let pa : Nat :=
      if s.cfg.mapKind ≠ .none ∧ m.dchEn = true then x.phys.toNat * 1024 + r.addr.toNat % 1024 else r.addr.toNat
    let barred : Prop := s.cfg.mapKind = .map200 ∧ m.dchEn = true ∧ x.wp = true ∧
      (match m.lastUser with | .a => m.ustatA.dchp | .b => m.ustatB.dchp) = true
    (∀ v, r.input = some v → barred → serveRequest s r = s.setMap { m with dchErr := true })
    ∧ (∀ v, r.input = some v → ¬barred → serveRequest s r = s.physWrite pa v)
    ∧ (r.input = none → s.ercc.events = [] → serveRequest s r =
      s.setDevices (s.devices.map fun d => if d.code = r.code then { d with dchWord := s.content pa } else d)))
  ∧ (∀ (s : State) (r q : DchRequest) (before between after : List (BitVec 6)),
    s.cfg.busOrder = before ++ r.code :: between ++ q.code :: after → s.cfg.busOrder.Nodup →
    (s.dchQueue = [r, q] ∨ s.dchQueue = [q, r]) →
    serveChannel s = serveRequest (serveRequest (s.setDchQueue []) r) q)
  ∧ (∀ s : State, s.undisturbed = true → s.endless = .none → s.run = false → s.console.oneShot = .none →
    step s = .next (serveChannel s))

/-! ### Arithmetic in the accumulators, continued (40_fixed_point.md) -/

/-- XCH exchanges, HLV halves toward zero by the rule's own steps (negate, shift, negate); MUL, MULS and DIV: encodings,
results over unbounded integers, the carry of DIV, its overflow case. -/
def Obligations.ExchangeAndHalve : Prop :=
  (∀ (c : DecodeCtx) (x y : Acc) (s : State),
    decode c (1#1 ++ accBits x ++ accBits y ++ 0b00111001000#11) 0 = .ok (.xch x y)
    ∧ decode c (1#1 ++ 0b10#2 ++ accBits x ++ 0b11011111000#11) 0 = .ok (.hlv x)
    ∧ exec (.xch x y) s = .next (((s.setAc x (s.ac y)).setAc y (s.ac x)).setPc (s.pc + 1))
    ∧ exec (.hlv x) s =
        .next ((s.setAc x (if (s.ac x).msb then -((-(s.ac x)) >>> 1) else s.ac x >>> 1)).setPc (s.pc + 1)))
  ∧ (∀ (c : DecodeCtx) (s : State),
    let p : Nat := s.ac1.toNat * s.ac2.toNat + s.ac0.toNat
    let q : Int := s.ac1.toInt * s.ac2.toInt + s.ac0.toInt
    let n : Nat := s.ac0.toNat * 65536 + s.ac1.toNat
    decode c 0o143710 0 = .ok .mul ∧ decode c 0o147710 0 = .ok .muls ∧ decode c 0o153710 0 = .ok .div
    ∧ exec .mul s =
        .next (((s.setAc0 (BitVec.ofNat 16 (p / 65536))).setAc1 (BitVec.ofNat 16 (p % 65536))).setPc (s.pc + 1))
    ∧ exec .muls s =
        .next (((s.setAc0 (BitVec.ofInt 16 (q / 65536))).setAc1 (BitVec.ofInt 16 q)).setPc (s.pc + 1))
    ∧ (s.ac2.toNat ≤ s.ac0.toNat → exec .div s = .next ((s.setCarry true).setPc (s.pc + 1)))
    ∧ (s.ac0.toNat < s.ac2.toNat → exec .div s =
        .next ((((s.setAc1 (BitVec.ofNat 16 (n / s.ac2.toNat))).setAc0 (BitVec.ofNat 16 (n % s.ac2.toNat))).setCarry
          false).setPc (s.pc + 1))))

/-! ### What comes from outside (49_io.md, 70_reset_and_hazards.md) -/

/-- What comes from outside. The clock's pulse ends the interval of its own frequency. Power: failing sets the flag of the
power fail option; its loss stops the machine; it returns stopped, with interrupts and the mask clear, or does nothing with
the switch at OFF, and with the switch in LOCK at that moment and the option the restart delay later starts the processor
[when the switch counts and what OFF does, the model's choices: log entry 27] at location 0 [C21, log entry 39]; memory
survives [log entry 41]. A memory error is recorded at the first read when the ERCC checks [log entry 32] and requests an
interrupt in mode 11. ADDRESS COMPARE: STOP/ADDR suspends before the access, STOP/STORE after the store, PC as it stands and
the lights any value [log entry 25]; MONITOR shows the word; in LOCK only MONITOR acts. -/
def Obligations.OutsideEvents : Prop :=
  (∀ (s : State) (k : BitVec 2), s.console.powered = true →
    let t := applyInput s .powerLost
    let ticks : Bool := s.cfg.hasRtc && s.rtc.busy && s.rtc.freq == k
    applyInput s (.clockPulse k) = s.setRtc (if ticks then { s.rtc with busy := false, done := true } else s.rtc)
    ∧ applyInput s .powerFailing = s.setPwrFail (s.pwrFail || s.cfg.hasPfar)
    ∧ t.console.powered = false ∧ t.run = false ∧ t.mem = s.mem
    ∧ (s.console.restartPending = true → applyInput s .restartDelay =
      ((s.setPc 0).setRun true).setConsole { s.console with restartPending := false }))
  ∧ (∀ s : State, s.console.powered = false →
    let t := applyInput s .powerRestored
    (s.console.power = .off → t = s)
    ∧ (s.console.power ≠ .off → t.console.powered = true ∧ t.run = false ∧ t.ion = false ∧ t.mask = 0
      ∧ t.map.userEn = false ∧ t.mem = s.mem
      ∧ t.console.restartPending = (s.cfg.hasPfar && s.console.power == .lock)))
  ∧ (∀ (s : State) (a : Addr) (pa : Nat) (e : MemoryError) (rest : List MemoryError),
    s.comparing = .off → s.cut = none → s.translate false false a = .ok pa → pa < s.cfg.memWords → s.cfg.hasErcc = true →
    s.ercc.mode.getLsbD 1 = true → s.ercc.events = e :: rest → e.addr = pa →
    let t := s.setErcc { s.ercc with faultAddr := BitVec.ofNat 17 pa, code := e.code, done := true, events := rest }
    memRead a s = .ok (e.delivered.getD (s.content pa)) t ∧ t.erccReq = (s.ercc.mode == 3))
  ∧ (∀ (s : State) (a : Addr) (v : Word), s.cut = none → s.ercc.events = [] → s.console.switches.setWidth 15 = a →
    let c := s.console.addrCmp
    let locked : Bool := s.console.power == .lock
    (c = .stopAddr → locked = false →
      memRead a s = .error .trap s.suspendedAt ∧ memWrite a v s = .error .trap s.suspendedAt)
    ∧ (c = .stopStore → locked = false → s.writable a = true → memWrite a v s = .error .trap (s.put a v).suspendedAt)
    ∧ (c = .stopStore → s.readable a = true → memRead a s = .ok (s.look a) s)
    ∧ ((c = .stopAddr ∨ c = .stopStore) → locked = true → s.readable a = true → memRead a s = .ok (s.look a) s)
    ∧ ((c = .stopAddr ∨ c = .stopStore) → locked = true → s.writable a = true → memWrite a v s = .ok () (s.put a v))
    ∧ (c = .monitor → s.readable a = true →
      memRead a s = .ok (s.look a) (s.setConsole { s.console with dataLights := s.look a })))

/-! ### Division, decimal digits, shifts and counts (40_fixed_point.md, 41_logical.md, 42_byte_bit.md) -/

/-- DIVS and DIVX: any quotient and remainder that satisfy the division rule are the ones stored; where no quotient
fits, the carry is set and AC0 and AC1 take free values [log entries 6 and 19; D12 accepts -32768]. -/
def Obligations.SignedDivision : Prop :=
  ∀ (s : State) (i : Instr) (n : Int),
    (i = .divs ∧ n = s.ac0.toInt * 65536 + s.ac1.toNat) ∨ (i = .divx ∧ n = s.ac1.toInt) →
    (∀ q r : Int, n = q * s.ac2.toInt + r → r.natAbs < s.ac2.toInt.natAbs → (r = 0 ∨ (0 ≤ r ↔ 0 ≤ n)) →
      -32768 ≤ q → q ≤ 32767 →
      exec i s = .next ((((s.setAc1 (BitVec.ofInt 16 q)).setAc0 (BitVec.ofInt 16 r)).setCarry false).setPc (s.pc + 1)))
    ∧ ((s.ac2 = 0 ∨ n.tdiv s.ac2.toInt < -32768 ∨ 32767 < n.tdiv s.ac2.toInt) →
      exec i s = .next (((((s.setFree (s.free + 2)).setAc0 (Config.freeWord s.free)).setAc1
        (Config.freeWord (s.free + 1))).setCarry true).setPc (s.pc + 1)))

/-- DAD and DSB on decimal digits, bits 0-11 kept; with a digit above 9 bits 12-15 of ACD and the carry are free [log
entry 18]. -/
def Obligations.DecimalDigits : Prop :=
  ∀ (x y : Acc) (s : State),
    let a := (s.ac x).toNat % 16
    let b := (s.ac y).toNat % 16
    let rest := (s.ac y).toNat - b
    let t := a + b + s.carry.toNat
    let d : Int := (b : Int) - a - (1 - s.carry.toNat)
    (a ≤ 9 → b ≤ 9 →
      exec (.dad x y) s =
        .next (((s.setAc y (BitVec.ofNat 16 (rest + t % 10))).setCarry (decide (10 ≤ t))).setPc (s.pc + 1))
      ∧ exec (.dsb x y) s =
        .next (((s.setAc y (BitVec.ofNat 16 (rest + (if d < 0 then d + 10 else d).toNat))).setCarry
          (decide (0 ≤ d))).setPc (s.pc + 1)))
    ∧ (9 < a ∨ 9 < b → ∀ i, i = .dad x y ∨ i = .dsb x y → ∃ (v : BitVec 4) (k : Bool), exec i s =
        .next ((((s.setFree (s.free + 1)).setAc y ((s.ac y).extractLsb' 4 12 ++ v)).setCarry k).setPc (s.pc + 1)))

/-- LSH and DLSH by the signed count in bits 8-15 of ACS, magnitudes above 15 and 31 clearing; HXL, HXR, DHXL, DHXR by
1 to 4 hex digits: encodings and results. -/
def Obligations.ShiftInstructions : Prop :=
  (∀ (c : DecodeCtx) (x y : Acc) (s : State),
    let n := (loByte (s.ac x)).toInt
    let v := (s.ac y).toNat
    let w := (s.ac y).toNat * 65536 + (s.ac (accNext y)).toNat
    let r : Nat := if 15 < n ∨ n < -15 then 0 else if 0 ≤ n then v * 2 ^ n.toNat else v / 2 ^ (-n).toNat
    let d : Nat := if 31 < n ∨ n < -31 then 0 else if 0 ≤ n then w * 2 ^ n.toNat else w / 2 ^ (-n).toNat
    decode c (1#1 ++ accBits x ++ accBits y ++ 0b01010001000#11) 0 = .ok (.lsh x y)
    ∧ decode c (1#1 ++ accBits x ++ accBits y ++ 0b01011001000#11) 0 = .ok (.dlsh x y)
    ∧ exec (.lsh x y) s = .next ((s.setAc y (BitVec.ofNat 16 r)).setPc (s.pc + 1))
    ∧ exec (.dlsh x y) s =
        .next (((s.setAc y (BitVec.ofNat 16 (d / 65536))).setAc (accNext y) (BitVec.ofNat 16 d)).setPc (s.pc + 1)))
  ∧ (∀ (c : DecodeCtx) (n : BitVec 2) (a : Acc) (s : State),
    let k := 16 ^ (n.toNat + 1)
    let w := (s.ac a).toNat * 65536 + (s.ac (accNext a)).toNat
    decode c (1#1 ++ n ++ accBits a ++ 0b01100001000#11) 0 = .ok (.hxl n a)
    ∧ decode c (1#1 ++ n ++ accBits a ++ 0b01101001000#11) 0 = .ok (.hxr n a)
    ∧ decode c (1#1 ++ n ++ accBits a ++ 0b01110001000#11) 0 = .ok (.dhxl n a)
    ∧ decode c (1#1 ++ n ++ accBits a ++ 0b01111001000#11) 0 = .ok (.dhxr n a)
    ∧ exec (.hxl n a) s = .next ((s.setAc a (BitVec.ofNat 16 ((s.ac a).toNat * k))).setPc (s.pc + 1))
    ∧ exec (.hxr n a) s = .next ((s.setAc a (BitVec.ofNat 16 ((s.ac a).toNat / k))).setPc (s.pc + 1))
    ∧ exec (.dhxl n a) s =
        .next (((s.setAc a (BitVec.ofNat 16 (w * k / 65536))).setAc (accNext a) (BitVec.ofNat 16 (w * k))).setPc
          (s.pc + 1))
    ∧ exec (.dhxr n a) s =
        .next (((s.setAc a (BitVec.ofNat 16 (w / k / 65536))).setAc (accNext a) (BitVec.ofNat 16 (w / k))).setPc
          (s.pc + 1)))

/-- LOB adds the number n of high-order zeroes, LRB adds it and clears the leading 1 (only clears it when ACS is ACD),
COB adds the number of ones. -/
def Obligations.BitCounts : Prop :=
  ∀ (x y : Acc) (s : State) (n : Nat),
    n ≤ 16 → (∀ k, k < n → (s.ac x).getMsbD k = false) → (n < 16 → (s.ac x).getMsbD n = true) →
    let added := s.ac y + BitVec.ofNat 16 n
    let cleared := s.ac x &&& ~~~(0x8000#16 >>> n)
    exec (.lob x y) s = .next ((s.setAc y added).setPc (s.pc + 1))
    ∧ (x ≠ y → exec (.lrb x y) s = .next (((s.setAc y added).setAc x cleared).setPc (s.pc + 1)))
    ∧ exec (.lrb x x) s = .next ((s.setAc x cleared).setPc (s.pc + 1))
    ∧ exec (.cob x y) s =
        .next ((s.setAc y (s.ac y + BitVec.ofNat 16 ((List.range 16).countP fun k => (s.ac x).getMsbD k))).setPc
          (s.pc + 1))

/-- The register-only instructions always complete and write nothing but their destination accumulators, the program
counter, the carry where they may, and the free-value counter: no other register, no status, no byte of memory. -/
def Obligations.RegisterOnlyFrame : Prop :=
  ∀ (i : Instr) (ds : List Acc) (s : State), registerDests i = some ds →
    ∃ t, exec i s = .next t ∧ t = (s.cpuFrom t).setFree t.free ∧ (∀ a, a ∉ ds → t.ac a = s.ac a)
      ∧ (registerCarry i = false → t.carry = s.carry) ∧ (∀ n, Memory.byte t.mem n = Memory.byte s.mem n)

/-! ### Addresses (20_memory.md section 3) -/

/-- Direct operands of both classes: the four index modes as integers, clipped to 15 bits; nothing changes. An
indirect short operand through locations 20-27 octal increments the word there, through 30-37 decrements it; the
updated word gives the address; bit 0 before the update ends the chain; other words are not written. Chains of any length,
through any of these locations, end where `followAuto` says. -/
def Obligations.OperandAddresses : Prop :=
  (∀ (s : State) (m : ShortMem) (x : ExtMem),
    (m.ind = false → eaShort m s = .ok
      (match m.index with
        | .absolute => BitVec.ofNat 15 m.disp.toNat
        | .relative => BitVec.ofInt 15 (s.pc.toNat + m.disp.toInt)
        | .ac2 => BitVec.ofInt 15 (s.ac2.toNat + m.disp.toInt)
        | .ac3 => BitVec.ofInt 15 (s.ac3.toNat + m.disp.toInt)) s)
    ∧ (x.ind = false → eaExt x s = .ok
      (match x.index with
        | .absolute => x.disp
        | .relative => BitVec.ofInt 15 (s.pc.toNat + 1 + x.disp.toInt)
        | .ac2 => BitVec.ofInt 15 (s.ac2.toNat + x.disp.toInt)
        | .ac3 => BitVec.ofInt 15 (s.ac3.toNat + x.disp.toInt)) s))
  ∧ (∀ (s : State) (m : ShortMem), s.calm = true → s.map.enablePending = none → m.ind = true →
    isIndirect (s.look (s.shortBase m)) = false →
    let a := s.shortBase m
    let w := s.look a
    (16 ≤ a.toNat ∧ a.toNat ≤ 23 → eaShort m s = .ok ((w + 1).setWidth 15) (s.put a (w + 1)))
    ∧ (24 ≤ a.toNat ∧ a.toNat ≤ 31 → eaShort m s = .ok ((w - 1).setWidth 15) (s.put a (w - 1)))
    ∧ (a.toNat < 16 ∨ 31 < a.toNat → eaShort m s = .ok (w.setWidth 15) s))
  ∧ (∀ (s t : State) (m : ShortMem) (n : Nat) (e : Addr), s.calm = true → s.map.enablePending = none → m.ind = true →
    n ≤ 34359738368 → State.followAuto n s (s.shortBase m) = some (e, t) → eaShort m s = .ok e t)

/-- A chain of address words either ends within 32,768 levels or never (so the model's fuel cuts no chain short): in a
calm state an extended operand whose chain ends has the chain's end as its address, and an EJMP through a chain that
never ends never completes: the processor stays in it, no accumulator changed [how that is held in State is the model's
choice: log entry 8]. -/
def Obligations.ChainsEndOrNeverEnd : Prop :=
  (∀ (s : State) (a : Addr) (n : Nat), 32768 ≤ n → s.follow n a = s.follow 32768 a)
  ∧ ∀ (s : State) (x : ExtMem), s.calm = true → s.map.enablePending = none → x.ind = true →
    (∀ e, s.follow 32768 (s.extBase x) = some e → eaExt x s = .ok e s)
    ∧ (s.follow 32768 (s.extBase x) = none → ∃ t, exec (.ejmp x) s = .next t
      ∧ t.endless = .instruction ∧ ∀ n, t.ac n = s.ac n ∧ t.fpac n = s.fpac n)

/-- An address calculation in a calm state changes nothing but, for the short class, the words 20-37 octal. -/
def Obligations.AddressCalculationFrame : Prop :=
  ∀ (s t : State) (e : Addr), s.calm = true → s.map.enablePending = none → Memory.wf s.mem = true →
    (∀ x : ExtMem, eaExt x s = .ok e t → t = s)
    ∧ (∀ m : ShortMem, eaShort m s = .ok e t →
      t = s.setMem t.mem ∧ ∀ n, n < 32 ∨ 64 ≤ n → Memory.byte t.mem n = Memory.byte s.mem n)

/-- A stored word changes the two bytes of the one physical word its address goes to, in installed memory, and reads
back from there; to memory that is not installed it changes nothing [the model's reading of D3: log entry 24]. -/
def Obligations.StoredWordReadsBack : Prop :=
  ∀ (s : State) (a : Addr) (v : Word) (pa : Nat), Memory.wf s.mem = true → s.translate false true a = .ok pa →
    (pa < s.cfg.memWords → (s.put a v).content pa = v)
    ∧ (∀ qa, qa ≠ pa → (s.put a v).content qa = s.content qa)
    ∧ (∀ n, n ≠ 2 * pa → n ≠ 2 * pa + 1 → Memory.byte (s.put a v).mem n = Memory.byte s.mem n)
    ∧ (s.cfg.memWords ≤ pa → s.put a v = s)
    ∧ s.put a v = s.setMem (s.put a v).mem ∧ Memory.wf (s.put a v).mem = true

/-! ### Loads, stores and jumps -/

/-- LDA, ELDA, STA, ESTA, LEF, ELEF for every operand form: `u` is the state the address calculation leaves. With a MAP SINGLE
CYCLE pending the first reference of LDA or STA after its fetch goes through the user map, the operand or the first indirect
word, and the condition is over [log entry 37]. -/
def Obligations.LoadsAndStores : Prop :=
  (∀ (s u : State) (a : Acc) (e : Addr),
    (∀ m : ShortMem, eaShort m s = .ok e u → s.map.singlePending = false →
      (u.quiet = true → u.readable e = true →
        exec (.lda a m) s = .next ((u.setAc a (u.look e)).setPc (s.pc + 1)))
      ∧ (u.quiet = true → u.writable e = true → exec (.sta a m) s = .next ((u.put e (s.ac a)).setPc (s.pc + 1)))
      ∧ exec (.lef a m) s = .next ((u.setAc a (0#1 ++ e)).setPc (s.pc + 1)))
    ∧ (∀ x : ExtMem, eaExt x s = .ok e u →
      (u.quiet = true → u.readable e = true →
        exec (.elda a x) s = .next ((u.setAc a (u.look e)).setPc (s.pc + 2)))
      ∧ (u.quiet = true → u.writable e = true → exec (.esta a x) s = .next ((u.put e (s.ac a)).setPc (s.pc + 2)))
      ∧ exec (.elef a x) s = .next ((u.setAc a (0#1 ++ e)).setPc (s.pc + 2))))
  ∧ (∀ (s : State) (a : Acc) (m : ShortMem) (pa : Nat), s.calm = true → s.hasMap = true → s.map.singlePending = true →
    let ended (t : State) : State := (t.setPc (s.pc + 1)).setMap { s.map with singlePending := false }
    let user := s.setMap { s.map with userEn := true }
    let b := s.shortBase m
    let w := s.content pa
    let e : Addr := w.setWidth 15
    (m.ind = false → user.translate false false b = .ok pa → exec (.lda a m) s = .next (ended (s.setAc a w)))
    ∧ (m.ind = false → user.translate false true b = .ok pa → exec (.sta a m) s = .next (ended (s.physWrite pa (s.ac a))))
    ∧ (m.ind = true → s.map.enablePending = none → user.translate false false b = .ok pa → w.msb = false →
      b.toNat < 16 ∨ 31 < b.toNat →
      exec (.lda a m) s = .next (ended (s.setAc a (s.look e))) ∧ exec (.sta a m) s = .next (ended (s.put e (s.ac a)))))

/-- Where the storing instructions store: STA, ISZ, DSZ, ESTA, EISZ, EDSZ change, beyond the program counter, only the
two bytes at twice the physical address of the effective address; STB and ESTB only the one byte their pointer
selects. -/
def Obligations.StoreFrame : Prop :=
  ∀ (s u : State) (e : Addr) (pa : Nat) (i : Instr),
    (((∃ m, eaShort m s = .ok e u ∧ (i = .isz m ∨ i = .dsz m ∨ ∃ a, i = .sta a m)) ∧ s.map.singlePending = false)
      ∨ (∃ x, eaExt x s = .ok e u ∧ (i = .eisz x ∨ i = .edsz x ∨ ∃ a, i = .esta a x)) →
      u.quiet = true → u.readable e = true → u.translate false true e = .ok pa → Memory.wf u.mem = true →
      ∃ t, exec i s = .next t ∧ t = (u.setPc t.pc).setMem t.mem
        ∧ ∀ n, n ≠ 2 * pa → n ≠ 2 * pa + 1 → Memory.byte t.mem n = Memory.byte u.mem n)
    ∧ (∀ bp : Word, (∃ x y, i = .stb x y ∧ bp = s.ac x)
        ∨ (s.cfg.hasEap = true ∧ ∃ a ix d, i = .estb a ix d ∧ bp = s.extBytePtr ix d) →
      s.quiet = true → s.readable (bytePtrAddr bp) = true → s.translate false false (bytePtrAddr bp) = .ok pa →
      s.translate false true (bytePtrAddr bp) = .ok pa → Memory.wf s.mem = true →
      ∃ t, exec i s = .next t ∧ t = (s.setPc t.pc).setMem t.mem
        ∧ ∀ n, n ≠ 2 * pa + (bp.toNat % 2) → Memory.byte t.mem n = Memory.byte s.mem n)

/-- JMP, EJMP, JSR, EJSR: the address is computed before AC3 gets the address of the next instruction. ISZ, DSZ, EISZ,
EDSZ: the word at the address plus or minus 1 is stored back; if it is 0 the next word is skipped. -/
def Obligations.JumpsAndModifySkips : Prop :=
  (∀ (s u : State) (e : Addr),
    (∀ m : ShortMem, eaShort m s = .ok e u →
      exec (.jmp m) s = .next (u.setPc e) ∧ exec (.jsr m) s = .next ((u.setAc3 (0#1 ++ (s.pc + 1))).setPc e))
    ∧ (∀ x : ExtMem, eaExt x s = .ok e u →
      exec (.ejmp x) s = .next (u.setPc e) ∧ exec (.ejsr x) s = .next ((u.setAc3 (0#1 ++ (s.pc + 2))).setPc e)))
  ∧ (∀ (s u : State) (e : Addr), u.quiet = true → u.readable e = true → u.writable e = true →
    let up := u.look e + 1
    let down := u.look e - 1
    (∀ m : ShortMem, eaShort m s = .ok e u →
      exec (.isz m) s = .next ((u.put e up).setPc (s.pc + if up = 0 then 2 else 1))
      ∧ exec (.dsz m) s = .next ((u.put e down).setPc (s.pc + if down = 0 then 2 else 1)))
    ∧ (∀ x : ExtMem, eaExt x s = .ok e u →
      exec (.eisz x) s = .next ((u.put e up).setPc (s.pc + if up = 0 then 3 else 2))
      ∧ exec (.edsz x) s = .next ((u.put e down).setPc (s.pc + if down = 0 then 3 else 2))))

/-- SGT and SGE on signed numbers; CLM in both forms: limits at the address in ACD, or in the two words after the
instruction when ACS is ACD. Nothing changes but the program counter. DSPA: the next instruction when the number is outside
the limits or its table entry is 177777 octal; otherwise the jump through the entry, which may be indirect. -/
def Obligations.CompareAndSkip : Prop :=
  (∀ (x y : Acc) (s : State),
    let within (l h : Word) : Bool :=
      decide (l.toInt ≤ (s.ac x).toInt) && decide ((s.ac x).toInt ≤ h.toInt)
    let a : Addr := (s.ac y).setWidth 15
    exec (.sgt x y) s = .next (s.setPc (s.pc + if (s.ac x).toInt > (s.ac y).toInt then 2 else 1))
    ∧ exec (.sge x y) s = .next (s.setPc (s.pc + if (s.ac x).toInt ≥ (s.ac y).toInt then 2 else 1))
    ∧ (x ≠ y → s.quiet = true → s.readable a = true → s.readable (a + 1) = true →
      exec (.clm x y) s = .next (s.setPc (s.pc + if within (s.look a) (s.look (a + 1)) then 2 else 1)))
    ∧ (s.quiet = true → s.readable (s.pc + 1) = true → s.readable (s.pc + 2) = true →
      exec (.clm x x) s = .next (s.setPc (s.pc + if within (s.look (s.pc + 1)) (s.look (s.pc + 2)) then 4 else 3))))
  ∧ (∀ (s u : State) (a : Acc) (x : ExtMem) (e : Addr), eaExt x s = .ok e u → u.quiet = true →
    u.readable (e - 2) = true → u.readable (e - 1) = true →
    let n := (s.ac a).toInt
    let l := (u.look (e - 2)).toInt
    let h := (u.look (e - 1)).toInt
    let entry : Addr := e + BitVec.ofInt 15 (n - l)
    (n < l ∨ h < n → exec (.dspa a x) s = .next (u.setPc (s.pc + 2)))
    ∧ (l ≤ n → n ≤ h → u.readable entry = true →
      (u.look entry = 0o177777 → exec (.dspa a x) s = .next (u.setPc (s.pc + 2)))
      ∧ (isIndirect (u.look entry) = false → exec (.dspa a x) s = .next (u.setPc ((u.look entry).setWidth 15)))
      ∧ (∀ j, u.calm = true → u.map.enablePending = none → isIndirect (u.look entry) = true →
        u.look entry ≠ 0o177777 → u.follow 32768 ((u.look entry).setWidth 15) = some j →
        exec (.dspa a x) s = .next (u.setPc j))))

/-- XCT runs the instruction in the accumulator as if it stood at the XCT; a two-word instruction takes the word after
the XCT; XCT of itself never ends [the state for it is the model's: log entry 9]; an interrupt to honour comes before the
execution: XCT is suspended with the program counter on it. -/
def Obligations.ExecuteAccumulator : Prop :=
  ∀ (a : Acc) (s : State),
    (s.canSuspend = false →
      (∀ i, decode s.decodeCtx (s.ac a) 0 = .ok i → s.needsSecond (s.ac a) = false → (∀ b, i ≠ .xct b) →
        exec (.xct a) s = exec i s)
      ∧ (∀ i, s.quiet = true → s.readable (s.pc + 1) = true → s.needsSecond (s.ac a) = true →
        decode s.decodeCtx (s.ac a) (s.look (s.pc + 1)) = .ok i → exec (.xct a) s = exec i s)
      ∧ (s.ac a = encode1 (.xct a) → exec (.xct a) s = .next (s.setEndless .execute))
      ∧ (∀ n b, s.ac a = encode1 (.adi n b) →
        exec (.xct a) s = .next ((s.setAc b (BitVec.ofNat 16 ((s.ac b).toNat + n.toNat + 1))).setPc (s.pc + 1))))
    ∧ (s.canSuspend = true → exec (.xct a) s = .next (s.setIonDelay .idle))

/-- SYC: out of user mode with interrupts held (with a map enabled), a return block for the word after it unless both
accumulators are AC0, then the jump indirect through location 2, checked for stack overflow. No auto-index location in the
chain of that jump is updated, the model's choice [log entry 10]. -/
def Obligations.SystemCall : Prop :=
  ∀ (x y : Acc) (s : State) (e : Addr), s.quiet = true →
    let u := s.systemEntered
    let t := u.pushedBlock (s.pc + 1)
    (u.follow 32768 2 = some e → exec (.syc .a0 .a0) s = .next (u.setPc e))
    ∧ (¬(x = .a0 ∧ y = .a0) → t.follow 32768 2 = some e → t.overflowed = false →
      exec (.syc x y) s = .next (t.setPc e))

/-! ### Instructions that never end, and RESET (70_reset_and_hazards.md R601) -/

/-- An endless instruction and RESET. In an endless address chain the machine serves the data channel and nothing else [log
entry 8]; an EXECUTE of itself is left by an interrupt, with the program counter on it [log entry 9]; STOP ends neither,
RESET ends both, and so does a RESET inside any instruction: the processor is stopped, interrupts and the mask are clear,
supervisor mode is on, the pending data channel requests stay [the spec is silent, the model's choice: log entry 49], and
each accumulator and each word of memory holds what it held at some moment of the instruction [how the subset of writes is
told, the model's choice: log entry 45]. -/
def Obligations.EndlessAndReset : Prop :=
  (∀ s : State, s.undisturbed = true →
    (s.endless = .instruction → step s = .next (serveChannel s))
    ∧ (s.endless = .execute → s.canSuspend = false → step s = .next (serveChannel s))
    ∧ (s.endless = .execute → s.canSuspend = true →
      step s = endStep (.next ((s.setEndless .none).setIonDelay .idle))))
  ∧ (∀ s : State, s.console.powered = true → s.console.suspended = false → s.console.power = .on → s.endless ≠ .none →
    let t := applyInput s (.console .reset)
    applyInput s (.console .stop) = s.setConsole { s.console with stopPending := true }
    ∧ t.endless = .none ∧ t.run = false ∧ t.ion = false ∧ t.mask = 0 ∧ t.map.userEn = false ∧ t.mem = s.mem
    ∧ ∀ n, t.ac n = s.ac n ∧ t.fpac n = s.fpac n)
  ∧ (∀ s t : State, s.console.powered = true → s.console.suspended = false → s.console.resetInside = true →
    s.endless = .none → s.inputs = [] → step s = .next t → t.console.suspended = false →
    let u := (s.setConsole { s.console with resetInside := false }).setDchQueue []
    let moment (k : Nat) : State := nextOr u (wholeStep exec (u.setCut (some k)))
    t.run = false ∧ t.ion = false ∧ t.mask = 0 ∧ t.map.userEn = false ∧ t.dchQueue = s.dchQueue ∧ t.cut = none
    ∧ (∀ n, ∃ k, t.ac n = (moment k).ac n) ∧ (∀ n, ∃ k, t.fpac n = (moment k).fpac n) ∧ (∃ k, t.carry = (moment k).carry)
    ∧ (s.inv = true → ∀ pa, pa < s.cfg.memWords → ∃ k, Memory.word t.mem pa = Memory.word (moment k).mem pa))

/-! ### The stack and returns (43_stack.md, 44_program_flow.md section 5) -/

/-- PSH, POP, PSHR, MSP and SAVE when no stack fault arises. -/
def Obligations.StackInstructions : Prop :=
  ∀ (x y : Acc) (n : Word) (s : State), s.calm = true →
    let t := s.pushedAll ((accsUp x y).map s.ac)
    let p := s.poppedInto (accsDown x y)
    let r := s.pushed (0#1 ++ (s.pc + 2))
    let sp := s.look 0o40
    let limit := s.look 0o42
    (t.overflowed = false → exec (.psh x y) s = .next (t.setPc (s.pc + 1)))
    ∧ (p.underflowed = false → exec (.pop x y) s = .next (p.setPc (s.pc + 1)))
    ∧ (r.overflowed = false → exec .pshr s = .next (r.setPc (s.pc + 1)))
    ∧ ((sp + s.ac x).toNat ≤ limit.toNat →
      exec (.msp x) s = .next ((s.put 0o40 (sp + s.ac x)).setPc (s.pc + 1)))
    ∧ ((sp + 5 + n).toNat ≤ limit.toNat →
      let b := s.pushedAll [s.ac0, s.ac1, s.ac2]
      let f := (b.pushed (b.look 0o41)).pushed (bitOf s.carry ++ (s.ac3.setWidth 15 : Addr))
      let fp := f.look 0o40
      exec (.save n) s = .next ((((f.put 0o41 fp).setAc3 fp).put 0o40 (fp + n)).setPc (s.pc + 2)))

/-- Stack faults: overflow after PSH and PSHR with the next instruction's address in the block; MSP and SAVE before
they act with their own; underflow after POP with the stack pointer first set to the limit. No auto-index location in the
chain of the jump through location 43 octal is updated (R77, R234), where R571 says that they act as usual: the model's
choice [log entry 10]. -/
def Obligations.StackFaults : Prop :=
  ∀ (x y : Acc) (n : Word) (e : Addr) (s : State), s.calm = true →
    let t := s.pushedAll ((accsUp x y).map s.ac)
    let p := s.poppedInto (accsDown x y)
    let q := p.put 0o40 (p.look 0o42)
    let r := s.pushed (0#1 ++ (s.pc + 2))
    let sp := s.look 0o40
    let limit := s.look 0o42
    let ends (v : State) (pc : Addr) : Prop := (v.stackFaulted pc).follow 32768 0o43 = some e
    (t.overflowed = true → ends t (s.pc + 1) → exec (.psh x y) s = .next (t.inStackFault (s.pc + 1) e))
    ∧ (p.underflowed = true → ends q (s.pc + 1) → exec (.pop x y) s = .next (q.inStackFault (s.pc + 1) e))
    ∧ (r.overflowed = true → ends r (s.pc + 1) → exec .pshr s = .next (r.inStackFault (s.pc + 1) e))
    ∧ (limit.toNat < (sp + s.ac x).toNat → ends s s.pc → exec (.msp x) s = .next (s.inStackFault s.pc e))
    ∧ (limit.toNat < (sp + 5 + n).toNat → ends s s.pc → exec (.save n) s = .next (s.inStackFault s.pc e))

/-- What a stack fault leaves where the stack words and the block do not overlap reserved locations: the block's five
words above the old stack pointer, the pointer five higher with bit 0 clear, the limit with bit 0 set, the registers
unchanged. A return block popped gives back what was pushed. -/
def Obligations.ReturnBlocks : Prop :=
  (∀ (s : State) (pc : Addr), s.calm = true → s.hasMap = false → 48 ≤ s.cfg.memWords →
    Memory.wf s.mem = true → 35 ≤ (s.look 0o40).toNat → (s.look 0o40).toNat + 5 < 32768 →
    (s.look 0o40).toNat + 5 < s.cfg.memWords →
    let sp := s.look 0o40
    let a : Addr := sp.setWidth 15
    let t := s.stackFaulted pc
    t.look (a + 1) = s.ac0 ∧ t.look (a + 2) = s.ac1 ∧ t.look (a + 3) = s.ac2 ∧ t.look (a + 4) = s.ac3
    ∧ t.look (a + 5) = bitOf s.carry ++ pc ∧ t.look 0o40 = sp + 5 ∧ t.look 0o42 = s.look 0o42 ||| 0x8000
    ∧ t = s.setMem t.mem)
  ∧ (∀ (s : State) (pc : Addr), s.calm = true → s.hasMap = false → 48 ≤ s.cfg.memWords → Memory.wf s.mem = true →
    35 ≤ (s.look 0o40).toNat → (s.look 0o40).toNat + 5 < 32768 → (s.look 0o40).toNat + 5 < s.cfg.memWords →
    let t := ((s.pushedBlock pc).setCarry (!s.carry)).poppedBlock
    t.ac0 = s.ac0 ∧ t.ac1 = s.ac1 ∧ t.ac2 = s.ac2 ∧ t.ac3 = s.ac3 ∧ t.carry = s.carry ∧ t.pc = pc
    ∧ t.look 0o40 = s.look 0o40)

/-- PSHJ, POPJ, POPB, RTN and RSTR without a stack fault; a pending user map is switched on at the end of the four
returns. The order of the nine words RSTR takes is presumed, the model's choice [G2, log entry 35]. -/
def Obligations.CallsAndReturns : Prop :=
  ∀ (s : State), s.calm = true →
    (∀ (x : ExtMem) (e : Addr) (u : State), eaExt x (s.pushed (0#1 ++ (s.pc + 2))) = .ok e u → u.calm = true →
      u.overflowed = false → exec (.pshj x) s = .next (u.setPc e))
    ∧ (s.popped.underflowed = false → exec .popj s = .next (s.popped.setPc (s.top.setWidth 15)).returned)
    ∧ (s.poppedBlock.underflowed = false → exec .popb s = .next s.poppedBlock.returned)
    ∧ (let t := (s.put 0o40 (s.look 0o41)).poppedBlock
      let u := t.put 0o41 t.ac3
      u.underflowed = false → exec .rtn s = .next u.returned)
    ∧ (let sp := s.look 0o40
      let at' (k : Word) : Addr := (sp - k).setWidth 15
      let w := s.look (at' 0)
      let t := ((((((s.setCarry w.msb).setPc (w.setWidth 15)).setAc3 (s.look (at' 1))).setAc2 (s.look (at' 2))).setAc1
        (s.look (at' 3))).setAc0 (s.look (at' 4)))
      let t1 := t.put 0o43 (t.look (at' 5))
      let t2 := t1.put 0o42 (t1.look (at' 6))
      let t3 := t2.put 0o41 (t2.look (at' 7))
      exec .rstr s = .next (t3.put 0o40 (t3.look (at' 8))).returned)

/-! ### Bytes, bits, blocks (42_byte_bit.md) -/

/-- LDB, STB, ELDB, ESTB: the pointer's low bit selects the byte, the other byte of the word is kept; the extended
pointer is twice the index value plus the displacement. BTO, BTZ, SZB, SNB, SZBO on the bit of a 32-bit bit pointer,
the high-order word 0 when ACS is ACD, indirect with a 1 in its bit 0. -/
def Obligations.ByteAndBitInstructions : Prop :=
  (∀ (s : State) (x y : Acc) (ix : Index) (d : Word), s.quiet = true →
    let bp := s.ac x
    let base : Nat :=
      match ix with
      | .absolute => 0
      | .relative => (s.pc + 1).toNat
      | .ac2 => s.ac2.toNat
      | .ac3 => s.ac3.toNat
    let xp : Word := BitVec.ofNat 16 (2 * base + d.toNat)
    let wordAt (p : Word) : Word := s.look (BitVec.ofNat 15 (p.toNat / 2))
    let byteAt (p : Word) : Byte :=
      if p.toNat % 2 = 0 then (wordAt p).extractLsb' 8 8 else (wordAt p).extractLsb' 0 8
    let stored (p : Word) (b : Byte) : State :=
      s.put (BitVec.ofNat 15 (p.toNat / 2))
        (if p.toNat % 2 = 0 then b ++ (wordAt p).extractLsb' 0 8 else (wordAt p).extractLsb' 8 8 ++ b)
    let mayRead (p : Word) : Prop := s.readable (BitVec.ofNat 15 (p.toNat / 2)) = true
    let mayWrite (p : Word) : Prop := s.writable (BitVec.ofNat 15 (p.toNat / 2)) = true
    (mayRead bp → exec (.ldb x y) s = .next ((s.setAc y ((byteAt bp).setWidth 16)).setPc (s.pc + 1)))
    ∧ (mayRead bp → mayWrite bp →
      exec (.stb x y) s = .next ((stored bp ((s.ac y).setWidth 8)).setPc (s.pc + 1)))
    ∧ (s.cfg.hasEap = true → mayRead xp →
      exec (.eldb y ix d) s = .next ((s.setAc y ((byteAt xp).setWidth 16)).setPc (s.pc + 2)))
    ∧ (s.cfg.hasEap = true → mayRead xp → mayWrite xp →
      exec (.estb y ix d) s = .next ((stored xp ((s.ac y).setWidth 8)).setPc (s.pc + 2))))
  ∧ (∀ (s : State) (x y : Acc) (base : Addr), s.quiet = true →
    let hi : Word := if x = y then 0 else s.ac x
    let lo := (s.ac y).toNat
    let a : Addr := base + BitVec.ofNat 15 (lo / 16)
    let b := lo % 16
    let mask : Word := 0x8000#16 >>> b
    let v := s.look a
    (hi.msb = false ∧ base = hi.setWidth 15
      ∨ hi.msb = true ∧ s.calm = true ∧ s.map.enablePending = none ∧ s.follow 32768 (hi.setWidth 15) = some base) →
    s.readable a = true →
    (s.writable a = true →
      exec (.bto x y) s = .next ((s.put a (v ||| mask)).setPc (s.pc + 1))
      ∧ exec (.btz x y) s = .next ((s.put a (v &&& ~~~mask)).setPc (s.pc + 1))
      ∧ exec (.szbo x y) s = .next ((s.put a (v ||| mask)).setPc (s.pc + if v.getMsbD b then 1 else 2)))
    ∧ exec (.szb x y) s = .next (s.setPc (s.pc + if v.getMsbD b then 1 else 2))
    ∧ exec (.snb x y) s = .next (s.setPc (s.pc + if v.getMsbD b then 2 else 1)))

/-- BAM and BLM: a count of 0 or above 100000 octal moves nothing; otherwise indirect addresses are resolved into AC2
and AC3 first, then the words are moved one by one in ascending order. With an interrupt to honour and more to move
they are suspended after the first word: the program counter stays, the accumulators continue from there [log entry
40: a point after every word]. -/
def Obligations.BlockMoveInstructions : Prop :=
  (∀ (s : State), s.calm = true → s.map.enablePending = none → s.canSuspend = false →
    ((s.ac1 = 0 ∨ 32768 < s.ac1.toNat) →
      exec .bam s = .next (s.setPc (s.pc + 1)) ∧ exec .blm s = .next (s.setPc (s.pc + 1)))
    ∧ (∀ p q : Addr, 0 < s.ac1.toNat → s.ac1.toNat ≤ 32768 →
      (if s.ac2.msb then s.follow 32768 (s.ac2.setWidth 15) = some p else s.ac2 = 0#1 ++ p) →
      (if s.ac3.msb then s.follow 32768 (s.ac3.setWidth 15) = some q else s.ac3 = 0#1 ++ q) →
      let t := (s.setAc2 (0#1 ++ p)).setAc3 (0#1 ++ q)
      exec .bam s = .next (((State.movedWord fun v => v + s.ac0)^[s.ac1.toNat] t).setPc (s.pc + 1))
      ∧ exec .blm s = .next (((State.movedWord fun v => v)^[s.ac1.toNat] t).setPc (s.pc + 1))))
  ∧ (∀ (s : State), s.calm = true → s.canSuspend = true → s.ac2.msb = false → s.ac3.msb = false →
    1 < s.ac1.toNat → s.ac1.toNat ≤ 32768 →
    exec .bam s = .next ((State.movedWord (fun v => v + s.ac0) s).setIonDelay .idle)
    ∧ exec .blm s = .next ((State.movedWord (fun v => v) s).setIonDelay .idle))

/-! ### Extended operations (45_xop_wcs.md) -/

/-- XOP, and XOP1 on a machine without the writeable control store: the return block, AC2 and AC3 the addresses of the
pushed source and destination accumulators, the jump through the table. With the store XOP1 does what the given entry effect
says and is refused where none is given: refusing there, of the two ways U5 allows, is the model's choice [log entry 14]. -/
def Obligations.ExtendedOperations : Prop :=
  ∀ (s : State) (x y : Acc) (op : BitVec 5) (entry : BitVec 4) (e : Addr), s.calm = true →
    let b := s.pushedBlock (s.pc + 1)
    let sp := b.look 0o40
    let t := (b.setAc2 (sp - 4 + BitVec.ofNat 16 (accNat x))).setAc3 (sp - 4 + BitVec.ofNat 16 (accNat y))
    let word (k : Nat) : Word := t.look ((t.look 0o44).setWidth 15 + BitVec.ofNat 15 k)
    let goes (k : Nat) : Prop :=
      if (word k).msb then t.map.enablePending = none ∧ t.follow 32768 ((word k).setWidth 15) = some e
      else (word k).setWidth 15 = e
    (t.overflowed = false → (goes op.toNat → exec (.xop x y op) s = .next (t.setPc e))
      ∧ (s.cfg.hasWcs = false → goes (entry.toNat + 32) → exec (.xop1 x y entry) s = .next (t.setPc e)))
    ∧ (s.cfg.hasWcs = true → s.cfg.wcsEffects = false → exec (.xop1 x y entry) s = .refused (.wcsMicroprogram entry))
    ∧ (s.cfg.hasWcs = true → s.cfg.wcsEffects = true → exec (.xop1 x y entry) s =
      match wcsEntryEffect entry x y s with
      | some u => .next (s.given u)
      | none => .refused (.wcsMicroprogram entry))

/-! ### Floating point (47_floating_point.md) -/

/-- The status register after a result (R351 to R353, R357): the result goes to the accumulator, the error bits are
sticky, ANY is their OR, TE and the reserved bits 8-16 stay [U20, the model's choice: log entry 38], Z and N describe the
result, FPPC is the instruction's address; nothing else changes. `fixAny` recomputes bit 0 only [the model's choice: log
entry 36]. -/
def Obligations.FloatResultStatus : Prop :=
  (∀ (s : State) (f : Acc) (r : FloatResult),
    let t := s.floatResult f r
    let old (i : Nat) : Bool := s.fpsr.getMsbD i
    let new (i : Nat) : Bool := t.fpsr.getMsbD i
    t = (s.setFpac f r.value).setFpsr t.fpsr
    ∧ new 1 = (old 1 || r.ovf) ∧ new 2 = (old 2 || r.unf) ∧ new 3 = old 3 ∧ new 4 = (old 4 || r.mof)
    ∧ new 0 = (new 1 || new 2 || new 3 || new 4) ∧ new 5 = old 5
    ∧ new 6 = decide (fpMan r.value = 0) ∧ new 7 = (r.value.msb && decide (fpMan r.value ≠ 0))
    ∧ (∀ i, 8 ≤ i → i ≤ 16 → new i = old i) ∧ t.fpsr.setWidth 15 = s.pc)
  ∧ ∀ r : BitVec 32,
    (fixAny r).getMsbD 0 = (r.getMsbD 1 || r.getMsbD 2 || r.getMsbD 3 || r.getMsbD 4)
    ∧ ∀ i, 1 ≤ i → (fixAny r).getMsbD i = r.getMsbD i

/-- FLDS, FLDD, FSTS, FSTD, FMOV, FLST, FSST. FLST and FSST move bits 8-16 as they are [log entry 38] and recompute ANY [log
entry 36]: the model's choices. -/
def Obligations.FloatLoadsAndStores : Prop :=
  ∀ (s u : State) (f g : Acc) (x : ExtMem) (e : Addr), s.fpReady = true →
    exec (.fmov g f) s = .next ((s.floatResult f (.clean (s.fpac g))).setPc (s.pc + 1))
    ∧ (eaExt x s = .ok e u → u.quiet = true →
      let w (k : Addr) : Word := u.look (e + k)
      let v := s.fpac f
      (u.readableWords e 2 = true →
        exec (.flds f x) s = .next ((u.floatResult f (.clean (w 0 ++ w 1 ++ 0#32))).setPc (s.pc + 2))
        ∧ exec (.flst x) s = .next ((u.setFpsr (fixAny (w 0 ++ w 1))).setPc (s.pc + 2)))
      ∧ (u.readableWords e 4 = true →
        exec (.fldd f x) s = .next ((u.floatResult f (.clean (w 0 ++ w 1 ++ w 2 ++ w 3))).setPc (s.pc + 2)))
      ∧ (u.writableWords e 2 = true →
        let t := (u.put e (v.extractLsb' 48 16)).put (e + 1) (v.extractLsb' 32 16)
        let p := (u.put e ((fixAny s.fpsr).extractLsb' 16 16)).put (e + 1) (s.fpsr.extractLsb' 0 16)
        exec (.fsts f x) s = .next ((t.setFpsr (s.fpsr.extractLsb' 15 17 ++ s.pc)).setPc (s.pc + 2))
        ∧ exec (.fsst x) s = .next (p.setPc (s.pc + 2)))
      ∧ (u.writableWords e 4 = true →
        let t := (((u.put e (v.extractLsb' 48 16)).put (e + 1) (v.extractLsb' 32 16)).put (e + 2)
          (v.extractLsb' 16 16)).put (e + 3) (v.extractLsb' 0 16)
        exec (.fstd f x) s = .next ((t.setFpsr (s.fpsr.extractLsb' 15 17 ++ s.pc)).setPc (s.pc + 2))))

/-- The four operations in both precisions, from registers and from memory (single precision extended with 32 zeroes),
and FCMP, which compares values; division by zero sets DVZ and leaves the accumulator. -/
def Obligations.FloatArithmetic : Prop :=
  (∀ (s : State) (x y : Acc), s.fpReady = true →
    let a := s.fpac y
    let b := s.fpac x
    let done (r : FloatResult) : State := (s.floatResult y r).setPc (s.pc + 1)
    let divided (single : Bool) : State :=
      if fpMan b = 0 then (s.setFpsr (setFppc (fixAny (setFpsrBit s.fpsr 3 true)) s.pc)).setPc (s.pc + 1)
      else done (floatDiv a b single)
    let va : Int := if a.msb then -(fpMagnitude a : Int) else fpMagnitude a
    let vb : Int := if b.msb then -(fpMagnitude b : Int) else fpMagnitude b
    exec (.fas x y) s = .next (done (floatAdd a b true)) ∧ exec (.fad x y) s = .next (done (floatAdd a b false))
    ∧ exec (.fss x y) s = .next (done (floatAdd a (bitOf (!b.msb) ++ (b.setWidth 63 : BitVec 63)) true))
    ∧ exec (.fsd x y) s = .next (done (floatAdd a (bitOf (!b.msb) ++ (b.setWidth 63 : BitVec 63)) false))
    ∧ exec (.fms x y) s = .next (done (floatMul a b true)) ∧ exec (.fmd x y) s = .next (done (floatMul a b false))
    ∧ exec (.fds x y) s = .next (divided true) ∧ exec (.fdd x y) s = .next (divided false)
    ∧ exec (.fcmp x y) s =
      .next ((s.setFpsr (setFppc (setZN s.fpsr (decide (va = vb)) (decide (va < vb))) s.pc)).setPc (s.pc + 1)))
  ∧ (∀ (s u : State) (y : Acc) (x : ExtMem) (e : Addr), s.fpReady = true → eaExt x s = .ok e u → u.quiet = true →
    let a := s.fpac y
    let w (k : Addr) : Word := u.look (e + k)
    let b1 : Quad := w 0 ++ w 1 ++ 0#32
    let b2 : Quad := w 0 ++ w 1 ++ w 2 ++ w 3
    let done (r : FloatResult) : State := (u.floatResult y r).setPc (s.pc + 2)
    let divided (b : Quad) (single : Bool) : State :=
      if fpMan b = 0 then (u.setFpsr (setFppc (fixAny (setFpsrBit s.fpsr 3 true)) s.pc)).setPc (s.pc + 2)
      else done (floatDiv a b single)
    (u.readableWords e 2 = true →
      exec (.fams y x) s = .next (done (floatAdd a b1 true)) ∧ exec (.fsms y x) s = .next (done (floatSub a b1 true))
      ∧ exec (.fmms y x) s = .next (done (floatMul a b1 true)) ∧ exec (.fdms y x) s = .next (divided b1 true))
    ∧ (u.readableWords e 4 = true →
      exec (.famd y x) s = .next (done (floatAdd a b2 false)) ∧ exec (.fsmd y x) s = .next (done (floatSub a b2 false))
      ∧ exec (.fmmd y x) s = .next (done (floatMul a b2 false)) ∧ exec (.fdmd y x) s = .next (divided b2 false)))

/-- The arithmetic procedures by value: a double precision product or quotient without overflow or underflow is the
exact one cut to the 56 bits of the mantissa, with the sign of algebra; a difference of numbers with equal exponents
is exact unless it underflows; addition does not depend on the order of the operands. With unequal exponents the mantissa of
the smaller is cut to the digits that stay after alignment, and the sum of the two is the result, exact unless the mantissas
overflow, then cut to the mantissa; 14 digits apart the larger is the result. A single precision result is the double
precision one with its low-order 32 bits 0, the source of a multiplication cut before. -/
def Obligations.FloatArithmeticByValue : Prop :=
  ∀ a b : Quad,
    (fpMan a * fpMan b ≠ 0 →
      let r := floatMul a b false
      r.ovf = false → r.unf = false →
      r.value.msb = (a.msb ^^ b.msb)
      ∧ fpMagnitude r.value * 16 ^ 78 ≤ fpMagnitude a * fpMagnitude b
      ∧ fpMagnitude a * fpMagnitude b < (fpMan r.value + 1) * 16 ^ fpExp r.value * 16 ^ 78)
    ∧ (fpNormalized a = true → fpNormalized b = true →
      let r := floatDiv a b false
      r.ovf = false → r.unf = false →
      r.value.msb = (a.msb ^^ b.msb)
      ∧ fpMagnitude r.value * fpMagnitude b ≤ fpMagnitude a * 16 ^ 78
      ∧ fpMagnitude a * 16 ^ 78 < (fpMan r.value + 1) * 16 ^ fpExp r.value * fpMagnitude b)
    ∧ (fpExp a = fpExp b → a.msb ≠ b.msb → (floatAdd a b false).unf = false →
      fpScaled (floatAdd a b false).value = fpScaled a + fpScaled b)
    ∧ floatAdd a b false = floatAdd b a false
    ∧ (fpExp b ≤ fpExp a → fpExp a < fpExp b + 14 →
      let small : Nat := fpMan b / 16 ^ (fpExp a - fpExp b)
      let sum : Int := (if a.msb then -(fpMan a : Int) else fpMan a) + (if b.msb then -(small : Int) else small)
      let r := floatAdd a b false
      r.ovf = false → r.unf = false →
      (sum.natAbs < 2 ^ 56 → fpScaled r.value = sum * 16 ^ fpExp a)
      ∧ (sum ≠ 0 → r.value.msb = decide (sum < 0))
      ∧ fpMagnitude r.value ≤ sum.natAbs * 16 ^ fpExp a
      ∧ sum.natAbs * 16 ^ fpExp a < (fpMan r.value + 1) * 16 ^ fpExp r.value)
    ∧ (fpExp b + 14 ≤ fpExp a → floatAdd a b false = .clean a)
    ∧ (let cut (r : FloatResult) : FloatResult := { r with value := r.value &&& 0xFFFFFFFF00000000 }
      floatAdd a b true = cut (floatAdd a b false)
      ∧ floatMul a b true = cut (floatMul a (b &&& 0xFFFFFFFF00000000) false)
      ∧ (fpNormalized a = true → fpNormalized b = true → floatDiv a b true = cut (floatDiv a b false)))

/-- The four operations on normalized numbers or true zero give normalized numbers or true zero, in both precisions; a
number minus itself is true zero. -/
def Obligations.FloatResultsNormalized : Prop :=
  ∀ (a b : Quad) (single : Bool), (fpNormalized a = true ∨ a = 0) → (fpNormalized b = true ∨ b = 0) →
    let good (r : FloatResult) : Prop := fpNormalized r.value = true ∨ r.value = 0
    good (floatAdd a b single) ∧ good (floatSub a b single) ∧ good (floatMul a b single)
    ∧ (b ≠ 0 → good (floatDiv a b single)) ∧ (floatSub a a single).value = 0

/-- FLAS, FLMD, FFAS, FFMD: integers in become normalized numbers; numbers out become the sign bit and the low-order
bits of the two's complement integer part, zero for an integer part of 0, MOF when it does not fit, Z and N zero. -/
def Obligations.FloatConversions : Prop :=
  ∀ (s u : State) (a f : Acc) (x : ExtMem) (e : Addr), s.fpReady = true →
    let v := s.fpac f
    let k := fpIntegerPart v
    let i : Int := if v.msb then -(k : Int) else k
    let status (big : Bool) : BitVec 32 :=
      setFppc (setZN (fixAny (if big then setFpsrBit s.fpsr 4 true else s.fpsr)) false false) s.pc
    exec (.flas a f) s = .next ((s.floatResult f (floatOfInt (s.ac a).toInt true)).setPc (s.pc + 1))
    ∧ exec (.ffas a f) s =
      .next (((s.setAc a (if k = 0 then 0 else bitOf v.msb ++ BitVec.ofInt 15 i)).setFpsr
        (status (decide (32767 < k)))).setPc (s.pc + 1))
    ∧ (eaExt x s = .ok e u → u.quiet = true →
      (u.readableWords e 2 = true →
        exec (.flmd f x) s =
          .next ((u.floatResult f (floatOfInt (u.look e ++ u.look (e + 1)).toInt false)).setPc (s.pc + 2)))
      ∧ (u.writableWords e 2 = true →
        let r : BitVec 32 := if k = 0 then 0 else bitOf v.msb ++ BitVec.ofInt 31 i
        exec (.ffmd f x) s =
          .next ((((u.put e (r.extractLsb' 16 16)).put (e + 1) (r.extractLsb' 0 16)).setFpsr
            (status (decide (2147483647 < k)))).setPc (s.pc + 2))))

/-- Integers below 2^56 convert to double precision exactly and back; those below 2^24 to single precision too. -/
def Obligations.IntegersConvertExactly : Prop :=
  ∀ (n : Int) (single : Bool), n.natAbs < (if single then 2 ^ 24 else 2 ^ 56) →
    let r := floatOfInt n single
    fpScaled r.value = n * 16 ^ 78 ∧ fpToInt r.value = n ∧ r.ovf = false ∧ r.unf = false ∧ r.mof = false

/-- FNOM, FRH, FAB, FNEG, FSCAL, FEXP, FHLV, and FINT where the commercial set is. FSCAL sets MOF on every shift to the left:
the resolution of C17, the model's choice [log entry 39]. -/
def Obligations.FloatSingleOperand : Prop :=
  ∀ (s : State) (f : Acc), s.fpReady = true →
    let v := s.fpac f
    let done (r : FloatResult) : State := (s.floatResult f r).setPc (s.pc + 1)
    let rest : BitVec 63 := v.setWidth 63
    let t : Nat := (s.ac0.toNat / 256) % 128
    let scaled : Nat := if fpExp v ≤ t then fpMan v / 16 ^ (t - fpExp v) else fpMan v * 16 ^ (fpExp v - t) % 2 ^ 56
    exec (.fnom f) s = .next (done (finishNormalized v.msb (fpExp v) (fpMan v) false))
    ∧ exec (.frh f) s =
      .next (((s.setAc0 (v.extractLsb' 48 16)).setFpsr (s.fpsr.extractLsb' 15 17 ++ s.pc)).setPc (s.pc + 1))
    ∧ exec (.fab f) s = .next (done (.clean (0#1 ++ rest)))
    ∧ exec (.fneg f) s = .next (done (.clean (if v = 0 then 0 else bitOf (!v.msb) ++ rest)))
    ∧ (t = fpExp v → exec (.fscal f) s = .next (done (.clean v)))
    ∧ (t ≠ fpExp v → exec (.fscal f) s =
      .next (done (FloatResult.mk (if scaled = 0 then 0 else fpPack v.msb t scaled) false false
        (decide (t < fpExp v)))))
    ∧ exec (.fexp f) s =
      .next (done (.clean (if v = 0 then 0 else bitOf v.msb ++ BitVec.ofNat 7 t ++ v.setWidth 56)))
    ∧ exec (.fhlv f) s = .next (done (finishNormalized v.msb (fpExp v) (fpMan v / 2) false))
    ∧ (s.cfg.hasEap = true →
      exec (.fint f) s = .next (done (finishNormalized v.msb (fpExp v)
        (if fpExp v ≤ 64 then 0 else fpMan v / 16 ^ (78 - fpExp v) * 16 ^ (78 - fpExp v)) false)))

/-- FTE, FTD and FCLE; the sixteen skips, which change nothing but the program counter; FPSH and FPOP, 18 words,
without the fault check, the stack pointer updated once at the end: their order is presumed [G2, log entry 35], and they
move bits 8-16 as they are [log entry 38] and recompute ANY [log entry 36], the model's choices. -/
def Obligations.FloatStatusSkipsAndStack : Prop :=
  (∀ (s : State), s.fpReady = true →
    let z := s.fpsr.getMsbD 6
    let n := s.fpsr.getMsbD 7
    let ovf := s.fpsr.getMsbD 1
    let unf := s.fpsr.getMsbD 2
    let dvz := s.fpsr.getMsbD 3
    let mof := s.fpsr.getMsbD 4
    exec .fte s = .next ((s.setFpsr (s.fpsr ||| 0x04000000)).setPc (s.pc + 1))
    ∧ exec .ftd s = .next ((s.setFpsr (s.fpsr &&& 0xFBFFFFFF)).setPc (s.pc + 1))
    ∧ exec .fcle s = .next ((s.setFpsr (s.fpsr &&& 0x07FFFFFF)).setPc (s.pc + 1))
    ∧ ∀ p ∈ [(Instr.fns, false), (.fsa, true), (.fseq, z), (.fsne, !z), (.fslt, n), (.fsge, !n), (.fsle, z || n),
        (.fsgt, !(z || n)), (.fsnm, !mof), (.fsnd, !dvz), (.fsnu, !unf), (.fsnud, !(unf || dvz)), (.fsno, !ovf),
        (.fsnod, !(ovf || dvz)), (.fsnuo, !(unf || ovf)), (.fsner, !(ovf || unf || dvz || mof))],
      exec p.1 s = .next (s.setPc (s.pc + if p.2 then 2 else 1)))
  ∧ (∀ (s : State), s.calm = true → s.cfg.hasFpu = true →
    let t := s.pushedTogether s.floatBlock
    let w := s.stackWord
    let p := s.put 0o40 (s.look 0o40 - 18)
    (t.overflowed = false → exec .fpsh s = .next (t.setPc (s.pc + 1)))
    ∧ (p.underflowed = false → exec .fpop s = .next ((((((p.setFpac3 (w 3 ++ w 2 ++ w 1 ++ w 0)).setFpac2
        (w 7 ++ w 6 ++ w 5 ++ w 4)).setFpac1 (w 11 ++ w 10 ++ w 9 ++ w 8)).setFpac0
        (w 15 ++ w 14 ++ w 13 ++ w 12)).setFpsr (fixAny (w 17 ++ w 16))).setPc (s.pc + 1))))

/-- With the trap enabled and an error bit set, every floating point instruction but FPSH and FPOP takes the floating
point fault instead of executing: TE cleared, a return block with its own address, the jump through location 45 octal, in
whose chain no auto-index location is updated (R77, R234), where R571 says that they act as usual: the model's choice [log
entry 10]; FINT where the commercial set is. Without the feature all are no-operations of one word [log entry 13]. Without the
commercial set its words are unassigned (D9): they do what UNASSIGNED_OP says where it is given, and are refused where not;
refusing them is the model's choice [log entry 12]. -/
def Obligations.FloatTrapAndMissingFeatures : Prop :=
  (∀ (i : Instr) (s : State) (e : Addr), s.calm = true →
    (checkedFloat i = true ∧ s.cfg.hasFpu = true ∨ (∃ f, i = .fint f) ∧ s.cfg.hasEap = true) →
    s.fpsr.getMsbD 5 = true →
    (s.fpsr.getMsbD 1 || s.fpsr.getMsbD 2 || s.fpsr.getMsbD 3 || s.fpsr.getMsbD 4) = true →
    let t := (s.setFpsr (s.fpsr &&& 0xFBFFFFFF)).pushedBlock s.pc
    t.follow 32768 0o45 = some e → t.overflowed = false → exec i s = .next (t.setPc e))
  ∧ (∀ (i : Instr) (s : State),
    (s.cfg.hasFpu = false → (checkedFloat i = true ∨ i = .fpsh ∨ i = .fpop) → exec i s = .next (s.setPc (s.pc + 1)))
    ∧ (s.cfg.hasEap = false →
      ((∃ f, i = .fint f ∨ i = .ldi f ∨ i = .sti f) ∨ (∃ a x d, i = .eldb a x d ∨ i = .estb a x d)
        ∨ i ∈ [.ldix, .stix, .cmv, .cmp, .ctr, .cmt, .edit, .lsn]) →
      (s.cfg.unassignedOp = false → exec i s = .refused (.unassigned (encode1 i)))
      ∧ (s.cfg.unassignedOp = true → exec i s =
        match unassignedOp (encode1 i) s with
        | some u => .next (s.given u)
        | none => .refused (.unassigned (encode1 i)))))

/-! ### The commercial set (48_commercial.md) -/

/-- CMV and CMP, the shorter string extended with spaces, CMP up to the first difference; CTR in both options and CMT,
the address in AC0 resolved first, one character at a time. -/
def Obligations.StringInstructions : Prop :=
  (∀ (s : State) (k : Nat), s.calm = true → s.cfg.hasEap = true →
    let source := s.ac1.toInt.natAbs
    let target := s.ac0.toInt.natAbs
    let at' (n : Nat) : State := State.pastPair^[n] s
    let done (code : Word) : State := ((at' k).setAc1 code).setPc (s.pc + 1)
    let x := (at' k).sourceChar.toNat
    let y := (at' k).targetChar.toNat
    exec .cmv s = .next ((State.movedChar^[target] (s.setCarry (decide (target < source)))).setPc (s.pc + 1))
    ∧ (k ≤ max source target → (∀ j, j < k → (at' j).sourceChar = (at' j).targetChar) →
      (k = max source target → exec .cmp s = .next (done 0))
      ∧ (k < max source target → x < y → exec .cmp s = .next (done 0o177777))
      ∧ (k < max source target → y < x → exec .cmp s = .next (done 1))))
  ∧ (∀ (s : State) (p : Addr) (k : Nat), s.calm = true → s.cfg.hasEap = true → s.map.enablePending = none →
    (if s.ac0.msb then s.follow 32768 (s.ac0.setWidth 15) = some p else s.ac0 = 0#1 ++ p) →
    let t := s.setAc0 (0#1 ++ p)
    let n := s.ac1.toInt.natAbs
    let tbl := s.look p
    let pair (j : Nat) : State := State.pastEqual^[j] t
    let x (j : Nat) : Byte := (pair j).translated tbl ((pair j).lookByte (pair j).ac3)
    let y (j : Nat) : Byte := (pair j).translated tbl ((pair j).lookByte (pair j).ac2)
    let done (code : Word) : State := ((pair k).setAc1 code).setPc (s.pc + 1)
    let copied (j : Nat) : State := State.movedUntil^[j] t
    (s.ac1.msb = true → exec .ctr s = .next (((State.translatedChar tbl)^[n] t).setPc (s.pc + 1)))
    ∧ (s.ac1.msb = false → k ≤ n → (∀ j, j < k → x j = y j) →
      (k = n → exec .ctr s = .next (done 0))
      ∧ (k < n → (x k).toNat < (y k).toNat → exec .ctr s = .next (done 0o177777))
      ∧ (k < n → (y k).toNat < (x k).toNat → exec .ctr s = .next (done 1)))
    ∧ (k ≤ n → (∀ j, j < k → (copied j).stopsAt p = false) → (k = n ∨ (copied k).stopsAt p = true) →
      exec .cmt s = .next ((copied k).setPc (s.pc + 1))))

/-- LDI, LDIX, STI, STIX and LSN on valid operands of every data type: `d` is the number the field decodes to. What
the manual leaves undefined is free [log entries 6 and 20]. -/
def Obligations.DecimalLoadsAndStores : Prop :=
  ∀ (s : State) (f : Acc) (a : Attribute) (d : Decimal), s.calm = true → s.cfg.hasEap = true →
    a = attributeOf s.ac1 →
    let p := s.ac3
    let past : Word := p + BitVec.ofNat 16 (fieldBytes a)
    let undef := Config.freeWord s.free
    let bs := s.lookBytes p (a.size + 1)
    let v := decimalValue d.digits
    let signed (neg : Bool) (n : Nat) : Int := if neg then -(n : Int) else n
    let loaded (r : Quad) : State :=
      (((((s.setFpac f r).setFpsr (setZN s.fpsr (decide (fpMan r = 0)) (r.msb && decide (fpMan r ≠ 0)))).setAc2 p).setAc3
        undef).setFree (s.free + 1)).setPc (s.pc + 1)
    let stored (c : Bool) (field : List Byte) : State :=
      ((((((s.setCarry c).putBytes field p).setAc2 p).setAc3 past).setAc0 undef).setFree (s.free + 1)).setPc (s.pc + 1)
    let scanned (zero neg : Bool) : State :=
      ((((s.setAc1 (if zero then (if neg then 0o177776 else 0) else if neg then 0o177777 else 1)).setAc2 p).setAc3
        undef).setFree (s.free + 1)).setPc (s.pc + 1)
    let x := s.fpac f
    let g := fpIntegerPart x
    let k := fieldDigits a
    let n := a.size + 1
    let w := s.extendedNumber
    (a.type ≤ 5 → decodeDecimal a p s = .ok (.ok d) s →
      (v < 10 ^ 16 → exec (.ldi f) s = .next (loaded (floatOfInt (signed d.neg v) false).value))
      ∧ (∃ z m : Bool, let part (j : Nat) : Quad := (floatOfInt (signed d.neg (v / 10 ^ (8 * j) % 10 ^ 8)) false).value
        exec .ldix s = .next (((((((((s.setFpac0 (part 3)).setFpac1 (part 2)).setFpac2 (part 1)).setFpac3
          (part 0)).setFpsr (setZN s.fpsr z m)).setAc2 p).setAc3 undef).setFree (s.free + 2)).setPc (s.pc + 1)))
      ∧ exec .lsn s = .next (scanned (d.digits.all (· == 0)) d.neg))
    ∧ (a.type = 6 →
      ((bytesInt bs).natAbs < 2 ^ 56 → exec (.ldi f) s = .next (loaded (floatOfInt (bytesInt bs) false).value))
      ∧ exec .lsn s = .next (scanned (decide (bytesInt bs = 0)) (decide (bytesInt bs < 0))))
    ∧ (a.type = 7 →
      (a.size ≤ 8 →
        exec (.ldi f) s = .next (loaded (BitVec.ofNat 64 (bytesValue ((bs ++ List.replicate 8 0).take 8)))))
      ∧ exec .lsn s = .next (scanned (bs.tail.all (· == 0)) (bs.headD 0).msb))
    ∧ (fpMagnitude x ≤ 10 ^ 16 * 16 ^ 78 →
      (a.type ≤ 5 → exec (.sti f) s = .next (stored (decide (10 ^ k ≤ g))
        (encodeField (x.msb && decide (g ≠ 0)) (fieldRoles a) (decimalDigits k (g % 10 ^ k)))))
      ∧ (a.type = 6 → exec (.sti f) s = .next (stored
        (decide (signed x.msb g < -2 ^ (8 * n - 1) ∨ 2 ^ (8 * n - 1) ≤ signed x.msb g))
        ((List.range n).map fun i => BitVec.ofInt 8 (signed x.msb g / 256 ^ (n - 1 - i)))))
      ∧ (a.type = 7 → exec (.sti f) s = .next (stored false
        ((((List.range 8).map fun i => x.extractLsb' (56 - 8 * i) 8) ++ List.replicate a.size 0).take n))))
    ∧ (a.type ≤ 5 → ∃ z m : Bool,
      exec .stix s = .next (((((((s.setCarry (decide (10 ^ k ≤ w))).putBytes (encodeField (s.fpac0.msb || s.fpac1.msb ||
        s.fpac2.msb || s.fpac3.msb) (fieldRoles a) (decimalDigits k (w % 10 ^ k))) p).setFpsr (setZN s.fpsr z m)).setAc2
        p).setAc3 past).setFree (s.free + 1)).setPc (s.pc + 1)))

/-- A decimal field that Encode writes is as long as its format says, and Decode reads its sign and digits back, in
each of the six decimal formats. -/
def Obligations.DecimalFieldRoundTrip : Prop :=
  ∀ (s : State) (a : Attribute) (neg : Bool) (ds : List Nat) (p : Word), s.calm = true → a.type ≤ 5 →
    ds.length = fieldDigits a → (∀ d ∈ ds, d ≤ 9) →
    (encodeField neg (fieldRoles a) ds).length = fieldBytes a
    ∧ (s.lookBytes p (fieldBytes a) = encodeField neg (fieldRoles a) ds →
      decodeDecimal a p s = .ok (.ok { neg := neg && a.type != 4, digits := ds }) s)

/-- EDIT completes when its sign byte is valid and its sub-program ends: the carry is T, AC0 the pointer after DEND,
AC2 and AC3 the indicators, AC1 free [log entry 20]; in particular for the sub-program DINC c, DEND on an unsigned
field. -/
def Obligations.EditInstruction : Prop :=
  ∀ (s : State), s.calm = true → s.cfg.hasEap = true → s.ac0 ≠ 0o177777 →
    let a := attributeOf s.ac1
    (∀ (neg : Bool) (e : Edit) (t : State), a.type ≤ 5 → editSign a s.ac3 s = .ok (.ok neg) s →
      editLoop editFuel { attr := a, source := s.ac3, p := s.ac0, si := s.ac3, di := s.ac2, t := false, s := neg,
                          low := false, outside := false } s = .ok e t →
      exec .edit s = .next (((((((t.setFree (t.free + 1)).setCarry e.t).setAc0 e.p).setAc1
        (Config.freeWord t.free)).setAc2 e.di).setAc3 e.si).setPc (t.pc + 1)))
    ∧ (let c := s.lookByte (s.ac0 + 1)
      let t := s.putByte s.ac2 c
      a.type = 4 → editOpOf s.cfg.editOpcodes EditOp.all (s.lookByte s.ac0) = some .dinc →
      editOpOf s.cfg.editOpcodes EditOp.all (t.lookByte (s.ac0 + 2)) = some .dend →
      exec .edit s = .next (((((((t.setFree (s.free + 1)).setCarry false).setAc0 (s.ac0 + 3)).setAc1
        (Config.freeWord s.free)).setAc2 (s.ac2 + 1)).setAc3 s.ac3).setPc (s.pc + 1)))

/-- The operations of EDIT's sub-program: what each does to the indicators and to memory, for every repeat count j; the digit
moves take their digits from NextDigit. What R450 and R451 leave open, the pointer model of D27 among it, is the model's
choice [log entry 22]. -/
def Obligations.EditOperations : Prop :=
  ∀ (s : State) (e : Edit), s.calm = true →
    let b (k : Word) : Byte := s.lookByte (e.p + 1 + k)
    let jump : Edit := { e with p := e.p + (b 0).signExtend 16 }
    let at' (n : Word) (x : Edit) : Edit := { x with p := e.p + n }
    let puts (c : Byte) (n : Word) : EStateM.Result Stop State Edit :=
      .ok { e with p := e.p + n, di := e.di + 1 } (s.putByte e.di c)
    let base : Addr := (if (b 0).msb then s.look 0o40 else s.look 0o41).setWidth 15
    let word : Addr := base + 1 + (b 0).signExtend 15
    let isZero (c : Byte) : Bool := c == 0x30 || c == 0x20
    let isLetter (c : Byte) : Bool := decide (65 ≤ c.toNat ∧ c.toNat ≤ 90 ∨ 97 ≤ c.toNat ∧ c.toNat ≤ 122) || c == 0x20
    let n := s.repeats (b 0)
    let d := (b 0).signExtend 16
    let sign (x : Edit) : Byte := if x.s then b 3 else b 2
    let moved (k : Nat) : State := s.copied e.si e.di k
    let past (k : Nat) : Edit := { (e.siMoved k) with di := e.di + BitVec.ofNat 16 k }
    e.run .dend s = .ok (at' 1 e) s
    ∧ e.run .dsso s = .ok (at' 1 { e with s := true }) s ∧ e.run .dssz s = .ok (at' 1 { e with s := false }) s
    ∧ e.run .dsto s = .ok (at' 1 { e with t := true }) s ∧ e.run .dstz s = .ok (at' 1 { e with t := false }) s
    ∧ e.run .dapu s = .ok jump s ∧ e.run .daps s = .ok (if e.s then at' 2 e else jump) s
    ∧ e.run .dapt s = .ok (if e.t then jump else at' 2 e) s
    ∧ (let y : Edit := { e with si := e.si + d }
      e.run .dasi s = .ok (at' 2 { y with outside := e.outside || y.isOutside }) s)
    ∧ e.run .dadi s = .ok (at' 2 { e with di := e.di + d }) s
    ∧ e.run .dins s = puts (if e.s then b 1 else b 0) 3 ∧ e.run .dint s = puts (if e.t then b 1 else b 0) 3
    ∧ e.run .dinc s = puts (b 0) 2
    ∧ e.run .dndf s = (if e.t then .ok (at' 3 e) s else puts (if e.s then b 1 else b 0) 3)
    ∧ e.run .dstk s = .ok (at' 3 e) (s.put word ((b 1).setWidth 16))
    ∧ (let w := s.look word - 1
      e.run .ddtk s = .ok (if w = 0 then { e with p := e.p + (b 1).signExtend 16 } else at' 3 e) (s.put word w))
    ∧ e.run .dimc s = .ok (at' 3 { e with di := e.di + BitVec.ofNat 16 n }) (s.putBytes (List.replicate n (b 1)) e.di)
    ∧ e.run .dici s =
      .ok { e with p := e.p + BitVec.ofNat 16 n + 2, di := e.di + BitVec.ofNat 16 n } (s.copied (e.p + 2) e.di n)
    ∧ (e.attr.type ≠ 5 → e.run .dmvc s = .ok (at' 2 { (past n) with t := true }) (moved n))
    ∧ (e.attr.type ≠ 5 → (∀ k, k < n → isLetter ((moved k).lookByte (e.si + BitVec.ofNat 16 k)) = true) →
      e.run .dmva s = .ok (at' 2 { (past n) with t := true }) (moved n))
    ∧ (∀ k, e.attr.type ≠ 5 → k < n → (∀ j, j < k → isLetter ((moved j).lookByte (e.si + BitVec.ofNat 16 j)) = true) →
      isLetter ((moved k).lookByte (e.si + BitVec.ofNat 16 k)) = false → e.run .dmva s = editFault (past k) 3 (moved k))
    ∧ (e.attr.type = 5 → e.run .dmvc s = editFault e 1 s ∧ e.run .dmva s = editFault e 1 s)
    ∧ (e.outside = true → e.nextDigit s = .ok (0x30, e.stepSi) s)
    ∧ (∀ (c : Byte) (x : Edit) (u : State), e.nextDigit s = .ok (c, x) u → u.calm = true →
      let out (f : Byte) (t' : Bool) : EStateM.Result Stop State Edit :=
        .ok { x with t := t', p := x.p + 5, di := x.di + 1 } (u.putByte x.di f)
      (isZero c = true → e.run .dmvo s = out (if x.s then b 1 else b 0) x.t)
      ∧ (isZero c = false → e.run .dmvo s = out (c - 0x30 + if x.s then b 3 else b 2) true))
    ∧ ∀ (x : Edit) (u : State),
      (digitsMoved (fun y c => (y, [c])) n e s x u → e.run .dmvn s = .ok { x with t := true, p := x.p + 2 } u)
      ∧ (digitsMoved (fun y c => if !y.t && isZero c then (y, [b 1]) else ({ y with t := true }, [c])) n e s x u →
        e.run .dmvs s = .ok { x with p := x.p + 3 } u)
      ∧ (digitsMoved (fun y c => if y.t then (y, [c]) else if isZero c then (y, [b 1])
          else ({ y with t := true }, [sign y, c])) n e s x u →
        e.run .dmvf s = .ok { x with p := x.p + 5 } u)

/-- Commercial faults: LDI with an invalid digit or sign, a number above 10^16 - 1, a binary integer above 2^56 - 1 (type 6)
or a floating point field too long (type 7); STI of a number above 10^16, its field any bytes [log entry 21]; LDIX, STIX and
EDIT with data type 6 or 7; the code in AC1, the block with the instruction's own address, the jump through location 46
octal, in whose chain no auto-index location is updated (R77, R234), where R571 says that they act as usual: the model's
choice [log entry 10]. AC3 of STI, LDIX and STIX is free [log entry 20]. -/
def Obligations.CommercialFaults : Prop :=
  ∀ (s : State) (f : Acc) (e : Addr), s.calm = true → s.cfg.hasEap = true →
    let a := attributeOf s.ac1
    let p := s.ac3
    let t := ((s.setFree (s.free + 1)).setAc2 p).setAc3 (Config.freeWord s.free)
    (∀ x, a.type ≤ 5 → decodeDecimal a p s = .ok (.error x) s →
      let u := (s.setAc2 p).setAc3 x.next
      u.commercialGoes x.code e → exec (.ldi f) s = .next (u.inCommercialFault x.code e))
    ∧ (∀ d, a.type ≤ 5 → decodeDecimal a p s = .ok (.ok d) s → 10 ^ 16 ≤ decimalValue d.digits →
      let u := (s.setAc2 p).setAc3 (p + BitVec.ofNat 16 (fieldBytes a))
      u.commercialGoes 4 e → exec (.ldi f) s = .next (u.inCommercialFault 4 e))
    ∧ (let n := (bytesInt (s.lookBytes p (a.size + 1))).natAbs
      let u := (s.setAc2 p).setAc3 (p + BitVec.ofNat 16 (fieldBytes a))
      a.type = 6 → 2 ^ 56 ≤ n → u.commercialGoes 4 e → exec (.ldi f) s = .next (u.inCommercialFault 4 e))
    ∧ (let u := (s.setAc2 p).setAc3 p
      a.type = 7 → 8 < a.size → u.commercialGoes 1 e → exec (.ldi f) s = .next (u.inCommercialFault 1 e))
    ∧ (let w := State.spoiled (fieldBytes a) p s
      let u := ((w.setFree (w.free + 1)).setAc2 p).setAc3 (Config.freeWord w.free)
      10 ^ 16 * 16 ^ 78 < fpMagnitude (s.fpac f) → u.commercialGoes 4 e →
      exec (.sti f) s = .next (u.inCommercialFault 4 e))
    ∧ (6 ≤ a.type → t.commercialGoes 1 e →
      exec .ldix s = .next (t.inCommercialFault 1 e) ∧ exec .stix s = .next (t.inCommercialFault 1 e))
    ∧ (6 ≤ a.type → s.ac0 ≠ 0o177777 → s.commercialGoes 1 e → exec .edit s = .next (s.inCommercialFault 1 e))

/-! ### Input and output (49_io.md) -/

/-- The general I/O instructions for a peripheral the user may address: a missing device reads 0 and has both flags 0;
S, C and P act as the F field says [no device reads 0: D32, log entry 40; the last pulse is the model's own record: log entry
28]. The WCS, ERCC and clock instructions; without the WCS its words change nothing [log entry 43]. NIO and SKP at the MAP,
the WCS, the ERCC and the clock; DIC, DOB and DOC at the ERCC, which do nothing there; the WCS reads 0 with both flags 0 [the
model's choice: log entry 15]. -/
def Obligations.DeviceTransfers : Prop :=
  (∀ (s : State) (a : Acc) (f : IoF) (dev : BitVec 6) (c : IoTest), s.ioProtected dev = false →
    s.unitAt dev = .peripheral → dev ≠ 0o77 →
    let found := s.devices.find? fun d => d.code == dev
    let read (g : Device → Word) : Word := match found with | some d => g d | none => 0
    let flag (g : Device → Bool) : Bool := match found with | some d => g d | none => false
    let change (g : Device → Device) : State := s.setDevices (s.devices.map fun d => if d.code = dev then g d else d)
    let act (d : Device) : Device :=
      match f with
      | .none => d
      | .start => { d with busy := true, done := false, lastPulse := some .start }
      | .clear => { d with busy := false, done := false, lastPulse := some .clear }
      | .pulse => { d with lastPulse := some .io }
    let v := s.ac a
    let next := s.pc + 1
    let test : Bool :=
      match c with
      | .bn => flag Device.busy
      | .bz => !flag Device.busy
      | .dn => flag Device.done
      | .dz => !flag Device.done
    exec (.nio a f dev) s = .next ((change act).setPc next)
    ∧ exec (.dia a f dev) s = .next (((change act).setAc a (read Device.inA)).setPc next)
    ∧ exec (.dib a f dev) s = .next (((change act).setAc a (read Device.inB)).setPc next)
    ∧ exec (.dic a f dev) s = .next (((change act).setAc a (read Device.inC)).setPc next)
    ∧ exec (.doa a f dev) s = .next ((change fun d => act { d with outA := v }).setPc next)
    ∧ exec (.dob a f dev) s = .next ((change fun d => act { d with outB := v }).setPc next)
    ∧ exec (.doc a f dev) s = .next ((change fun d => act { d with outC := v }).setPc next)
    ∧ exec (.skp a c dev) s = .next (s.setPc (s.pc + if test then 2 else 1)))
  ∧ (∀ (s : State) (a : Acc) (f : IoF),
    let v := s.ac a
    let next := s.pc + 1
    let flagE (x : Ercc) : Ercc := if f = .start then { x with done := false, faultAddr := 0 } else x
    let flagR (x : Rtc) : Rtc :=
      match f with
      | .start => { x with busy := true, done := false }
      | .clear => { x with busy := false, done := false }
      | _ => x
    let w := s.wcs
    let entry := (w.wordReg.extractLsb' 2 8).toNat
    let place := (w.wordReg.extractLsb' 0 1).toNat * 16 + (w.wordReg.extractLsb' 1 4).toNat
    (s.ioProtected 1 = false → s.cfg.hasWcs = true →
      exec (.doaWcs a) s = .next ((s.setWcs { w with wordReg := v }).setPc next)
      ∧ (∃ t, exec (.dobWcs a) s = .next ((s.setWcs { w with micro := t }).setPc next)
        ∧ ∀ i (h : i < 256), t[i] = if i = entry then microField w.micro[i] (w.wordReg.extractLsb' 0 2) v else w.micro[i])
      ∧ (∃ t, exec (.docWcs a) s = .next ((s.setWcs { w with decode := t }).setPc next)
        ∧ ∀ i (h : i < 32), t[i] = if i = place then v.setWidth 8 else w.decode[i]))
    ∧ (s.ioProtected 1 = false → s.cfg.hasWcs = false → ∀ i ∈ [Instr.doaWcs a, .dobWcs a, .docWcs a],
      exec i s = .next (s.setPc next))
    ∧ (s.ioProtected 2 = false → s.cfg.hasErcc = true →
      exec (.doaErcc a f) s = .next ((s.setErcc (flagE { s.ercc with mode := v.setWidth 2 })).setPc next)
      ∧ exec (.diaErcc a f) s =
        .next (((s.setErcc (flagE s.ercc)).setAc a (s.ercc.faultAddr.setWidth 16)).setPc next)
      ∧ exec (.dibErcc a f) s =
        .next (((s.setErcc (flagE s.ercc)).setAc a (s.ercc.code ++ 0#10 ++ bitOf s.ercc.faultAddr.msb)).setPc next))
    ∧ (s.ioProtected 0o14 = false → s.cfg.hasRtc = true →
      exec (.doaRtc a f) s = .next ((s.setRtc (flagR { s.rtc with freq := v.setWidth 2 })).setPc next))
    ∧ (∀ (c : IoTest),
      let busy (y : Bool) (z : Bool) : Bool :=
        match c with
        | .bn => y
        | .bz => !y
        | .dn => z
        | .dz => !z
      let skips (dev : BitVec 6) (y z : Bool) : Prop :=
        exec (.skp a c dev) s = .next (s.setPc (s.pc + if busy y z then 2 else 1))
      (s.ioProtected 3 = false → s.cfg.mapKind ≠ .none → skips 3 false false ∧ exec (.nio a f 3) s =
        .next ((if f = .pulse then s.setMap { s.map with singlePending := true } else s).setPc next))
      ∧ (s.ioProtected 1 = false → s.cfg.hasWcs = true → skips 1 false false
        ∧ exec (.nio a f 1) s = .next (s.setPc next)
        ∧ ∀ i ∈ [Instr.dia a f 1, .dib a f 1, .dic a f 1], exec i s = .next ((s.setAc a 0).setPc next))
      ∧ (s.ioProtected 2 = false → s.cfg.hasErcc = true → skips 2 false s.ercc.done
        ∧ exec (.nio a f 2) s = .next ((s.setErcc (flagE s.ercc)).setPc next)
        ∧ exec (.dic a f 2) s = .next ((s.setAc a 0).setPc next)
        ∧ exec (.dob a f 2) s = .next (s.setPc next) ∧ exec (.doc a f 2) s = .next (s.setPc next))
      ∧ (s.ioProtected 0o14 = false → s.cfg.hasRtc = true → skips 0o14 s.rtc.busy s.rtc.done
        ∧ exec (.nio a f 0o14) s = .next ((s.setRtc (flagR s.rtc)).setPc next))))

/-- The instructions of device 77 octal. INTA answers with the code of the first requesting device in bus order, 0 with none
[D32, log entry 40]; IORST leaves what rule R45 lists, resets every device (its buffers stay, the model's choice: log entry
17) and keeps the accumulators, all maps, the device protect bits and memory [C28, D11, D20 as log entries 39 and 40 say];
HALT stops the processor at the next instruction, the address lights as they were [log entry 26]. -/
def Obligations.ProcessorDevice : Prop :=
  ∀ (s : State) (a : Acc) (f : IoF) (c : IoTest), s.ioProtected 0o77 = false →
    let next := s.pc + 1
    let fail := s.cfg.hasPfar && s.pwrFail
    let test : Bool :=
      match c with
      | .bn => s.ion
      | .bz => !s.ion
      | .dn => fail
      | .dz => !fail
    let silent (x : BitVec 6) : Prop :=
      (x = 2 → s.erccReq = false) ∧ (x = 0o14 → s.rtcReq = false) ∧
        ∀ d ∈ s.devices, d.code = x → s.deviceReq d = false
    exec .inten s = .next (s.interruptsOn.setPc next)
    ∧ exec .intds s = .next ((s.setIon false).setPc next)
    ∧ exec (.reads a f) s = .next (((s.setAc a s.console.switches).ionAct f).setPc next)
    ∧ exec (.msko a f) s = .next (((s.setMask (s.ac a)).ionAct f).setPc next)
    ∧ exec (.inta a f) s = .next (((s.setAc a (s.ack.setWidth 16)).ionAct f).setPc next)
    ∧ ((∀ x, silent x) → s.ack = 0)
    ∧ (∀ d before after, s.cfg.busOrder = before ++ d.code :: after → (∀ x ∈ before, silent x) →
      d.code ≠ 2 → d.code ≠ 0o14 → s.devices.find? (fun x => x.code == d.code && s.deviceReq x) = some d →
      s.ack = d.ackCode)
    ∧ exec (.halt a f) s =
      .next ((((s.ionAct f).setConsole { s.console with dataLights := s.ac a }).setRun false).setPc next)
    ∧ exec (.skpCpu c) s = .next (s.setPc (s.pc + if test then 2 else 1))
    ∧ ∃ t, exec (.iorst a f) s = .next t ∧ t.pc = next ∧ t.mask = 0 ∧ t.fpsr = s.fpsr &&& 0x03FFFFFF
      ∧ t.ion = (match f with | .start => true | .clear => false | _ => s.ion) ∧ t.mem = s.mem
      ∧ (∀ n, t.ac n = s.ac n ∧ t.fpac n = s.fpac n)
      ∧ t.carry = s.carry ∧ t.devices = s.devices.map (fun d => { d with busy := false, done := false, lastPulse := some .reset })
      ∧ t.rtc = { freq := 0, busy := false, done := false } ∧ t.ercc.mode = 2 ∧ t.ercc.done = false
      ∧ t.map.userEn = false ∧ t.map.dchEn = false ∧ t.map.sup31 = 31 ∧ t.map.enablePending = none
      ∧ t.map.singlePending = false ∧ t.map.fault = MapFault.none
      ∧ t.map.umapA = s.map.umapA ∧ t.map.umapB = s.map.umapB ∧ t.map.dmapA = s.map.dmapA ∧ t.map.dmapB = s.map.dmapB
      ∧ t.map.dmapC = s.map.dmapC ∧ t.map.dmapD = s.map.dmapD ∧ t.map.devProtA = s.map.devProtA
      ∧ t.map.devProtB = s.map.devProtB

/-- VCT in its five modes: a direct table entry is the handler's address; otherwise the stack change, the return block
and the device control table's mask, interrupts on at the end, checked for stack overflow. -/
def Obligations.VectorInstruction : Prop :=
  ∀ (s : State) (change : Bool) (table : Addr), s.calm = true → s.ioProtected 0o77 = false →
    let entry := s.look (table + s.ack.setWidth 15)
    let dct : Addr := entry.setWidth 15
    let t := if change then s.stackChanged else s
    let d0 := t.look dct
    let u := if d0.msb then t.pushedBlock ((t.look 0).setWidth 15) else t
    let v := u.pushed (u.look 5)
    let m := v.look (dct + 1) ||| v.look 5
    let w := (((v.put 5 m).setAc0 m).setAc2 (0#1 ++ dct)).setMask m
    (entry.msb = false → exec (.vct change table) s = .next (s.setPc (entry.setWidth 15)))
    ∧ (entry.msb = true → (w.interruptsOn.setPc (d0.setWidth 15)).overflowed = false →
      exec (.vct change table) s = .next (w.interruptsOn.setPc (d0.setWidth 15)))

/-! ### The MAP (46_map.md) -/

/-- Translation: the identity but for block 31 in supervisor mode; through the user's map in user mode, validity
before write protection, for both variants. -/
def Obligations.MapTranslation : Prop :=
  ∀ (s : State) (isWrite : Bool) (a : Addr),
    let offset := a.toNat % 1024
    let block := a.toNat / 1024
    (s.userMode = false → s.translate false isWrite a =
      .ok (if s.cfg.mapKind ≠ .none ∧ block = 31 then s.map.sup31.toNat * 1024 + offset else a.toNat))
    ∧ (s.map.userEn = true → ∀ (u : User) (on : Bool),
      (s.cfg.mapKind = .map200 ∧ u = s.map.lastUser ∧
        on = (match u with | .a => s.map.ustatA.wp | .b => s.map.ustatB.wp))
      ∨ (s.cfg.mapKind = .map230 ∧ u = s.map.ab ∧ on = s.map.status.wp) →
      let x : MapEntry := (match u with | .a => s.map.umapA | .b => s.map.umapB).toList.getD block MapEntry.zero
      let invalid : Bool :=
        (s.cfg.mapKind == .map200 && x.wp && x.phys == 127) || (s.cfg.mapKind == .map230 && x.val == 3)
      s.translate false isWrite a =
        if invalid then .error .validity
        else if isWrite && on && x.wp then .error .write
        else .ok (x.phys.toNat * 1024 + offset))

/-- The I/O instructions of device 3 on the S/230 and C/330, and what one LOAD MAP word does there. BLOCK CHECK of the reserved
map codes 1 and 3 reads any value, the spec being silent there: the model's choice [log entry 23]. -/
def Obligations.MapDevice230 : Prop :=
  ∀ (s : State) (a : Acc), s.ioProtected 3 = false →
    let v := s.ac a
    let bit (i : Nat) : Bool := v.getMsbD i
    let user : User := if bit 13 then .b else .a
    let next := s.pc + 1
    let m := s.map
    let out (w : Word) : State := (s.setAc a w).setPc next
    exec (.doaMap230 a) s =
      .next ((s.setMap { m with
        sel := v.extractLsb' 7 3, ab := user, dchEn := bit 14,
        status := { lef := bit 9, io := bit 10, wp := bit 11, ind := bit 12, dchp := false },
        enablePending := if bit 15 then some user else m.enablePending }).setPc next)
    ∧ exec (.dobMap230 a) s = .next ((s.setMap { m with sup31 := v.setWidth 8 }).setPc next)
    ∧ exec (.docMap230 a) s =
      .next ((s.setMap { m with checkBlock := v.extractLsb' 10 5, sel := v.extractLsb' 7 3 }).setPc next)
    ∧ exec .niopMap230 s = .next ((s.setMap { m with singlePending := true }).setPc next)
    ∧ (∃ w, exec (.diaMap230 a) s = .next (out w) ∧
      (List.range 16).map w.getMsbD = [false, false, m.fault.io, m.fault.wp, m.fault.ind, m.fault.single,
        m.sel.getMsbD 0, m.sel.getMsbD 1, m.sel.getMsbD 2, m.status.lef, m.status.io, m.status.wp, m.status.ind,
        m.ab == .b, m.dchEn, m.umodeInt])
    ∧ (∀ (c : BitVec 3) (t : Vector MapEntry 32), m.sel = c →
      (c, t) ∈ [(0, m.umapA), (2, m.umapB), (4, m.dmapA), (5, m.dmapC), (6, m.dmapB), (7, m.dmapD)] →
      let x : MapEntry := t.toList.getD m.checkBlock.toNat MapEntry.zero
      exec (.dicMap230 a) s = .next (out (bitOf x.wp ++ c ++ 0#2 ++ x.val ++ x.phys))
      ∧ ∀ w : Word, ∃ t', (∀ i (h : i < 32), t'[i] = if i = (w.extractLsb' 10 5).toNat
          then { wp := w.msb, val := w.extractLsb' 8 2, phys := w.setWidth 8 } else t[i])
        ∧ m.load230 w = (match c.toNat with
          | 0 => { m with umapA := t' }
          | 2 => { m with umapB := t' }
          | 4 => { m with dmapA := t' }
          | 5 => { m with dmapC := t' }
          | 6 => { m with dmapB := t' }
          | _ => { m with dmapD := t' }))
    ∧ ((m.sel = 1 ∨ m.sel = 3) → ∃ w k, exec (.dicMap230 a) s = .next ((out w).setFree k))

/-- The I/O instructions of device 3 on the S/200 and C/300; DOA takes the three word formats of LOAD MAP. -/
def Obligations.MapDevice200 : Prop :=
  ∀ (s : State) (a : Acc), s.ioProtected 3 = false →
    let v := s.ac a
    let bit (i : Nat) : Bool := v.getMsbD i
    let user : User := if bit 2 then .b else .a
    let block := (v.extractLsb' 10 5).toNat
    let dev := (v.extractLsb' 10 3).toNat
    let next := s.pc + 1
    let m := s.map
    let loaded (f : MapUnit) : Prop := exec (.doaMap200 a) s = .next ((s.setMap f).setPc next)
    let entered (t t' : Vector MapEntry 32) : Prop :=
      ∀ i (h : i < 32), t'[i] = if i = block then { wp := bit 8, val := 0, phys := (v.setWidth 7).setWidth 8 } else t[i]
    let enables : Enables := { lef := bit 9, io := bit 10, wp := bit 11, ind := bit 12, dchp := bit 13 }
    let x (t : Vector MapEntry 32) : MapEntry := t.toList.getD block MapEntry.zero
    let found (t : Vector MapEntry 32) : Prop :=
      exec (.docMap200 a) s = .next ((s.setMap { m with tr := bitOf (x t).wp ++ (x t).phys.setWidth 7 }).setPc next)
    let k := v.extractLsb' 8 2
    let st := if m.lastUser = .b then m.ustatB else m.ustatA
    (k = 1 → (∃ t, entered m.dmapA t ∧ loaded { m with dmapA := t }) ∧ found m.dmapA)
    ∧ (k = 2 → (∃ t, entered m.umapA t ∧ loaded { m with umapA := t }) ∧ found m.umapA)
    ∧ (k = 3 → (∃ t, entered m.umapB t ∧ loaded { m with umapB := t }) ∧ found m.umapB)
    ∧ (k = 0 → exec (.docMap200 a) s = .next (s.setPc next))
    ∧ (k = 0 → bit 1 = true → ∃ t,
      (∀ i (h : i < 8), t[i] = if i = dev then v.setWidth 8 else if bit 2 then m.devProtB[i] else m.devProtA[i])
      ∧ loaded (if bit 2 then { m with devProtB := t } else { m with devProtA := t }))
    ∧ (k = 0 → bit 1 = false → loaded { m with
        ustatA := if bit 2 then m.ustatA else enables, ustatB := if bit 2 then enables else m.ustatB, dchEn := bit 14,
        enablePending := if bit 15 then some user else m.enablePending })
    ∧ exec (.dobMap200 a) s = .next ((s.setMap { m with sup31 := (v.setWidth 7).setWidth 8 }).setPc next)
    ∧ exec .niopMap200 s = .next ((s.setMap { m with singlePending := true }).setPc next)
    ∧ (∃ w, exec (.diaMap200 a) s = .next ((s.setAc a w).setPc next) ∧
      (List.range 16).map w.getMsbD = [false, false, m.lastUser == .b, false, false, false, false, false, false,
        st.lef, st.io, st.wp, st.ind, st.dchp, m.dchEn, m.umodeInt])
    ∧ (∃ w, exec (.dicMap200 a) s = .next ((s.setAc a w).setPc next) ∧ w.setWidth 8 = m.tr ∧
      (List.range 8).map w.getMsbD = [m.dchErr, m.fault.single, m.fault.wp, m.fault.valid, m.fault.ind, m.fault.io,
        m.lastUser == .b, m.fault.pcUndef])

/-- LOAD MAP: the addend, the count and the source address as in a block move, AC3 kept; with I/O protection on a user's LOAD
MAP does nothing. The effect on the S/230 and C/330 with AC0 not 0, bit 0 of AC2 set or a reserved map code is the model's
choice (U9) [log entry 23]. With an interrupt to honour after a word and more to load it is suspended there, the program
counter on it [log entry 47]. -/
def Obligations.LoadMap : Prop :=
  ∀ (s : State),
    (s.userMode = true → s.enables.io = true →
      exec .lmp200 s = .next (s.setPc (s.pc + 1)) ∧ exec .lmp230 s = .next (s.setPc (s.pc + 1)))
    ∧ ((s.ac1 = 0 ∨ 32768 < s.ac1.toNat) → exec .lmp200 s = .next (s.setPc (s.pc + 1)))
    ∧ (s.ac1 = 0 → exec .lmp230 s = .next (s.setPc (s.pc + 1)))
    ∧ (∀ p : Addr, s.calm = true → s.map.enablePending = none → s.canSuspend = false → 0 < s.ac1.toNat →
      (if s.ac2.msb then s.follow 32768 (s.ac2.setWidth 15) = some p else s.ac2 = 0#1 ++ p) →
      let t := s.setAc2 (0#1 ++ p)
      (s.ac1.toNat ≤ 32768 →
        exec .lmp200 s = .next (((State.loadedWord MapUnit.load200)^[s.ac1.toNat] t).setPc (s.pc + 1)))
      ∧ exec .lmp230 s = .next (((State.loadedWord MapUnit.load230)^[s.ac1.toNat] t).setPc (s.pc + 1)))
    ∧ (s.calm = true → s.ac2.msb = false → 1 < s.ac1.toNat →
      let t := State.loadedWord MapUnit.load200 s
      let u := State.loadedWord MapUnit.load230 s
      (s.ac1.toNat ≤ 32768 → t.canSuspend = true → exec .lmp200 s = .next (t.setIonDelay .idle))
      ∧ (u.canSuspend = true → exec .lmp230 s = .next (u.setIonDelay .idle)))

/-- Protection faults: a user's load from an invalid block or store to an invalid or write protected block, and an I/O
instruction under I/O protection, the fifteenth address word of a chain under indirect protection (fourteen words end a
chain as usual: D21, C13, the readings of log entries 40 and 39), and a word of the block of FPSH or FPOP that is refused:
the words before it are stored, the stack pointer has not moved. The kind is recorded, user mode left, a pending MAP SINGLE
CYCLE kept, a block pushed on the supervisor's stack, the jump goes through location 3, in whose chain no auto-index
location is updated (R77, R234), where R571 says that they act as usual: the model's choice [log entry 10]; the block's
address is the next word's for I/O, for VCT too, and free otherwise [log entry 16]. -/
def Obligations.ProtectionFaults : Prop :=
  ∀ (s : State) (a : Acc) (f : IoF) (dev : BitVec 6) (x : ExtMem) (c : IoTest) (v : Violation) (e : Addr),
    s.quiet = true → s.userMode = true → x.ind = false →
    let old := s.cfg.mapKind == .map200
    let recorded (z : State) : State := z.faultRecorded
      { single := false, wp := v == .write, valid := old && v == .validity, ind := v == .indirect, io := v == .io,
        pcUndef := old && isIndirect (Config.freeWord (s.free + 1)) }
    let io : State := s.faultRecorded
      { single := false, wp := false, valid := false, ind := false, io := true, pcUndef := false }
    let goes (t : State) : Prop := t.follow 32768 3 = some e ∧ t.overflowed = false
    let pushed (z : State) : State := (recorded z).pushedBlock ((Config.freeWord s.free).setWidth 15)
    let t := pushed s
    let sp := s.look 0o40
    let u := io.pushedBlock (s.pc + 1)
    let word (y : ExtMem) (k : Nat) : Addr := s.chainAddr (s.extBase y) k
    (∀ y : ExtMem, y.ind = true → s.enables.ind = true → s.map.enablePending = none →
      (∀ k, k < 14 → s.readable (word y k) = true) → (∀ k, k < 13 → isIndirect (s.look (word y k)) = true) →
      (isIndirect (s.look (word y 13)) = false → exec (.ejmp y) s = .next (s.setPc (word y 14)))
      ∧ (isIndirect (s.look (word y 13)) = true → v = .indirect → goes t → exec (.ejmp y) s = .next (t.setPc e)))
    ∧ (v ≠ .io → goes t →
      (s.translate false false (s.extBase x) = .error v → exec (.elda a x) s = .next (t.setPc e))
      ∧ (s.translate false true (s.extBase x) = .error v → exec (.esta a x) s = .next (t.setPc e)))
    ∧ (∀ k : Nat, v ≠ .io → k < 18 → s.cfg.hasFpu = true → s.readable 0o40 = true →
      let w (j : Nat) : Addr := (sp + 1 + BitVec.ofNat 16 j).setWidth 15
      let r (j : Nat) : Addr := (sp - BitVec.ofNat 16 j).setWidth 15
      let u := pushed (s.storedAbove sp (s.floatBlock.take k))
      ((∀ j, j < k → s.writable (w j) = true) → s.translate false true (w k) = .error v → goes u →
        exec .fpsh s = .next (u.setPc e))
      ∧ ((∀ j, j < k → s.readable (r j) = true) → s.translate false false (r k) = .error v → goes t →
        exec .fpop s = .next (t.setPc e)))
    ∧ (goes u → s.ioProtected dev = true →
      ∀ i ∈ [Instr.nio a f dev, .dia a f dev, .doa a f dev, .dib a f dev, .dob a f dev, .dic a f dev, .doc a f dev,
        .skp a c dev], exec i s = .next (u.setPc e))
    ∧ (goes u → s.ioProtected 0o77 = true →
      ∀ i ∈ [Instr.inten, .intds, .reads a f, .inta a f, .msko a f, .iorst a f, .halt a f, .skpCpu c],
        exec i s = .next (u.setPc e))
    ∧ (∀ (change : Bool) (table : Addr), goes u → s.ioProtected 0o77 = true →
      exec (.vct change table) s = .next (u.setPc e))
    ∧ (goes u → ∀ p ∈ [((3 : BitVec 6), Instr.doaMap200 a), (3, .doaMap230 a), (3, .dobMap200 a), (3, .dobMap230 a),
        (3, .docMap200 a), (3, .docMap230 a), (3, .diaMap200 a), (3, .diaMap230 a), (3, .dicMap200 a), (3, .dicMap230 a),
        (3, .niopMap200), (3, .niopMap230), (1, .doaWcs a), (1, .dobWcs a), (1, .docWcs a), (2, .doaErcc a f),
        (2, .diaErcc a f), (2, .dibErcc a f), (0o14, .doaRtc a f)],
      s.ioProtected p.1 = true → exec p.2 s = .next (u.setPc e))

/-! ### The console (70_reset_and_hazards.md) -/

/-- The console functions of a stopped processor whose POWER switch is ON, in a calm state; none in LOCK; STOP and RESET of a
running one, which are all that act then [D37, the model's choice: log entry 27]. PROGRAM LOAD stores the bootstrap loader
and starts it. INSTRUCTION STEP and EXECUTE run one instruction, from memory or the word that the switches gave, without an
interrupt test, and stop, the data lights any value [log entry 26]; of LEF in LEF mode, through XCT too, they are refused
(U14). The
micro-instruction step leaves the architectural machine. -/
def Obligations.ConsoleFunctions : Prop :=
  (∀ (s : State) (n : Acc), s.console.powered = true → s.console.suspended = false →
    let press (f : ConsoleFn) : State := applyInput s (.console f)
    let v := s.console.switches
    let a : Addr := v.setWidth 15
    let b := s.pc + 1
    let show' (t : State) (x : Addr) (w : Word) : State :=
      t.setConsole { s.console with addressLights := x, dataLights := w }
    let data (t : State) (w : Word) : State := t.setConsole { s.console with dataLights := w }
    (s.console.power = .lock → ∀ f, press f = s)
    ∧ (s.console.power = .on → s.run = true → press .stop = s.setConsole { s.console with stopPending := true }
      ∧ ∀ f, f ≠ .stop → f ≠ .reset → press f = s)
    ∧ (s.console.power = .on → (press .reset).ion = false ∧ (press .reset).run = false ∧ (press .reset).mask = 0
      ∧ (press .reset).map.userEn = false ∧ (press .reset).mem = s.mem ∧ (press .reset).ac n = s.ac n)
    ∧ (s.console.power = .on → s.run = false → s.endless = .none → s.calm = true →
      press .start = (s.setPc a).setRun true ∧ press .continue = s.setRun true
      ∧ press .examine = show' (s.setPc a) a (s.look a) ∧ press .examineNext = show' (s.setPc b) b (s.look b)
      ∧ press .deposit = data (s.put s.pc v) v ∧ press .depositNext = show' ((s.put b v).setPc b) b v
      ∧ press (.acDeposit n) = data (s.setAc n v) v ∧ press (.acExamine n) = data s (s.ac n)
      ∧ press .instructionStep = s.setConsole { s.console with oneShot := .step }
      ∧ press .execute = s.setConsole { s.console with oneShot := .execute v }
      ∧ press .microStep = s.setConsole { s.console with oneShot := .microStep }
      ∧ (Memory.wf s.mem = true → 32 ≤ s.cfg.memWords →
        let t := press .programLoad
        t = (((s.setMem t.mem).setPc 0).setRun true) ∧ ∀ k, k < 32 → t.look (BitVec.ofNat 15 k) = bootWords.getD k 0)))
  ∧ (∀ (s : State) (w w2 : Word) (i : Instr), s.undisturbed = true → s.endless = .none → s.run = false → s.quiet = true →
    (s.console.oneShot = .step ∧ s.readable s.pc = true ∧ w = s.look s.pc ∨ s.console.oneShot = .execute w) →
    (if s.needsSecond w then s.readable (s.pc + 1) = true ∧ w2 = s.look (s.pc + 1) else w2 = 0) →
    decode s.decodeCtx w w2 = .ok i →
    let lefOf (b : Acc) : Prop := ∃ a m, decode s.decodeCtx (s.xctWord 4 b) 0 = .ok (.lef a m)
    (∀ u, (∀ a m, i ≠ .lef a m) → (∀ b, i = .xct b → ¬lefOf b) →
      exec i (s.setConsole { s.console with oneShot := .none }) = .next u →
      u.console.suspended = false → u.endless = .none → u.cut = none → ∃ d, step s = .next (u.stoppedAfter d))
    ∧ (∀ a m, i = .lef a m → step s = .refused .consoleLef)
    ∧ (∀ b, i = .xct b → lefOf b → step s = .refused .consoleLef))
  ∧ (∀ s : State, s.undisturbed = true → s.endless = .none → s.run = false → s.console.oneShot = .microStep →
    step s = .fault .microStep)

end
end

