-- ==== Sys2Proof/Laws/Memory.lean ====
section
/-! SUPPORT. The laws of memory: a read after a write, and the canonical form kept by every write. -/

namespace Sys2Proof.Machine

/-- A byte below every listed address reads as unlisted. -/
theorem Memory.byte_of_lt (m : Memory) (n : Nat) (h : m.all (fun c => decide (n < c.1)) = true) :
    Memory.byte m n = unlistedByte := by
  cases m with
  | nil => rfl
  | cons c m =>
    obtain ⟨a, b⟩ := c
    simp only [List.all_cons, Bool.and_eq_true, decide_eq_true_eq] at h
    have h1 : n ≠ a := by omega
    simp [Memory.byte, h1, h.1]

/-- What a write leaves at every address. -/
theorem Memory.byte_setByte (m : Memory) (h : Memory.wf m = true) (n : Nat) (v : Byte) (k : Nat) :
    Memory.byte (Memory.setByte m n v) k = if k = n then v else Memory.byte m k := by
  induction m with
  | nil =>
    by_cases hv : v = unlistedByte
    · subst hv; simp [Memory.setByte, Memory.byte]
    · by_cases hk : k = n <;> simp [Memory.setByte, Memory.byte, hv, hk]
  | cons c m ih =>
    obtain ⟨a, b⟩ := c
    simp only [Memory.wf, Bool.and_eq_true] at h
    obtain ⟨⟨hb, hall⟩, hw⟩ := h
    have ih := ih hw
    have below : ∀ j, j < a → Memory.byte m j = unlistedByte := by
      intro j hj
      apply Memory.byte_of_lt
      rw [List.all_eq_true] at hall ⊢
      intro x hx
      have := hall x hx
      simp only [decide_eq_true_eq] at this ⊢
      omega
    have atA : Memory.byte m a = unlistedByte := Memory.byte_of_lt m a hall
    rcases Nat.lt_trichotomy n a with h1 | h1 | h1
    · have atN := below n h1
      have hne : n ≠ a := by omega
      by_cases hv : v = unlistedByte
      · simp only [Memory.setByte, h1, hv, if_true]
        by_cases hk : k = n
        · subst hk; simp [Memory.byte, h1, hne]
        · simp [hk]
      · simp only [Memory.setByte, h1, hv, if_true, if_false]
        by_cases hk : k = n
        · simp [Memory.byte, hk]
        · by_cases hlt : k < n
          · have : k < a := by omega
            have : k ≠ a := by omega
            simp [Memory.byte, *]
          · simp [Memory.byte, hk, hlt]
    · subst h1
      by_cases hv : v = unlistedByte
      · simp only [Memory.setByte, Nat.lt_irrefl, hv, if_true, if_false]
        by_cases hk : k = n
        · simp [hk, atA]
        · by_cases hlt : k < n
          · simp [Memory.byte, hk, hlt, below k hlt]
          · simp [Memory.byte, hk, hlt]
      · simp only [Memory.setByte, Nat.lt_irrefl, hv, if_true, if_false]
        by_cases hk : k = n <;> simp [Memory.byte, hk]
    · have h2 : ¬n < a := by omega
      have h3 : n ≠ a := by omega
      simp only [Memory.setByte, h2, h3, if_false, Memory.byte, ih]
      by_cases hk : k = n
      · simp [hk, h3, h2]
      · simp [hk]

/-- A write lists no address that was not listed but its own. -/
theorem Memory.all_setByte (p : Nat → Bool) (m : Memory) (n : Nat) (v : Byte) (hn : p n = true)
    (h : m.all (fun c => p c.1) = true) : (Memory.setByte m n v).all (fun c => p c.1) = true := by
  induction m with
  | nil => by_cases hv : v = unlistedByte <;> simp [Memory.setByte, hv, hn]
  | cons c m ih =>
    obtain ⟨a, b⟩ := c
    simp only [List.all_cons, Bool.and_eq_true] at h
    simp only [Memory.setByte]
    split_ifs
    all_goals simp [List.all_cons, h.1, h.2, hn, ih h.2]

/-- A write keeps the canonical form. -/
theorem Memory.wf_setByte (m : Memory) (h : Memory.wf m = true) (n : Nat) (v : Byte) :
    Memory.wf (Memory.setByte m n v) = true := by
  induction m with
  | nil => by_cases hv : v = unlistedByte <;> simp [Memory.setByte, Memory.wf, hv]
  | cons c m ih =>
    obtain ⟨a, b⟩ := c
    have h0 := h
    simp only [Memory.wf, Bool.and_eq_true] at h
    obtain ⟨⟨hb, hall⟩, hw⟩ := h
    simp only [Memory.setByte]
    split_ifs with h1 h2 h3 h4
    · exact h0
    · have all' : m.all (fun c => decide (n < c.1)) = true := by
        rw [List.all_eq_true] at hall ⊢
        intro x hx
        have := hall x hx
        simp only [decide_eq_true_eq] at this ⊢
        omega
      simp [Memory.wf, List.all_cons, h1, h2, hb, hall, hw, all']
    · exact hw
    · simp [Memory.wf, hall, hw, h4]
    · have hlt : a < n := by omega
      have := Memory.all_setByte (fun x => decide (a < x)) m n v (by simpa using hlt) hall
      simp [Memory.wf, hb, ih hw, this]

/-- What a word write leaves at every byte address. -/
theorem Memory.byte_setWord (m : Memory) (h : Memory.wf m = true) (w : Nat) (v : Word) (k : Nat) :
    Memory.byte (Memory.setWord m w v) k =
      if k = 2 * w + 1 then loByte v else if k = 2 * w then hiByte v else Memory.byte m k := by
  simp [Memory.setWord, Memory.byte_setByte, Memory.wf_setByte, h]

/-- A word write keeps the canonical form. -/
theorem Memory.wf_setWord (m : Memory) (h : Memory.wf m = true) (w : Nat) (v : Word) :
    Memory.wf (Memory.setWord m w v) = true :=
  Memory.wf_setByte _ (Memory.wf_setByte m h _ _) _ _

/-- A word write keeps a bound on the listed addresses. -/
theorem Memory.bound_setWord (m : Memory) (w k : Nat) (v : Word) (hw : w < k)
    (h : m.all (fun c => decide (c.1 < 2 * k)) = true) :
    (Memory.setWord m w v).all (fun c => decide (c.1 < 2 * k)) = true := by
  unfold Memory.setWord
  apply Memory.all_setByte (fun x => decide (x < 2 * k)) _ _ _ (by simp; omega)
  exact Memory.all_setByte (fun x => decide (x < 2 * k)) _ _ _ (by simp; omega) h

/-- A word of two bytes has those bytes (20_memory.md R61). -/
theorem wordOfBytes_hi_lo (v : Word) : wordOfBytes (hiByte v) (loByte v) = v := by
  apply BitVec.eq_of_getLsbD_eq
  intro i hi
  simp only [wordOfBytes, hiByte, loByte, fld, BitVec.getLsbD_append, BitVec.getLsbD_extractLsb']
  by_cases h : i < 8
  · simp [h]
  · simp [h, (by omega : 8 + (i - 8) = i), (by omega : i - 8 < 8)]

/-- A word write is read back. -/
theorem Memory.word_setWord_same (m : Memory) (h : Memory.wf m = true) (w : Nat) (v : Word) :
    Memory.word (Memory.setWord m w v) w = v := by
  simp [Memory.word, Memory.byte_setWord, h, wordOfBytes_hi_lo]

/-- A word write leaves every other word alone. -/
theorem Memory.word_setWord_other (m : Memory) (h : Memory.wf m = true) (w u : Nat) (v : Word) (hu : u ≠ w) :
    Memory.word (Memory.setWord m w v) u = Memory.word m u := by
  simp only [Memory.word, Memory.byte_setWord _ h]
  have h1 : ¬(2 * u = 2 * w + 1) := by omega
  have h2 : ¬(2 * u = 2 * w) := by omega
  have h3 : ¬(2 * u + 1 = 2 * w) := by omega
  simp [h1, h2, h3]

end Sys2Proof.Machine
end

