-- ==== Sys2Proof/Laws/State.lean ====
section
/-! SUPPORT. What each field of the state reads as after each named update: one lemma per field per
update, so that no later proof unfolds a record update. -/

namespace Sys2Proof.Machine

@[simp] theorem State.setAc0_cfg (s : State) (v : Word) : (s.setAc0 v).cfg = s.cfg := rfl
@[simp] theorem State.setAc0_ac0 (s : State) (v : Word) : (s.setAc0 v).ac0 = v := rfl
@[simp] theorem State.setAc0_ac1 (s : State) (v : Word) : (s.setAc0 v).ac1 = s.ac1 := rfl
@[simp] theorem State.setAc0_ac2 (s : State) (v : Word) : (s.setAc0 v).ac2 = s.ac2 := rfl
@[simp] theorem State.setAc0_ac3 (s : State) (v : Word) : (s.setAc0 v).ac3 = s.ac3 := rfl
@[simp] theorem State.setAc0_carry (s : State) (v : Word) : (s.setAc0 v).carry = s.carry := rfl
@[simp] theorem State.setAc0_pc (s : State) (v : Word) : (s.setAc0 v).pc = s.pc := rfl
@[simp] theorem State.setAc0_fpac0 (s : State) (v : Word) : (s.setAc0 v).fpac0 = s.fpac0 := rfl
@[simp] theorem State.setAc0_fpac1 (s : State) (v : Word) : (s.setAc0 v).fpac1 = s.fpac1 := rfl
@[simp] theorem State.setAc0_fpac2 (s : State) (v : Word) : (s.setAc0 v).fpac2 = s.fpac2 := rfl
@[simp] theorem State.setAc0_fpac3 (s : State) (v : Word) : (s.setAc0 v).fpac3 = s.fpac3 := rfl
@[simp] theorem State.setAc0_fpsr (s : State) (v : Word) : (s.setAc0 v).fpsr = s.fpsr := rfl
@[simp] theorem State.setAc0_ion (s : State) (v : Word) : (s.setAc0 v).ion = s.ion := rfl
@[simp] theorem State.setAc0_mask (s : State) (v : Word) : (s.setAc0 v).mask = s.mask := rfl
@[simp] theorem State.setAc0_pwrFail (s : State) (v : Word) : (s.setAc0 v).pwrFail = s.pwrFail := rfl
@[simp] theorem State.setAc0_run (s : State) (v : Word) : (s.setAc0 v).run = s.run := rfl
@[simp] theorem State.setAc0_ionDelay (s : State) (v : Word) : (s.setAc0 v).ionDelay = s.ionDelay := rfl
@[simp] theorem State.setAc0_sycHold (s : State) (v : Word) : (s.setAc0 v).sycHold = s.sycHold := rfl
@[simp] theorem State.setAc0_userHold (s : State) (v : Word) : (s.setAc0 v).userHold = s.userHold := rfl
@[simp] theorem State.setAc0_endless (s : State) (v : Word) : (s.setAc0 v).endless = s.endless := rfl
@[simp] theorem State.setAc0_map (s : State) (v : Word) : (s.setAc0 v).map = s.map := rfl
@[simp] theorem State.setAc0_ercc (s : State) (v : Word) : (s.setAc0 v).ercc = s.ercc := rfl
@[simp] theorem State.setAc0_rtc (s : State) (v : Word) : (s.setAc0 v).rtc = s.rtc := rfl
@[simp] theorem State.setAc0_wcs (s : State) (v : Word) : (s.setAc0 v).wcs = s.wcs := rfl
@[simp] theorem State.setAc0_devices (s : State) (v : Word) : (s.setAc0 v).devices = s.devices := rfl
@[simp] theorem State.setAc0_dchQueue (s : State) (v : Word) : (s.setAc0 v).dchQueue = s.dchQueue := rfl
@[simp] theorem State.setAc0_console (s : State) (v : Word) : (s.setAc0 v).console = s.console := rfl
@[simp] theorem State.setAc0_inputs (s : State) (v : Word) : (s.setAc0 v).inputs = s.inputs := rfl
@[simp] theorem State.setAc0_free (s : State) (v : Word) : (s.setAc0 v).free = s.free := rfl
@[simp] theorem State.setAc0_cut (s : State) (v : Word) : (s.setAc0 v).cut = s.cut := rfl
@[simp] theorem State.setAc0_mem (s : State) (v : Word) : (s.setAc0 v).mem = s.mem := rfl
@[simp] theorem State.setAc1_cfg (s : State) (v : Word) : (s.setAc1 v).cfg = s.cfg := rfl
@[simp] theorem State.setAc1_ac0 (s : State) (v : Word) : (s.setAc1 v).ac0 = s.ac0 := rfl
@[simp] theorem State.setAc1_ac1 (s : State) (v : Word) : (s.setAc1 v).ac1 = v := rfl
@[simp] theorem State.setAc1_ac2 (s : State) (v : Word) : (s.setAc1 v).ac2 = s.ac2 := rfl
@[simp] theorem State.setAc1_ac3 (s : State) (v : Word) : (s.setAc1 v).ac3 = s.ac3 := rfl
@[simp] theorem State.setAc1_carry (s : State) (v : Word) : (s.setAc1 v).carry = s.carry := rfl
@[simp] theorem State.setAc1_pc (s : State) (v : Word) : (s.setAc1 v).pc = s.pc := rfl
@[simp] theorem State.setAc1_fpac0 (s : State) (v : Word) : (s.setAc1 v).fpac0 = s.fpac0 := rfl
@[simp] theorem State.setAc1_fpac1 (s : State) (v : Word) : (s.setAc1 v).fpac1 = s.fpac1 := rfl
@[simp] theorem State.setAc1_fpac2 (s : State) (v : Word) : (s.setAc1 v).fpac2 = s.fpac2 := rfl
@[simp] theorem State.setAc1_fpac3 (s : State) (v : Word) : (s.setAc1 v).fpac3 = s.fpac3 := rfl
@[simp] theorem State.setAc1_fpsr (s : State) (v : Word) : (s.setAc1 v).fpsr = s.fpsr := rfl
@[simp] theorem State.setAc1_ion (s : State) (v : Word) : (s.setAc1 v).ion = s.ion := rfl
@[simp] theorem State.setAc1_mask (s : State) (v : Word) : (s.setAc1 v).mask = s.mask := rfl
@[simp] theorem State.setAc1_pwrFail (s : State) (v : Word) : (s.setAc1 v).pwrFail = s.pwrFail := rfl
@[simp] theorem State.setAc1_run (s : State) (v : Word) : (s.setAc1 v).run = s.run := rfl
@[simp] theorem State.setAc1_ionDelay (s : State) (v : Word) : (s.setAc1 v).ionDelay = s.ionDelay := rfl
@[simp] theorem State.setAc1_sycHold (s : State) (v : Word) : (s.setAc1 v).sycHold = s.sycHold := rfl
@[simp] theorem State.setAc1_userHold (s : State) (v : Word) : (s.setAc1 v).userHold = s.userHold := rfl
@[simp] theorem State.setAc1_endless (s : State) (v : Word) : (s.setAc1 v).endless = s.endless := rfl
@[simp] theorem State.setAc1_map (s : State) (v : Word) : (s.setAc1 v).map = s.map := rfl
@[simp] theorem State.setAc1_ercc (s : State) (v : Word) : (s.setAc1 v).ercc = s.ercc := rfl
@[simp] theorem State.setAc1_rtc (s : State) (v : Word) : (s.setAc1 v).rtc = s.rtc := rfl
@[simp] theorem State.setAc1_wcs (s : State) (v : Word) : (s.setAc1 v).wcs = s.wcs := rfl
@[simp] theorem State.setAc1_devices (s : State) (v : Word) : (s.setAc1 v).devices = s.devices := rfl
@[simp] theorem State.setAc1_dchQueue (s : State) (v : Word) : (s.setAc1 v).dchQueue = s.dchQueue := rfl
@[simp] theorem State.setAc1_console (s : State) (v : Word) : (s.setAc1 v).console = s.console := rfl
@[simp] theorem State.setAc1_inputs (s : State) (v : Word) : (s.setAc1 v).inputs = s.inputs := rfl
@[simp] theorem State.setAc1_free (s : State) (v : Word) : (s.setAc1 v).free = s.free := rfl
@[simp] theorem State.setAc1_cut (s : State) (v : Word) : (s.setAc1 v).cut = s.cut := rfl
@[simp] theorem State.setAc1_mem (s : State) (v : Word) : (s.setAc1 v).mem = s.mem := rfl
@[simp] theorem State.setAc2_cfg (s : State) (v : Word) : (s.setAc2 v).cfg = s.cfg := rfl
@[simp] theorem State.setAc2_ac0 (s : State) (v : Word) : (s.setAc2 v).ac0 = s.ac0 := rfl
@[simp] theorem State.setAc2_ac1 (s : State) (v : Word) : (s.setAc2 v).ac1 = s.ac1 := rfl
@[simp] theorem State.setAc2_ac2 (s : State) (v : Word) : (s.setAc2 v).ac2 = v := rfl
@[simp] theorem State.setAc2_ac3 (s : State) (v : Word) : (s.setAc2 v).ac3 = s.ac3 := rfl
@[simp] theorem State.setAc2_carry (s : State) (v : Word) : (s.setAc2 v).carry = s.carry := rfl
@[simp] theorem State.setAc2_pc (s : State) (v : Word) : (s.setAc2 v).pc = s.pc := rfl
@[simp] theorem State.setAc2_fpac0 (s : State) (v : Word) : (s.setAc2 v).fpac0 = s.fpac0 := rfl
@[simp] theorem State.setAc2_fpac1 (s : State) (v : Word) : (s.setAc2 v).fpac1 = s.fpac1 := rfl
@[simp] theorem State.setAc2_fpac2 (s : State) (v : Word) : (s.setAc2 v).fpac2 = s.fpac2 := rfl
@[simp] theorem State.setAc2_fpac3 (s : State) (v : Word) : (s.setAc2 v).fpac3 = s.fpac3 := rfl
@[simp] theorem State.setAc2_fpsr (s : State) (v : Word) : (s.setAc2 v).fpsr = s.fpsr := rfl
@[simp] theorem State.setAc2_ion (s : State) (v : Word) : (s.setAc2 v).ion = s.ion := rfl
@[simp] theorem State.setAc2_mask (s : State) (v : Word) : (s.setAc2 v).mask = s.mask := rfl
@[simp] theorem State.setAc2_pwrFail (s : State) (v : Word) : (s.setAc2 v).pwrFail = s.pwrFail := rfl
@[simp] theorem State.setAc2_run (s : State) (v : Word) : (s.setAc2 v).run = s.run := rfl
@[simp] theorem State.setAc2_ionDelay (s : State) (v : Word) : (s.setAc2 v).ionDelay = s.ionDelay := rfl
@[simp] theorem State.setAc2_sycHold (s : State) (v : Word) : (s.setAc2 v).sycHold = s.sycHold := rfl
@[simp] theorem State.setAc2_userHold (s : State) (v : Word) : (s.setAc2 v).userHold = s.userHold := rfl
@[simp] theorem State.setAc2_endless (s : State) (v : Word) : (s.setAc2 v).endless = s.endless := rfl
@[simp] theorem State.setAc2_map (s : State) (v : Word) : (s.setAc2 v).map = s.map := rfl
@[simp] theorem State.setAc2_ercc (s : State) (v : Word) : (s.setAc2 v).ercc = s.ercc := rfl
@[simp] theorem State.setAc2_rtc (s : State) (v : Word) : (s.setAc2 v).rtc = s.rtc := rfl
@[simp] theorem State.setAc2_wcs (s : State) (v : Word) : (s.setAc2 v).wcs = s.wcs := rfl
@[simp] theorem State.setAc2_devices (s : State) (v : Word) : (s.setAc2 v).devices = s.devices := rfl
@[simp] theorem State.setAc2_dchQueue (s : State) (v : Word) : (s.setAc2 v).dchQueue = s.dchQueue := rfl
@[simp] theorem State.setAc2_console (s : State) (v : Word) : (s.setAc2 v).console = s.console := rfl
@[simp] theorem State.setAc2_inputs (s : State) (v : Word) : (s.setAc2 v).inputs = s.inputs := rfl
@[simp] theorem State.setAc2_free (s : State) (v : Word) : (s.setAc2 v).free = s.free := rfl
@[simp] theorem State.setAc2_cut (s : State) (v : Word) : (s.setAc2 v).cut = s.cut := rfl
@[simp] theorem State.setAc2_mem (s : State) (v : Word) : (s.setAc2 v).mem = s.mem := rfl
@[simp] theorem State.setAc3_cfg (s : State) (v : Word) : (s.setAc3 v).cfg = s.cfg := rfl
@[simp] theorem State.setAc3_ac0 (s : State) (v : Word) : (s.setAc3 v).ac0 = s.ac0 := rfl
@[simp] theorem State.setAc3_ac1 (s : State) (v : Word) : (s.setAc3 v).ac1 = s.ac1 := rfl
@[simp] theorem State.setAc3_ac2 (s : State) (v : Word) : (s.setAc3 v).ac2 = s.ac2 := rfl
@[simp] theorem State.setAc3_ac3 (s : State) (v : Word) : (s.setAc3 v).ac3 = v := rfl
@[simp] theorem State.setAc3_carry (s : State) (v : Word) : (s.setAc3 v).carry = s.carry := rfl
@[simp] theorem State.setAc3_pc (s : State) (v : Word) : (s.setAc3 v).pc = s.pc := rfl
@[simp] theorem State.setAc3_fpac0 (s : State) (v : Word) : (s.setAc3 v).fpac0 = s.fpac0 := rfl
@[simp] theorem State.setAc3_fpac1 (s : State) (v : Word) : (s.setAc3 v).fpac1 = s.fpac1 := rfl
@[simp] theorem State.setAc3_fpac2 (s : State) (v : Word) : (s.setAc3 v).fpac2 = s.fpac2 := rfl
@[simp] theorem State.setAc3_fpac3 (s : State) (v : Word) : (s.setAc3 v).fpac3 = s.fpac3 := rfl
@[simp] theorem State.setAc3_fpsr (s : State) (v : Word) : (s.setAc3 v).fpsr = s.fpsr := rfl
@[simp] theorem State.setAc3_ion (s : State) (v : Word) : (s.setAc3 v).ion = s.ion := rfl
@[simp] theorem State.setAc3_mask (s : State) (v : Word) : (s.setAc3 v).mask = s.mask := rfl
@[simp] theorem State.setAc3_pwrFail (s : State) (v : Word) : (s.setAc3 v).pwrFail = s.pwrFail := rfl
@[simp] theorem State.setAc3_run (s : State) (v : Word) : (s.setAc3 v).run = s.run := rfl
@[simp] theorem State.setAc3_ionDelay (s : State) (v : Word) : (s.setAc3 v).ionDelay = s.ionDelay := rfl
@[simp] theorem State.setAc3_sycHold (s : State) (v : Word) : (s.setAc3 v).sycHold = s.sycHold := rfl
@[simp] theorem State.setAc3_userHold (s : State) (v : Word) : (s.setAc3 v).userHold = s.userHold := rfl
@[simp] theorem State.setAc3_endless (s : State) (v : Word) : (s.setAc3 v).endless = s.endless := rfl
@[simp] theorem State.setAc3_map (s : State) (v : Word) : (s.setAc3 v).map = s.map := rfl
@[simp] theorem State.setAc3_ercc (s : State) (v : Word) : (s.setAc3 v).ercc = s.ercc := rfl
@[simp] theorem State.setAc3_rtc (s : State) (v : Word) : (s.setAc3 v).rtc = s.rtc := rfl
@[simp] theorem State.setAc3_wcs (s : State) (v : Word) : (s.setAc3 v).wcs = s.wcs := rfl
@[simp] theorem State.setAc3_devices (s : State) (v : Word) : (s.setAc3 v).devices = s.devices := rfl
@[simp] theorem State.setAc3_dchQueue (s : State) (v : Word) : (s.setAc3 v).dchQueue = s.dchQueue := rfl
@[simp] theorem State.setAc3_console (s : State) (v : Word) : (s.setAc3 v).console = s.console := rfl
@[simp] theorem State.setAc3_inputs (s : State) (v : Word) : (s.setAc3 v).inputs = s.inputs := rfl
@[simp] theorem State.setAc3_free (s : State) (v : Word) : (s.setAc3 v).free = s.free := rfl
@[simp] theorem State.setAc3_cut (s : State) (v : Word) : (s.setAc3 v).cut = s.cut := rfl
@[simp] theorem State.setAc3_mem (s : State) (v : Word) : (s.setAc3 v).mem = s.mem := rfl
@[simp] theorem State.setCarry_cfg (s : State) (v : Bool) : (s.setCarry v).cfg = s.cfg := rfl
@[simp] theorem State.setCarry_ac0 (s : State) (v : Bool) : (s.setCarry v).ac0 = s.ac0 := rfl
@[simp] theorem State.setCarry_ac1 (s : State) (v : Bool) : (s.setCarry v).ac1 = s.ac1 := rfl
@[simp] theorem State.setCarry_ac2 (s : State) (v : Bool) : (s.setCarry v).ac2 = s.ac2 := rfl
@[simp] theorem State.setCarry_ac3 (s : State) (v : Bool) : (s.setCarry v).ac3 = s.ac3 := rfl
@[simp] theorem State.setCarry_carry (s : State) (v : Bool) : (s.setCarry v).carry = v := rfl
@[simp] theorem State.setCarry_pc (s : State) (v : Bool) : (s.setCarry v).pc = s.pc := rfl
@[simp] theorem State.setCarry_fpac0 (s : State) (v : Bool) : (s.setCarry v).fpac0 = s.fpac0 := rfl
@[simp] theorem State.setCarry_fpac1 (s : State) (v : Bool) : (s.setCarry v).fpac1 = s.fpac1 := rfl
@[simp] theorem State.setCarry_fpac2 (s : State) (v : Bool) : (s.setCarry v).fpac2 = s.fpac2 := rfl
@[simp] theorem State.setCarry_fpac3 (s : State) (v : Bool) : (s.setCarry v).fpac3 = s.fpac3 := rfl
@[simp] theorem State.setCarry_fpsr (s : State) (v : Bool) : (s.setCarry v).fpsr = s.fpsr := rfl
@[simp] theorem State.setCarry_ion (s : State) (v : Bool) : (s.setCarry v).ion = s.ion := rfl
@[simp] theorem State.setCarry_mask (s : State) (v : Bool) : (s.setCarry v).mask = s.mask := rfl
@[simp] theorem State.setCarry_pwrFail (s : State) (v : Bool) : (s.setCarry v).pwrFail = s.pwrFail := rfl
@[simp] theorem State.setCarry_run (s : State) (v : Bool) : (s.setCarry v).run = s.run := rfl
@[simp] theorem State.setCarry_ionDelay (s : State) (v : Bool) : (s.setCarry v).ionDelay = s.ionDelay := rfl
@[simp] theorem State.setCarry_sycHold (s : State) (v : Bool) : (s.setCarry v).sycHold = s.sycHold := rfl
@[simp] theorem State.setCarry_userHold (s : State) (v : Bool) : (s.setCarry v).userHold = s.userHold := rfl
@[simp] theorem State.setCarry_endless (s : State) (v : Bool) : (s.setCarry v).endless = s.endless := rfl
@[simp] theorem State.setCarry_map (s : State) (v : Bool) : (s.setCarry v).map = s.map := rfl
@[simp] theorem State.setCarry_ercc (s : State) (v : Bool) : (s.setCarry v).ercc = s.ercc := rfl
@[simp] theorem State.setCarry_rtc (s : State) (v : Bool) : (s.setCarry v).rtc = s.rtc := rfl
@[simp] theorem State.setCarry_wcs (s : State) (v : Bool) : (s.setCarry v).wcs = s.wcs := rfl
@[simp] theorem State.setCarry_devices (s : State) (v : Bool) : (s.setCarry v).devices = s.devices := rfl
@[simp] theorem State.setCarry_dchQueue (s : State) (v : Bool) : (s.setCarry v).dchQueue = s.dchQueue := rfl
@[simp] theorem State.setCarry_console (s : State) (v : Bool) : (s.setCarry v).console = s.console := rfl
@[simp] theorem State.setCarry_inputs (s : State) (v : Bool) : (s.setCarry v).inputs = s.inputs := rfl
@[simp] theorem State.setCarry_free (s : State) (v : Bool) : (s.setCarry v).free = s.free := rfl
@[simp] theorem State.setCarry_cut (s : State) (v : Bool) : (s.setCarry v).cut = s.cut := rfl
@[simp] theorem State.setCarry_mem (s : State) (v : Bool) : (s.setCarry v).mem = s.mem := rfl
@[simp] theorem State.setPc_cfg (s : State) (v : Addr) : (s.setPc v).cfg = s.cfg := rfl
@[simp] theorem State.setPc_ac0 (s : State) (v : Addr) : (s.setPc v).ac0 = s.ac0 := rfl
@[simp] theorem State.setPc_ac1 (s : State) (v : Addr) : (s.setPc v).ac1 = s.ac1 := rfl
@[simp] theorem State.setPc_ac2 (s : State) (v : Addr) : (s.setPc v).ac2 = s.ac2 := rfl
@[simp] theorem State.setPc_ac3 (s : State) (v : Addr) : (s.setPc v).ac3 = s.ac3 := rfl
@[simp] theorem State.setPc_carry (s : State) (v : Addr) : (s.setPc v).carry = s.carry := rfl
@[simp] theorem State.setPc_pc (s : State) (v : Addr) : (s.setPc v).pc = v := rfl
@[simp] theorem State.setPc_fpac0 (s : State) (v : Addr) : (s.setPc v).fpac0 = s.fpac0 := rfl
@[simp] theorem State.setPc_fpac1 (s : State) (v : Addr) : (s.setPc v).fpac1 = s.fpac1 := rfl
@[simp] theorem State.setPc_fpac2 (s : State) (v : Addr) : (s.setPc v).fpac2 = s.fpac2 := rfl
@[simp] theorem State.setPc_fpac3 (s : State) (v : Addr) : (s.setPc v).fpac3 = s.fpac3 := rfl
@[simp] theorem State.setPc_fpsr (s : State) (v : Addr) : (s.setPc v).fpsr = s.fpsr := rfl
@[simp] theorem State.setPc_ion (s : State) (v : Addr) : (s.setPc v).ion = s.ion := rfl
@[simp] theorem State.setPc_mask (s : State) (v : Addr) : (s.setPc v).mask = s.mask := rfl
@[simp] theorem State.setPc_pwrFail (s : State) (v : Addr) : (s.setPc v).pwrFail = s.pwrFail := rfl
@[simp] theorem State.setPc_run (s : State) (v : Addr) : (s.setPc v).run = s.run := rfl
@[simp] theorem State.setPc_ionDelay (s : State) (v : Addr) : (s.setPc v).ionDelay = s.ionDelay := rfl
@[simp] theorem State.setPc_sycHold (s : State) (v : Addr) : (s.setPc v).sycHold = s.sycHold := rfl
@[simp] theorem State.setPc_userHold (s : State) (v : Addr) : (s.setPc v).userHold = s.userHold := rfl
@[simp] theorem State.setPc_endless (s : State) (v : Addr) : (s.setPc v).endless = s.endless := rfl
@[simp] theorem State.setPc_map (s : State) (v : Addr) : (s.setPc v).map = s.map := rfl
@[simp] theorem State.setPc_ercc (s : State) (v : Addr) : (s.setPc v).ercc = s.ercc := rfl
@[simp] theorem State.setPc_rtc (s : State) (v : Addr) : (s.setPc v).rtc = s.rtc := rfl
@[simp] theorem State.setPc_wcs (s : State) (v : Addr) : (s.setPc v).wcs = s.wcs := rfl
@[simp] theorem State.setPc_devices (s : State) (v : Addr) : (s.setPc v).devices = s.devices := rfl
@[simp] theorem State.setPc_dchQueue (s : State) (v : Addr) : (s.setPc v).dchQueue = s.dchQueue := rfl
@[simp] theorem State.setPc_console (s : State) (v : Addr) : (s.setPc v).console = s.console := rfl
@[simp] theorem State.setPc_inputs (s : State) (v : Addr) : (s.setPc v).inputs = s.inputs := rfl
@[simp] theorem State.setPc_free (s : State) (v : Addr) : (s.setPc v).free = s.free := rfl
@[simp] theorem State.setPc_cut (s : State) (v : Addr) : (s.setPc v).cut = s.cut := rfl
@[simp] theorem State.setPc_mem (s : State) (v : Addr) : (s.setPc v).mem = s.mem := rfl
@[simp] theorem State.setFpac0_cfg (s : State) (v : Quad) : (s.setFpac0 v).cfg = s.cfg := rfl
@[simp] theorem State.setFpac0_ac0 (s : State) (v : Quad) : (s.setFpac0 v).ac0 = s.ac0 := rfl
@[simp] theorem State.setFpac0_ac1 (s : State) (v : Quad) : (s.setFpac0 v).ac1 = s.ac1 := rfl
@[simp] theorem State.setFpac0_ac2 (s : State) (v : Quad) : (s.setFpac0 v).ac2 = s.ac2 := rfl
@[simp] theorem State.setFpac0_ac3 (s : State) (v : Quad) : (s.setFpac0 v).ac3 = s.ac3 := rfl
@[simp] theorem State.setFpac0_carry (s : State) (v : Quad) : (s.setFpac0 v).carry = s.carry := rfl
@[simp] theorem State.setFpac0_pc (s : State) (v : Quad) : (s.setFpac0 v).pc = s.pc := rfl
@[simp] theorem State.setFpac0_fpac0 (s : State) (v : Quad) : (s.setFpac0 v).fpac0 = v := rfl
@[simp] theorem State.setFpac0_fpac1 (s : State) (v : Quad) : (s.setFpac0 v).fpac1 = s.fpac1 := rfl
@[simp] theorem State.setFpac0_fpac2 (s : State) (v : Quad) : (s.setFpac0 v).fpac2 = s.fpac2 := rfl
@[simp] theorem State.setFpac0_fpac3 (s : State) (v : Quad) : (s.setFpac0 v).fpac3 = s.fpac3 := rfl
@[simp] theorem State.setFpac0_fpsr (s : State) (v : Quad) : (s.setFpac0 v).fpsr = s.fpsr := rfl
@[simp] theorem State.setFpac0_ion (s : State) (v : Quad) : (s.setFpac0 v).ion = s.ion := rfl
@[simp] theorem State.setFpac0_mask (s : State) (v : Quad) : (s.setFpac0 v).mask = s.mask := rfl
@[simp] theorem State.setFpac0_pwrFail (s : State) (v : Quad) : (s.setFpac0 v).pwrFail = s.pwrFail := rfl
@[simp] theorem State.setFpac0_run (s : State) (v : Quad) : (s.setFpac0 v).run = s.run := rfl
@[simp] theorem State.setFpac0_ionDelay (s : State) (v : Quad) : (s.setFpac0 v).ionDelay = s.ionDelay := rfl
@[simp] theorem State.setFpac0_sycHold (s : State) (v : Quad) : (s.setFpac0 v).sycHold = s.sycHold := rfl
@[simp] theorem State.setFpac0_userHold (s : State) (v : Quad) : (s.setFpac0 v).userHold = s.userHold := rfl
@[simp] theorem State.setFpac0_endless (s : State) (v : Quad) : (s.setFpac0 v).endless = s.endless := rfl
@[simp] theorem State.setFpac0_map (s : State) (v : Quad) : (s.setFpac0 v).map = s.map := rfl
@[simp] theorem State.setFpac0_ercc (s : State) (v : Quad) : (s.setFpac0 v).ercc = s.ercc := rfl
@[simp] theorem State.setFpac0_rtc (s : State) (v : Quad) : (s.setFpac0 v).rtc = s.rtc := rfl
@[simp] theorem State.setFpac0_wcs (s : State) (v : Quad) : (s.setFpac0 v).wcs = s.wcs := rfl
@[simp] theorem State.setFpac0_devices (s : State) (v : Quad) : (s.setFpac0 v).devices = s.devices := rfl
@[simp] theorem State.setFpac0_dchQueue (s : State) (v : Quad) : (s.setFpac0 v).dchQueue = s.dchQueue := rfl
@[simp] theorem State.setFpac0_console (s : State) (v : Quad) : (s.setFpac0 v).console = s.console := rfl
@[simp] theorem State.setFpac0_inputs (s : State) (v : Quad) : (s.setFpac0 v).inputs = s.inputs := rfl
@[simp] theorem State.setFpac0_free (s : State) (v : Quad) : (s.setFpac0 v).free = s.free := rfl
@[simp] theorem State.setFpac0_cut (s : State) (v : Quad) : (s.setFpac0 v).cut = s.cut := rfl
@[simp] theorem State.setFpac0_mem (s : State) (v : Quad) : (s.setFpac0 v).mem = s.mem := rfl
@[simp] theorem State.setFpac1_cfg (s : State) (v : Quad) : (s.setFpac1 v).cfg = s.cfg := rfl
@[simp] theorem State.setFpac1_ac0 (s : State) (v : Quad) : (s.setFpac1 v).ac0 = s.ac0 := rfl
@[simp] theorem State.setFpac1_ac1 (s : State) (v : Quad) : (s.setFpac1 v).ac1 = s.ac1 := rfl
@[simp] theorem State.setFpac1_ac2 (s : State) (v : Quad) : (s.setFpac1 v).ac2 = s.ac2 := rfl
@[simp] theorem State.setFpac1_ac3 (s : State) (v : Quad) : (s.setFpac1 v).ac3 = s.ac3 := rfl
@[simp] theorem State.setFpac1_carry (s : State) (v : Quad) : (s.setFpac1 v).carry = s.carry := rfl
@[simp] theorem State.setFpac1_pc (s : State) (v : Quad) : (s.setFpac1 v).pc = s.pc := rfl
@[simp] theorem State.setFpac1_fpac0 (s : State) (v : Quad) : (s.setFpac1 v).fpac0 = s.fpac0 := rfl
@[simp] theorem State.setFpac1_fpac1 (s : State) (v : Quad) : (s.setFpac1 v).fpac1 = v := rfl
@[simp] theorem State.setFpac1_fpac2 (s : State) (v : Quad) : (s.setFpac1 v).fpac2 = s.fpac2 := rfl
@[simp] theorem State.setFpac1_fpac3 (s : State) (v : Quad) : (s.setFpac1 v).fpac3 = s.fpac3 := rfl
@[simp] theorem State.setFpac1_fpsr (s : State) (v : Quad) : (s.setFpac1 v).fpsr = s.fpsr := rfl
@[simp] theorem State.setFpac1_ion (s : State) (v : Quad) : (s.setFpac1 v).ion = s.ion := rfl
@[simp] theorem State.setFpac1_mask (s : State) (v : Quad) : (s.setFpac1 v).mask = s.mask := rfl
@[simp] theorem State.setFpac1_pwrFail (s : State) (v : Quad) : (s.setFpac1 v).pwrFail = s.pwrFail := rfl
@[simp] theorem State.setFpac1_run (s : State) (v : Quad) : (s.setFpac1 v).run = s.run := rfl
@[simp] theorem State.setFpac1_ionDelay (s : State) (v : Quad) : (s.setFpac1 v).ionDelay = s.ionDelay := rfl
@[simp] theorem State.setFpac1_sycHold (s : State) (v : Quad) : (s.setFpac1 v).sycHold = s.sycHold := rfl
@[simp] theorem State.setFpac1_userHold (s : State) (v : Quad) : (s.setFpac1 v).userHold = s.userHold := rfl
@[simp] theorem State.setFpac1_endless (s : State) (v : Quad) : (s.setFpac1 v).endless = s.endless := rfl
@[simp] theorem State.setFpac1_map (s : State) (v : Quad) : (s.setFpac1 v).map = s.map := rfl
@[simp] theorem State.setFpac1_ercc (s : State) (v : Quad) : (s.setFpac1 v).ercc = s.ercc := rfl
@[simp] theorem State.setFpac1_rtc (s : State) (v : Quad) : (s.setFpac1 v).rtc = s.rtc := rfl
@[simp] theorem State.setFpac1_wcs (s : State) (v : Quad) : (s.setFpac1 v).wcs = s.wcs := rfl
@[simp] theorem State.setFpac1_devices (s : State) (v : Quad) : (s.setFpac1 v).devices = s.devices := rfl
@[simp] theorem State.setFpac1_dchQueue (s : State) (v : Quad) : (s.setFpac1 v).dchQueue = s.dchQueue := rfl
@[simp] theorem State.setFpac1_console (s : State) (v : Quad) : (s.setFpac1 v).console = s.console := rfl
@[simp] theorem State.setFpac1_inputs (s : State) (v : Quad) : (s.setFpac1 v).inputs = s.inputs := rfl
@[simp] theorem State.setFpac1_free (s : State) (v : Quad) : (s.setFpac1 v).free = s.free := rfl
@[simp] theorem State.setFpac1_cut (s : State) (v : Quad) : (s.setFpac1 v).cut = s.cut := rfl
@[simp] theorem State.setFpac1_mem (s : State) (v : Quad) : (s.setFpac1 v).mem = s.mem := rfl
@[simp] theorem State.setFpac2_cfg (s : State) (v : Quad) : (s.setFpac2 v).cfg = s.cfg := rfl
@[simp] theorem State.setFpac2_ac0 (s : State) (v : Quad) : (s.setFpac2 v).ac0 = s.ac0 := rfl
@[simp] theorem State.setFpac2_ac1 (s : State) (v : Quad) : (s.setFpac2 v).ac1 = s.ac1 := rfl
@[simp] theorem State.setFpac2_ac2 (s : State) (v : Quad) : (s.setFpac2 v).ac2 = s.ac2 := rfl
@[simp] theorem State.setFpac2_ac3 (s : State) (v : Quad) : (s.setFpac2 v).ac3 = s.ac3 := rfl
@[simp] theorem State.setFpac2_carry (s : State) (v : Quad) : (s.setFpac2 v).carry = s.carry := rfl
@[simp] theorem State.setFpac2_pc (s : State) (v : Quad) : (s.setFpac2 v).pc = s.pc := rfl
@[simp] theorem State.setFpac2_fpac0 (s : State) (v : Quad) : (s.setFpac2 v).fpac0 = s.fpac0 := rfl
@[simp] theorem State.setFpac2_fpac1 (s : State) (v : Quad) : (s.setFpac2 v).fpac1 = s.fpac1 := rfl
@[simp] theorem State.setFpac2_fpac2 (s : State) (v : Quad) : (s.setFpac2 v).fpac2 = v := rfl
@[simp] theorem State.setFpac2_fpac3 (s : State) (v : Quad) : (s.setFpac2 v).fpac3 = s.fpac3 := rfl
@[simp] theorem State.setFpac2_fpsr (s : State) (v : Quad) : (s.setFpac2 v).fpsr = s.fpsr := rfl
@[simp] theorem State.setFpac2_ion (s : State) (v : Quad) : (s.setFpac2 v).ion = s.ion := rfl
@[simp] theorem State.setFpac2_mask (s : State) (v : Quad) : (s.setFpac2 v).mask = s.mask := rfl
@[simp] theorem State.setFpac2_pwrFail (s : State) (v : Quad) : (s.setFpac2 v).pwrFail = s.pwrFail := rfl
@[simp] theorem State.setFpac2_run (s : State) (v : Quad) : (s.setFpac2 v).run = s.run := rfl
@[simp] theorem State.setFpac2_ionDelay (s : State) (v : Quad) : (s.setFpac2 v).ionDelay = s.ionDelay := rfl
@[simp] theorem State.setFpac2_sycHold (s : State) (v : Quad) : (s.setFpac2 v).sycHold = s.sycHold := rfl
@[simp] theorem State.setFpac2_userHold (s : State) (v : Quad) : (s.setFpac2 v).userHold = s.userHold := rfl
@[simp] theorem State.setFpac2_endless (s : State) (v : Quad) : (s.setFpac2 v).endless = s.endless := rfl
@[simp] theorem State.setFpac2_map (s : State) (v : Quad) : (s.setFpac2 v).map = s.map := rfl
@[simp] theorem State.setFpac2_ercc (s : State) (v : Quad) : (s.setFpac2 v).ercc = s.ercc := rfl
@[simp] theorem State.setFpac2_rtc (s : State) (v : Quad) : (s.setFpac2 v).rtc = s.rtc := rfl
@[simp] theorem State.setFpac2_wcs (s : State) (v : Quad) : (s.setFpac2 v).wcs = s.wcs := rfl
@[simp] theorem State.setFpac2_devices (s : State) (v : Quad) : (s.setFpac2 v).devices = s.devices := rfl
@[simp] theorem State.setFpac2_dchQueue (s : State) (v : Quad) : (s.setFpac2 v).dchQueue = s.dchQueue := rfl
@[simp] theorem State.setFpac2_console (s : State) (v : Quad) : (s.setFpac2 v).console = s.console := rfl
@[simp] theorem State.setFpac2_inputs (s : State) (v : Quad) : (s.setFpac2 v).inputs = s.inputs := rfl
@[simp] theorem State.setFpac2_free (s : State) (v : Quad) : (s.setFpac2 v).free = s.free := rfl
@[simp] theorem State.setFpac2_cut (s : State) (v : Quad) : (s.setFpac2 v).cut = s.cut := rfl
@[simp] theorem State.setFpac2_mem (s : State) (v : Quad) : (s.setFpac2 v).mem = s.mem := rfl
@[simp] theorem State.setFpac3_cfg (s : State) (v : Quad) : (s.setFpac3 v).cfg = s.cfg := rfl
@[simp] theorem State.setFpac3_ac0 (s : State) (v : Quad) : (s.setFpac3 v).ac0 = s.ac0 := rfl
@[simp] theorem State.setFpac3_ac1 (s : State) (v : Quad) : (s.setFpac3 v).ac1 = s.ac1 := rfl
@[simp] theorem State.setFpac3_ac2 (s : State) (v : Quad) : (s.setFpac3 v).ac2 = s.ac2 := rfl
@[simp] theorem State.setFpac3_ac3 (s : State) (v : Quad) : (s.setFpac3 v).ac3 = s.ac3 := rfl
@[simp] theorem State.setFpac3_carry (s : State) (v : Quad) : (s.setFpac3 v).carry = s.carry := rfl
@[simp] theorem State.setFpac3_pc (s : State) (v : Quad) : (s.setFpac3 v).pc = s.pc := rfl
@[simp] theorem State.setFpac3_fpac0 (s : State) (v : Quad) : (s.setFpac3 v).fpac0 = s.fpac0 := rfl
@[simp] theorem State.setFpac3_fpac1 (s : State) (v : Quad) : (s.setFpac3 v).fpac1 = s.fpac1 := rfl
@[simp] theorem State.setFpac3_fpac2 (s : State) (v : Quad) : (s.setFpac3 v).fpac2 = s.fpac2 := rfl
@[simp] theorem State.setFpac3_fpac3 (s : State) (v : Quad) : (s.setFpac3 v).fpac3 = v := rfl
@[simp] theorem State.setFpac3_fpsr (s : State) (v : Quad) : (s.setFpac3 v).fpsr = s.fpsr := rfl
@[simp] theorem State.setFpac3_ion (s : State) (v : Quad) : (s.setFpac3 v).ion = s.ion := rfl
@[simp] theorem State.setFpac3_mask (s : State) (v : Quad) : (s.setFpac3 v).mask = s.mask := rfl
@[simp] theorem State.setFpac3_pwrFail (s : State) (v : Quad) : (s.setFpac3 v).pwrFail = s.pwrFail := rfl
@[simp] theorem State.setFpac3_run (s : State) (v : Quad) : (s.setFpac3 v).run = s.run := rfl
@[simp] theorem State.setFpac3_ionDelay (s : State) (v : Quad) : (s.setFpac3 v).ionDelay = s.ionDelay := rfl
@[simp] theorem State.setFpac3_sycHold (s : State) (v : Quad) : (s.setFpac3 v).sycHold = s.sycHold := rfl
@[simp] theorem State.setFpac3_userHold (s : State) (v : Quad) : (s.setFpac3 v).userHold = s.userHold := rfl
@[simp] theorem State.setFpac3_endless (s : State) (v : Quad) : (s.setFpac3 v).endless = s.endless := rfl
@[simp] theorem State.setFpac3_map (s : State) (v : Quad) : (s.setFpac3 v).map = s.map := rfl
@[simp] theorem State.setFpac3_ercc (s : State) (v : Quad) : (s.setFpac3 v).ercc = s.ercc := rfl
@[simp] theorem State.setFpac3_rtc (s : State) (v : Quad) : (s.setFpac3 v).rtc = s.rtc := rfl
@[simp] theorem State.setFpac3_wcs (s : State) (v : Quad) : (s.setFpac3 v).wcs = s.wcs := rfl
@[simp] theorem State.setFpac3_devices (s : State) (v : Quad) : (s.setFpac3 v).devices = s.devices := rfl
@[simp] theorem State.setFpac3_dchQueue (s : State) (v : Quad) : (s.setFpac3 v).dchQueue = s.dchQueue := rfl
@[simp] theorem State.setFpac3_console (s : State) (v : Quad) : (s.setFpac3 v).console = s.console := rfl
@[simp] theorem State.setFpac3_inputs (s : State) (v : Quad) : (s.setFpac3 v).inputs = s.inputs := rfl
@[simp] theorem State.setFpac3_free (s : State) (v : Quad) : (s.setFpac3 v).free = s.free := rfl
@[simp] theorem State.setFpac3_cut (s : State) (v : Quad) : (s.setFpac3 v).cut = s.cut := rfl
@[simp] theorem State.setFpac3_mem (s : State) (v : Quad) : (s.setFpac3 v).mem = s.mem := rfl
@[simp] theorem State.setFpsr_cfg (s : State) (v : BitVec 32) : (s.setFpsr v).cfg = s.cfg := rfl
@[simp] theorem State.setFpsr_ac0 (s : State) (v : BitVec 32) : (s.setFpsr v).ac0 = s.ac0 := rfl
@[simp] theorem State.setFpsr_ac1 (s : State) (v : BitVec 32) : (s.setFpsr v).ac1 = s.ac1 := rfl
@[simp] theorem State.setFpsr_ac2 (s : State) (v : BitVec 32) : (s.setFpsr v).ac2 = s.ac2 := rfl
@[simp] theorem State.setFpsr_ac3 (s : State) (v : BitVec 32) : (s.setFpsr v).ac3 = s.ac3 := rfl
@[simp] theorem State.setFpsr_carry (s : State) (v : BitVec 32) : (s.setFpsr v).carry = s.carry := rfl
@[simp] theorem State.setFpsr_pc (s : State) (v : BitVec 32) : (s.setFpsr v).pc = s.pc := rfl
@[simp] theorem State.setFpsr_fpac0 (s : State) (v : BitVec 32) : (s.setFpsr v).fpac0 = s.fpac0 := rfl
@[simp] theorem State.setFpsr_fpac1 (s : State) (v : BitVec 32) : (s.setFpsr v).fpac1 = s.fpac1 := rfl
@[simp] theorem State.setFpsr_fpac2 (s : State) (v : BitVec 32) : (s.setFpsr v).fpac2 = s.fpac2 := rfl
@[simp] theorem State.setFpsr_fpac3 (s : State) (v : BitVec 32) : (s.setFpsr v).fpac3 = s.fpac3 := rfl
@[simp] theorem State.setFpsr_fpsr (s : State) (v : BitVec 32) : (s.setFpsr v).fpsr = v := rfl
@[simp] theorem State.setFpsr_ion (s : State) (v : BitVec 32) : (s.setFpsr v).ion = s.ion := rfl
@[simp] theorem State.setFpsr_mask (s : State) (v : BitVec 32) : (s.setFpsr v).mask = s.mask := rfl
@[simp] theorem State.setFpsr_pwrFail (s : State) (v : BitVec 32) : (s.setFpsr v).pwrFail = s.pwrFail := rfl
@[simp] theorem State.setFpsr_run (s : State) (v : BitVec 32) : (s.setFpsr v).run = s.run := rfl
@[simp] theorem State.setFpsr_ionDelay (s : State) (v : BitVec 32) : (s.setFpsr v).ionDelay = s.ionDelay := rfl
@[simp] theorem State.setFpsr_sycHold (s : State) (v : BitVec 32) : (s.setFpsr v).sycHold = s.sycHold := rfl
@[simp] theorem State.setFpsr_userHold (s : State) (v : BitVec 32) : (s.setFpsr v).userHold = s.userHold := rfl
@[simp] theorem State.setFpsr_endless (s : State) (v : BitVec 32) : (s.setFpsr v).endless = s.endless := rfl
@[simp] theorem State.setFpsr_map (s : State) (v : BitVec 32) : (s.setFpsr v).map = s.map := rfl
@[simp] theorem State.setFpsr_ercc (s : State) (v : BitVec 32) : (s.setFpsr v).ercc = s.ercc := rfl
@[simp] theorem State.setFpsr_rtc (s : State) (v : BitVec 32) : (s.setFpsr v).rtc = s.rtc := rfl
@[simp] theorem State.setFpsr_wcs (s : State) (v : BitVec 32) : (s.setFpsr v).wcs = s.wcs := rfl
@[simp] theorem State.setFpsr_devices (s : State) (v : BitVec 32) : (s.setFpsr v).devices = s.devices := rfl
@[simp] theorem State.setFpsr_dchQueue (s : State) (v : BitVec 32) : (s.setFpsr v).dchQueue = s.dchQueue := rfl
@[simp] theorem State.setFpsr_console (s : State) (v : BitVec 32) : (s.setFpsr v).console = s.console := rfl
@[simp] theorem State.setFpsr_inputs (s : State) (v : BitVec 32) : (s.setFpsr v).inputs = s.inputs := rfl
@[simp] theorem State.setFpsr_free (s : State) (v : BitVec 32) : (s.setFpsr v).free = s.free := rfl
@[simp] theorem State.setFpsr_cut (s : State) (v : BitVec 32) : (s.setFpsr v).cut = s.cut := rfl
@[simp] theorem State.setFpsr_mem (s : State) (v : BitVec 32) : (s.setFpsr v).mem = s.mem := rfl
@[simp] theorem State.setIon_cfg (s : State) (v : Bool) : (s.setIon v).cfg = s.cfg := rfl
@[simp] theorem State.setIon_ac0 (s : State) (v : Bool) : (s.setIon v).ac0 = s.ac0 := rfl
@[simp] theorem State.setIon_ac1 (s : State) (v : Bool) : (s.setIon v).ac1 = s.ac1 := rfl
@[simp] theorem State.setIon_ac2 (s : State) (v : Bool) : (s.setIon v).ac2 = s.ac2 := rfl
@[simp] theorem State.setIon_ac3 (s : State) (v : Bool) : (s.setIon v).ac3 = s.ac3 := rfl
@[simp] theorem State.setIon_carry (s : State) (v : Bool) : (s.setIon v).carry = s.carry := rfl
@[simp] theorem State.setIon_pc (s : State) (v : Bool) : (s.setIon v).pc = s.pc := rfl
@[simp] theorem State.setIon_fpac0 (s : State) (v : Bool) : (s.setIon v).fpac0 = s.fpac0 := rfl
@[simp] theorem State.setIon_fpac1 (s : State) (v : Bool) : (s.setIon v).fpac1 = s.fpac1 := rfl
@[simp] theorem State.setIon_fpac2 (s : State) (v : Bool) : (s.setIon v).fpac2 = s.fpac2 := rfl
@[simp] theorem State.setIon_fpac3 (s : State) (v : Bool) : (s.setIon v).fpac3 = s.fpac3 := rfl
@[simp] theorem State.setIon_fpsr (s : State) (v : Bool) : (s.setIon v).fpsr = s.fpsr := rfl
@[simp] theorem State.setIon_ion (s : State) (v : Bool) : (s.setIon v).ion = v := rfl
@[simp] theorem State.setIon_mask (s : State) (v : Bool) : (s.setIon v).mask = s.mask := rfl
@[simp] theorem State.setIon_pwrFail (s : State) (v : Bool) : (s.setIon v).pwrFail = s.pwrFail := rfl
@[simp] theorem State.setIon_run (s : State) (v : Bool) : (s.setIon v).run = s.run := rfl
@[simp] theorem State.setIon_ionDelay (s : State) (v : Bool) : (s.setIon v).ionDelay = s.ionDelay := rfl
@[simp] theorem State.setIon_sycHold (s : State) (v : Bool) : (s.setIon v).sycHold = s.sycHold := rfl
@[simp] theorem State.setIon_userHold (s : State) (v : Bool) : (s.setIon v).userHold = s.userHold := rfl
@[simp] theorem State.setIon_endless (s : State) (v : Bool) : (s.setIon v).endless = s.endless := rfl
@[simp] theorem State.setIon_map (s : State) (v : Bool) : (s.setIon v).map = s.map := rfl
@[simp] theorem State.setIon_ercc (s : State) (v : Bool) : (s.setIon v).ercc = s.ercc := rfl
@[simp] theorem State.setIon_rtc (s : State) (v : Bool) : (s.setIon v).rtc = s.rtc := rfl
@[simp] theorem State.setIon_wcs (s : State) (v : Bool) : (s.setIon v).wcs = s.wcs := rfl
@[simp] theorem State.setIon_devices (s : State) (v : Bool) : (s.setIon v).devices = s.devices := rfl
@[simp] theorem State.setIon_dchQueue (s : State) (v : Bool) : (s.setIon v).dchQueue = s.dchQueue := rfl
@[simp] theorem State.setIon_console (s : State) (v : Bool) : (s.setIon v).console = s.console := rfl
@[simp] theorem State.setIon_inputs (s : State) (v : Bool) : (s.setIon v).inputs = s.inputs := rfl
@[simp] theorem State.setIon_free (s : State) (v : Bool) : (s.setIon v).free = s.free := rfl
@[simp] theorem State.setIon_cut (s : State) (v : Bool) : (s.setIon v).cut = s.cut := rfl
@[simp] theorem State.setIon_mem (s : State) (v : Bool) : (s.setIon v).mem = s.mem := rfl
@[simp] theorem State.setMask_cfg (s : State) (v : Word) : (s.setMask v).cfg = s.cfg := rfl
@[simp] theorem State.setMask_ac0 (s : State) (v : Word) : (s.setMask v).ac0 = s.ac0 := rfl
@[simp] theorem State.setMask_ac1 (s : State) (v : Word) : (s.setMask v).ac1 = s.ac1 := rfl
@[simp] theorem State.setMask_ac2 (s : State) (v : Word) : (s.setMask v).ac2 = s.ac2 := rfl
@[simp] theorem State.setMask_ac3 (s : State) (v : Word) : (s.setMask v).ac3 = s.ac3 := rfl
@[simp] theorem State.setMask_carry (s : State) (v : Word) : (s.setMask v).carry = s.carry := rfl
@[simp] theorem State.setMask_pc (s : State) (v : Word) : (s.setMask v).pc = s.pc := rfl
@[simp] theorem State.setMask_fpac0 (s : State) (v : Word) : (s.setMask v).fpac0 = s.fpac0 := rfl
@[simp] theorem State.setMask_fpac1 (s : State) (v : Word) : (s.setMask v).fpac1 = s.fpac1 := rfl
@[simp] theorem State.setMask_fpac2 (s : State) (v : Word) : (s.setMask v).fpac2 = s.fpac2 := rfl
@[simp] theorem State.setMask_fpac3 (s : State) (v : Word) : (s.setMask v).fpac3 = s.fpac3 := rfl
@[simp] theorem State.setMask_fpsr (s : State) (v : Word) : (s.setMask v).fpsr = s.fpsr := rfl
@[simp] theorem State.setMask_ion (s : State) (v : Word) : (s.setMask v).ion = s.ion := rfl
@[simp] theorem State.setMask_mask (s : State) (v : Word) : (s.setMask v).mask = v := rfl
@[simp] theorem State.setMask_pwrFail (s : State) (v : Word) : (s.setMask v).pwrFail = s.pwrFail := rfl
@[simp] theorem State.setMask_run (s : State) (v : Word) : (s.setMask v).run = s.run := rfl
@[simp] theorem State.setMask_ionDelay (s : State) (v : Word) : (s.setMask v).ionDelay = s.ionDelay := rfl
@[simp] theorem State.setMask_sycHold (s : State) (v : Word) : (s.setMask v).sycHold = s.sycHold := rfl
@[simp] theorem State.setMask_userHold (s : State) (v : Word) : (s.setMask v).userHold = s.userHold := rfl
@[simp] theorem State.setMask_endless (s : State) (v : Word) : (s.setMask v).endless = s.endless := rfl
@[simp] theorem State.setMask_map (s : State) (v : Word) : (s.setMask v).map = s.map := rfl
@[simp] theorem State.setMask_ercc (s : State) (v : Word) : (s.setMask v).ercc = s.ercc := rfl
@[simp] theorem State.setMask_rtc (s : State) (v : Word) : (s.setMask v).rtc = s.rtc := rfl
@[simp] theorem State.setMask_wcs (s : State) (v : Word) : (s.setMask v).wcs = s.wcs := rfl
@[simp] theorem State.setMask_devices (s : State) (v : Word) : (s.setMask v).devices = s.devices := rfl
@[simp] theorem State.setMask_dchQueue (s : State) (v : Word) : (s.setMask v).dchQueue = s.dchQueue := rfl
@[simp] theorem State.setMask_console (s : State) (v : Word) : (s.setMask v).console = s.console := rfl
@[simp] theorem State.setMask_inputs (s : State) (v : Word) : (s.setMask v).inputs = s.inputs := rfl
@[simp] theorem State.setMask_free (s : State) (v : Word) : (s.setMask v).free = s.free := rfl
@[simp] theorem State.setMask_cut (s : State) (v : Word) : (s.setMask v).cut = s.cut := rfl
@[simp] theorem State.setMask_mem (s : State) (v : Word) : (s.setMask v).mem = s.mem := rfl
@[simp] theorem State.setPwrFail_cfg (s : State) (v : Bool) : (s.setPwrFail v).cfg = s.cfg := rfl
@[simp] theorem State.setPwrFail_ac0 (s : State) (v : Bool) : (s.setPwrFail v).ac0 = s.ac0 := rfl
@[simp] theorem State.setPwrFail_ac1 (s : State) (v : Bool) : (s.setPwrFail v).ac1 = s.ac1 := rfl
@[simp] theorem State.setPwrFail_ac2 (s : State) (v : Bool) : (s.setPwrFail v).ac2 = s.ac2 := rfl
@[simp] theorem State.setPwrFail_ac3 (s : State) (v : Bool) : (s.setPwrFail v).ac3 = s.ac3 := rfl
@[simp] theorem State.setPwrFail_carry (s : State) (v : Bool) : (s.setPwrFail v).carry = s.carry := rfl
@[simp] theorem State.setPwrFail_pc (s : State) (v : Bool) : (s.setPwrFail v).pc = s.pc := rfl
@[simp] theorem State.setPwrFail_fpac0 (s : State) (v : Bool) : (s.setPwrFail v).fpac0 = s.fpac0 := rfl
@[simp] theorem State.setPwrFail_fpac1 (s : State) (v : Bool) : (s.setPwrFail v).fpac1 = s.fpac1 := rfl
@[simp] theorem State.setPwrFail_fpac2 (s : State) (v : Bool) : (s.setPwrFail v).fpac2 = s.fpac2 := rfl
@[simp] theorem State.setPwrFail_fpac3 (s : State) (v : Bool) : (s.setPwrFail v).fpac3 = s.fpac3 := rfl
@[simp] theorem State.setPwrFail_fpsr (s : State) (v : Bool) : (s.setPwrFail v).fpsr = s.fpsr := rfl
@[simp] theorem State.setPwrFail_ion (s : State) (v : Bool) : (s.setPwrFail v).ion = s.ion := rfl
@[simp] theorem State.setPwrFail_mask (s : State) (v : Bool) : (s.setPwrFail v).mask = s.mask := rfl
@[simp] theorem State.setPwrFail_pwrFail (s : State) (v : Bool) : (s.setPwrFail v).pwrFail = v := rfl
@[simp] theorem State.setPwrFail_run (s : State) (v : Bool) : (s.setPwrFail v).run = s.run := rfl
@[simp] theorem State.setPwrFail_ionDelay (s : State) (v : Bool) : (s.setPwrFail v).ionDelay = s.ionDelay := rfl
@[simp] theorem State.setPwrFail_sycHold (s : State) (v : Bool) : (s.setPwrFail v).sycHold = s.sycHold := rfl
@[simp] theorem State.setPwrFail_userHold (s : State) (v : Bool) : (s.setPwrFail v).userHold = s.userHold := rfl
@[simp] theorem State.setPwrFail_endless (s : State) (v : Bool) : (s.setPwrFail v).endless = s.endless := rfl
@[simp] theorem State.setPwrFail_map (s : State) (v : Bool) : (s.setPwrFail v).map = s.map := rfl
@[simp] theorem State.setPwrFail_ercc (s : State) (v : Bool) : (s.setPwrFail v).ercc = s.ercc := rfl
@[simp] theorem State.setPwrFail_rtc (s : State) (v : Bool) : (s.setPwrFail v).rtc = s.rtc := rfl
@[simp] theorem State.setPwrFail_wcs (s : State) (v : Bool) : (s.setPwrFail v).wcs = s.wcs := rfl
@[simp] theorem State.setPwrFail_devices (s : State) (v : Bool) : (s.setPwrFail v).devices = s.devices := rfl
@[simp] theorem State.setPwrFail_dchQueue (s : State) (v : Bool) : (s.setPwrFail v).dchQueue = s.dchQueue := rfl
@[simp] theorem State.setPwrFail_console (s : State) (v : Bool) : (s.setPwrFail v).console = s.console := rfl
@[simp] theorem State.setPwrFail_inputs (s : State) (v : Bool) : (s.setPwrFail v).inputs = s.inputs := rfl
@[simp] theorem State.setPwrFail_free (s : State) (v : Bool) : (s.setPwrFail v).free = s.free := rfl
@[simp] theorem State.setPwrFail_cut (s : State) (v : Bool) : (s.setPwrFail v).cut = s.cut := rfl
@[simp] theorem State.setPwrFail_mem (s : State) (v : Bool) : (s.setPwrFail v).mem = s.mem := rfl
@[simp] theorem State.setRun_cfg (s : State) (v : Bool) : (s.setRun v).cfg = s.cfg := rfl
@[simp] theorem State.setRun_ac0 (s : State) (v : Bool) : (s.setRun v).ac0 = s.ac0 := rfl
@[simp] theorem State.setRun_ac1 (s : State) (v : Bool) : (s.setRun v).ac1 = s.ac1 := rfl
@[simp] theorem State.setRun_ac2 (s : State) (v : Bool) : (s.setRun v).ac2 = s.ac2 := rfl
@[simp] theorem State.setRun_ac3 (s : State) (v : Bool) : (s.setRun v).ac3 = s.ac3 := rfl
@[simp] theorem State.setRun_carry (s : State) (v : Bool) : (s.setRun v).carry = s.carry := rfl
@[simp] theorem State.setRun_pc (s : State) (v : Bool) : (s.setRun v).pc = s.pc := rfl
@[simp] theorem State.setRun_fpac0 (s : State) (v : Bool) : (s.setRun v).fpac0 = s.fpac0 := rfl
@[simp] theorem State.setRun_fpac1 (s : State) (v : Bool) : (s.setRun v).fpac1 = s.fpac1 := rfl
@[simp] theorem State.setRun_fpac2 (s : State) (v : Bool) : (s.setRun v).fpac2 = s.fpac2 := rfl
@[simp] theorem State.setRun_fpac3 (s : State) (v : Bool) : (s.setRun v).fpac3 = s.fpac3 := rfl
@[simp] theorem State.setRun_fpsr (s : State) (v : Bool) : (s.setRun v).fpsr = s.fpsr := rfl
@[simp] theorem State.setRun_ion (s : State) (v : Bool) : (s.setRun v).ion = s.ion := rfl
@[simp] theorem State.setRun_mask (s : State) (v : Bool) : (s.setRun v).mask = s.mask := rfl
@[simp] theorem State.setRun_pwrFail (s : State) (v : Bool) : (s.setRun v).pwrFail = s.pwrFail := rfl
@[simp] theorem State.setRun_run (s : State) (v : Bool) : (s.setRun v).run = v := rfl
@[simp] theorem State.setRun_ionDelay (s : State) (v : Bool) : (s.setRun v).ionDelay = s.ionDelay := rfl
@[simp] theorem State.setRun_sycHold (s : State) (v : Bool) : (s.setRun v).sycHold = s.sycHold := rfl
@[simp] theorem State.setRun_userHold (s : State) (v : Bool) : (s.setRun v).userHold = s.userHold := rfl
@[simp] theorem State.setRun_endless (s : State) (v : Bool) : (s.setRun v).endless = s.endless := rfl
@[simp] theorem State.setRun_map (s : State) (v : Bool) : (s.setRun v).map = s.map := rfl
@[simp] theorem State.setRun_ercc (s : State) (v : Bool) : (s.setRun v).ercc = s.ercc := rfl
@[simp] theorem State.setRun_rtc (s : State) (v : Bool) : (s.setRun v).rtc = s.rtc := rfl
@[simp] theorem State.setRun_wcs (s : State) (v : Bool) : (s.setRun v).wcs = s.wcs := rfl
@[simp] theorem State.setRun_devices (s : State) (v : Bool) : (s.setRun v).devices = s.devices := rfl
@[simp] theorem State.setRun_dchQueue (s : State) (v : Bool) : (s.setRun v).dchQueue = s.dchQueue := rfl
@[simp] theorem State.setRun_console (s : State) (v : Bool) : (s.setRun v).console = s.console := rfl
@[simp] theorem State.setRun_inputs (s : State) (v : Bool) : (s.setRun v).inputs = s.inputs := rfl
@[simp] theorem State.setRun_free (s : State) (v : Bool) : (s.setRun v).free = s.free := rfl
@[simp] theorem State.setRun_cut (s : State) (v : Bool) : (s.setRun v).cut = s.cut := rfl
@[simp] theorem State.setRun_mem (s : State) (v : Bool) : (s.setRun v).mem = s.mem := rfl
@[simp] theorem State.setIonDelay_cfg (s : State) (v : Hold) : (s.setIonDelay v).cfg = s.cfg := rfl
@[simp] theorem State.setIonDelay_ac0 (s : State) (v : Hold) : (s.setIonDelay v).ac0 = s.ac0 := rfl
@[simp] theorem State.setIonDelay_ac1 (s : State) (v : Hold) : (s.setIonDelay v).ac1 = s.ac1 := rfl
@[simp] theorem State.setIonDelay_ac2 (s : State) (v : Hold) : (s.setIonDelay v).ac2 = s.ac2 := rfl
@[simp] theorem State.setIonDelay_ac3 (s : State) (v : Hold) : (s.setIonDelay v).ac3 = s.ac3 := rfl
@[simp] theorem State.setIonDelay_carry (s : State) (v : Hold) : (s.setIonDelay v).carry = s.carry := rfl
@[simp] theorem State.setIonDelay_pc (s : State) (v : Hold) : (s.setIonDelay v).pc = s.pc := rfl
@[simp] theorem State.setIonDelay_fpac0 (s : State) (v : Hold) : (s.setIonDelay v).fpac0 = s.fpac0 := rfl
@[simp] theorem State.setIonDelay_fpac1 (s : State) (v : Hold) : (s.setIonDelay v).fpac1 = s.fpac1 := rfl
@[simp] theorem State.setIonDelay_fpac2 (s : State) (v : Hold) : (s.setIonDelay v).fpac2 = s.fpac2 := rfl
@[simp] theorem State.setIonDelay_fpac3 (s : State) (v : Hold) : (s.setIonDelay v).fpac3 = s.fpac3 := rfl
@[simp] theorem State.setIonDelay_fpsr (s : State) (v : Hold) : (s.setIonDelay v).fpsr = s.fpsr := rfl
@[simp] theorem State.setIonDelay_ion (s : State) (v : Hold) : (s.setIonDelay v).ion = s.ion := rfl
@[simp] theorem State.setIonDelay_mask (s : State) (v : Hold) : (s.setIonDelay v).mask = s.mask := rfl
@[simp] theorem State.setIonDelay_pwrFail (s : State) (v : Hold) : (s.setIonDelay v).pwrFail = s.pwrFail := rfl
@[simp] theorem State.setIonDelay_run (s : State) (v : Hold) : (s.setIonDelay v).run = s.run := rfl
@[simp] theorem State.setIonDelay_ionDelay (s : State) (v : Hold) : (s.setIonDelay v).ionDelay = v := rfl
@[simp] theorem State.setIonDelay_sycHold (s : State) (v : Hold) : (s.setIonDelay v).sycHold = s.sycHold := rfl
@[simp] theorem State.setIonDelay_userHold (s : State) (v : Hold) : (s.setIonDelay v).userHold = s.userHold := rfl
@[simp] theorem State.setIonDelay_endless (s : State) (v : Hold) : (s.setIonDelay v).endless = s.endless := rfl
@[simp] theorem State.setIonDelay_map (s : State) (v : Hold) : (s.setIonDelay v).map = s.map := rfl
@[simp] theorem State.setIonDelay_ercc (s : State) (v : Hold) : (s.setIonDelay v).ercc = s.ercc := rfl
@[simp] theorem State.setIonDelay_rtc (s : State) (v : Hold) : (s.setIonDelay v).rtc = s.rtc := rfl
@[simp] theorem State.setIonDelay_wcs (s : State) (v : Hold) : (s.setIonDelay v).wcs = s.wcs := rfl
@[simp] theorem State.setIonDelay_devices (s : State) (v : Hold) : (s.setIonDelay v).devices = s.devices := rfl
@[simp] theorem State.setIonDelay_dchQueue (s : State) (v : Hold) : (s.setIonDelay v).dchQueue = s.dchQueue := rfl
@[simp] theorem State.setIonDelay_console (s : State) (v : Hold) : (s.setIonDelay v).console = s.console := rfl
@[simp] theorem State.setIonDelay_inputs (s : State) (v : Hold) : (s.setIonDelay v).inputs = s.inputs := rfl
@[simp] theorem State.setIonDelay_free (s : State) (v : Hold) : (s.setIonDelay v).free = s.free := rfl
@[simp] theorem State.setIonDelay_cut (s : State) (v : Hold) : (s.setIonDelay v).cut = s.cut := rfl
@[simp] theorem State.setIonDelay_mem (s : State) (v : Hold) : (s.setIonDelay v).mem = s.mem := rfl
@[simp] theorem State.setSycHold_cfg (s : State) (v : Hold) : (s.setSycHold v).cfg = s.cfg := rfl
@[simp] theorem State.setSycHold_ac0 (s : State) (v : Hold) : (s.setSycHold v).ac0 = s.ac0 := rfl
@[simp] theorem State.setSycHold_ac1 (s : State) (v : Hold) : (s.setSycHold v).ac1 = s.ac1 := rfl
@[simp] theorem State.setSycHold_ac2 (s : State) (v : Hold) : (s.setSycHold v).ac2 = s.ac2 := rfl
@[simp] theorem State.setSycHold_ac3 (s : State) (v : Hold) : (s.setSycHold v).ac3 = s.ac3 := rfl
@[simp] theorem State.setSycHold_carry (s : State) (v : Hold) : (s.setSycHold v).carry = s.carry := rfl
@[simp] theorem State.setSycHold_pc (s : State) (v : Hold) : (s.setSycHold v).pc = s.pc := rfl
@[simp] theorem State.setSycHold_fpac0 (s : State) (v : Hold) : (s.setSycHold v).fpac0 = s.fpac0 := rfl
@[simp] theorem State.setSycHold_fpac1 (s : State) (v : Hold) : (s.setSycHold v).fpac1 = s.fpac1 := rfl
@[simp] theorem State.setSycHold_fpac2 (s : State) (v : Hold) : (s.setSycHold v).fpac2 = s.fpac2 := rfl
@[simp] theorem State.setSycHold_fpac3 (s : State) (v : Hold) : (s.setSycHold v).fpac3 = s.fpac3 := rfl
@[simp] theorem State.setSycHold_fpsr (s : State) (v : Hold) : (s.setSycHold v).fpsr = s.fpsr := rfl
@[simp] theorem State.setSycHold_ion (s : State) (v : Hold) : (s.setSycHold v).ion = s.ion := rfl
@[simp] theorem State.setSycHold_mask (s : State) (v : Hold) : (s.setSycHold v).mask = s.mask := rfl
@[simp] theorem State.setSycHold_pwrFail (s : State) (v : Hold) : (s.setSycHold v).pwrFail = s.pwrFail := rfl
@[simp] theorem State.setSycHold_run (s : State) (v : Hold) : (s.setSycHold v).run = s.run := rfl
@[simp] theorem State.setSycHold_ionDelay (s : State) (v : Hold) : (s.setSycHold v).ionDelay = s.ionDelay := rfl
@[simp] theorem State.setSycHold_sycHold (s : State) (v : Hold) : (s.setSycHold v).sycHold = v := rfl
@[simp] theorem State.setSycHold_userHold (s : State) (v : Hold) : (s.setSycHold v).userHold = s.userHold := rfl
@[simp] theorem State.setSycHold_endless (s : State) (v : Hold) : (s.setSycHold v).endless = s.endless := rfl
@[simp] theorem State.setSycHold_map (s : State) (v : Hold) : (s.setSycHold v).map = s.map := rfl
@[simp] theorem State.setSycHold_ercc (s : State) (v : Hold) : (s.setSycHold v).ercc = s.ercc := rfl
@[simp] theorem State.setSycHold_rtc (s : State) (v : Hold) : (s.setSycHold v).rtc = s.rtc := rfl
@[simp] theorem State.setSycHold_wcs (s : State) (v : Hold) : (s.setSycHold v).wcs = s.wcs := rfl
@[simp] theorem State.setSycHold_devices (s : State) (v : Hold) : (s.setSycHold v).devices = s.devices := rfl
@[simp] theorem State.setSycHold_dchQueue (s : State) (v : Hold) : (s.setSycHold v).dchQueue = s.dchQueue := rfl
@[simp] theorem State.setSycHold_console (s : State) (v : Hold) : (s.setSycHold v).console = s.console := rfl
@[simp] theorem State.setSycHold_inputs (s : State) (v : Hold) : (s.setSycHold v).inputs = s.inputs := rfl
@[simp] theorem State.setSycHold_free (s : State) (v : Hold) : (s.setSycHold v).free = s.free := rfl
@[simp] theorem State.setSycHold_cut (s : State) (v : Hold) : (s.setSycHold v).cut = s.cut := rfl
@[simp] theorem State.setSycHold_mem (s : State) (v : Hold) : (s.setSycHold v).mem = s.mem := rfl
@[simp] theorem State.setUserHold_cfg (s : State) (v : Hold) : (s.setUserHold v).cfg = s.cfg := rfl
@[simp] theorem State.setUserHold_ac0 (s : State) (v : Hold) : (s.setUserHold v).ac0 = s.ac0 := rfl
@[simp] theorem State.setUserHold_ac1 (s : State) (v : Hold) : (s.setUserHold v).ac1 = s.ac1 := rfl
@[simp] theorem State.setUserHold_ac2 (s : State) (v : Hold) : (s.setUserHold v).ac2 = s.ac2 := rfl
@[simp] theorem State.setUserHold_ac3 (s : State) (v : Hold) : (s.setUserHold v).ac3 = s.ac3 := rfl
@[simp] theorem State.setUserHold_carry (s : State) (v : Hold) : (s.setUserHold v).carry = s.carry := rfl
@[simp] theorem State.setUserHold_pc (s : State) (v : Hold) : (s.setUserHold v).pc = s.pc := rfl
@[simp] theorem State.setUserHold_fpac0 (s : State) (v : Hold) : (s.setUserHold v).fpac0 = s.fpac0 := rfl
@[simp] theorem State.setUserHold_fpac1 (s : State) (v : Hold) : (s.setUserHold v).fpac1 = s.fpac1 := rfl
@[simp] theorem State.setUserHold_fpac2 (s : State) (v : Hold) : (s.setUserHold v).fpac2 = s.fpac2 := rfl
@[simp] theorem State.setUserHold_fpac3 (s : State) (v : Hold) : (s.setUserHold v).fpac3 = s.fpac3 := rfl
@[simp] theorem State.setUserHold_fpsr (s : State) (v : Hold) : (s.setUserHold v).fpsr = s.fpsr := rfl
@[simp] theorem State.setUserHold_ion (s : State) (v : Hold) : (s.setUserHold v).ion = s.ion := rfl
@[simp] theorem State.setUserHold_mask (s : State) (v : Hold) : (s.setUserHold v).mask = s.mask := rfl
@[simp] theorem State.setUserHold_pwrFail (s : State) (v : Hold) : (s.setUserHold v).pwrFail = s.pwrFail := rfl
@[simp] theorem State.setUserHold_run (s : State) (v : Hold) : (s.setUserHold v).run = s.run := rfl
@[simp] theorem State.setUserHold_ionDelay (s : State) (v : Hold) : (s.setUserHold v).ionDelay = s.ionDelay := rfl
@[simp] theorem State.setUserHold_sycHold (s : State) (v : Hold) : (s.setUserHold v).sycHold = s.sycHold := rfl
@[simp] theorem State.setUserHold_userHold (s : State) (v : Hold) : (s.setUserHold v).userHold = v := rfl
@[simp] theorem State.setUserHold_endless (s : State) (v : Hold) : (s.setUserHold v).endless = s.endless := rfl
@[simp] theorem State.setUserHold_map (s : State) (v : Hold) : (s.setUserHold v).map = s.map := rfl
@[simp] theorem State.setUserHold_ercc (s : State) (v : Hold) : (s.setUserHold v).ercc = s.ercc := rfl
@[simp] theorem State.setUserHold_rtc (s : State) (v : Hold) : (s.setUserHold v).rtc = s.rtc := rfl
@[simp] theorem State.setUserHold_wcs (s : State) (v : Hold) : (s.setUserHold v).wcs = s.wcs := rfl
@[simp] theorem State.setUserHold_devices (s : State) (v : Hold) : (s.setUserHold v).devices = s.devices := rfl
@[simp] theorem State.setUserHold_dchQueue (s : State) (v : Hold) : (s.setUserHold v).dchQueue = s.dchQueue := rfl
@[simp] theorem State.setUserHold_console (s : State) (v : Hold) : (s.setUserHold v).console = s.console := rfl
@[simp] theorem State.setUserHold_inputs (s : State) (v : Hold) : (s.setUserHold v).inputs = s.inputs := rfl
@[simp] theorem State.setUserHold_free (s : State) (v : Hold) : (s.setUserHold v).free = s.free := rfl
@[simp] theorem State.setUserHold_cut (s : State) (v : Hold) : (s.setUserHold v).cut = s.cut := rfl
@[simp] theorem State.setUserHold_mem (s : State) (v : Hold) : (s.setUserHold v).mem = s.mem := rfl
@[simp] theorem State.setEndless_cfg (s : State) (v : Endless) : (s.setEndless v).cfg = s.cfg := rfl
@[simp] theorem State.setEndless_ac0 (s : State) (v : Endless) : (s.setEndless v).ac0 = s.ac0 := rfl
@[simp] theorem State.setEndless_ac1 (s : State) (v : Endless) : (s.setEndless v).ac1 = s.ac1 := rfl
@[simp] theorem State.setEndless_ac2 (s : State) (v : Endless) : (s.setEndless v).ac2 = s.ac2 := rfl
@[simp] theorem State.setEndless_ac3 (s : State) (v : Endless) : (s.setEndless v).ac3 = s.ac3 := rfl
@[simp] theorem State.setEndless_carry (s : State) (v : Endless) : (s.setEndless v).carry = s.carry := rfl
@[simp] theorem State.setEndless_pc (s : State) (v : Endless) : (s.setEndless v).pc = s.pc := rfl
@[simp] theorem State.setEndless_fpac0 (s : State) (v : Endless) : (s.setEndless v).fpac0 = s.fpac0 := rfl
@[simp] theorem State.setEndless_fpac1 (s : State) (v : Endless) : (s.setEndless v).fpac1 = s.fpac1 := rfl
@[simp] theorem State.setEndless_fpac2 (s : State) (v : Endless) : (s.setEndless v).fpac2 = s.fpac2 := rfl
@[simp] theorem State.setEndless_fpac3 (s : State) (v : Endless) : (s.setEndless v).fpac3 = s.fpac3 := rfl
@[simp] theorem State.setEndless_fpsr (s : State) (v : Endless) : (s.setEndless v).fpsr = s.fpsr := rfl
@[simp] theorem State.setEndless_ion (s : State) (v : Endless) : (s.setEndless v).ion = s.ion := rfl
@[simp] theorem State.setEndless_mask (s : State) (v : Endless) : (s.setEndless v).mask = s.mask := rfl
@[simp] theorem State.setEndless_pwrFail (s : State) (v : Endless) : (s.setEndless v).pwrFail = s.pwrFail := rfl
@[simp] theorem State.setEndless_run (s : State) (v : Endless) : (s.setEndless v).run = s.run := rfl
@[simp] theorem State.setEndless_ionDelay (s : State) (v : Endless) : (s.setEndless v).ionDelay = s.ionDelay := rfl
@[simp] theorem State.setEndless_sycHold (s : State) (v : Endless) : (s.setEndless v).sycHold = s.sycHold := rfl
@[simp] theorem State.setEndless_userHold (s : State) (v : Endless) : (s.setEndless v).userHold = s.userHold := rfl
@[simp] theorem State.setEndless_endless (s : State) (v : Endless) : (s.setEndless v).endless = v := rfl
@[simp] theorem State.setEndless_map (s : State) (v : Endless) : (s.setEndless v).map = s.map := rfl
@[simp] theorem State.setEndless_ercc (s : State) (v : Endless) : (s.setEndless v).ercc = s.ercc := rfl
@[simp] theorem State.setEndless_rtc (s : State) (v : Endless) : (s.setEndless v).rtc = s.rtc := rfl
@[simp] theorem State.setEndless_wcs (s : State) (v : Endless) : (s.setEndless v).wcs = s.wcs := rfl
@[simp] theorem State.setEndless_devices (s : State) (v : Endless) : (s.setEndless v).devices = s.devices := rfl
@[simp] theorem State.setEndless_dchQueue (s : State) (v : Endless) : (s.setEndless v).dchQueue = s.dchQueue := rfl
@[simp] theorem State.setEndless_console (s : State) (v : Endless) : (s.setEndless v).console = s.console := rfl
@[simp] theorem State.setEndless_inputs (s : State) (v : Endless) : (s.setEndless v).inputs = s.inputs := rfl
@[simp] theorem State.setEndless_free (s : State) (v : Endless) : (s.setEndless v).free = s.free := rfl
@[simp] theorem State.setEndless_cut (s : State) (v : Endless) : (s.setEndless v).cut = s.cut := rfl
@[simp] theorem State.setEndless_mem (s : State) (v : Endless) : (s.setEndless v).mem = s.mem := rfl
@[simp] theorem State.setMap_cfg (s : State) (v : MapUnit) : (s.setMap v).cfg = s.cfg := rfl
@[simp] theorem State.setMap_ac0 (s : State) (v : MapUnit) : (s.setMap v).ac0 = s.ac0 := rfl
@[simp] theorem State.setMap_ac1 (s : State) (v : MapUnit) : (s.setMap v).ac1 = s.ac1 := rfl
@[simp] theorem State.setMap_ac2 (s : State) (v : MapUnit) : (s.setMap v).ac2 = s.ac2 := rfl
@[simp] theorem State.setMap_ac3 (s : State) (v : MapUnit) : (s.setMap v).ac3 = s.ac3 := rfl
@[simp] theorem State.setMap_carry (s : State) (v : MapUnit) : (s.setMap v).carry = s.carry := rfl
@[simp] theorem State.setMap_pc (s : State) (v : MapUnit) : (s.setMap v).pc = s.pc := rfl
@[simp] theorem State.setMap_fpac0 (s : State) (v : MapUnit) : (s.setMap v).fpac0 = s.fpac0 := rfl
@[simp] theorem State.setMap_fpac1 (s : State) (v : MapUnit) : (s.setMap v).fpac1 = s.fpac1 := rfl
@[simp] theorem State.setMap_fpac2 (s : State) (v : MapUnit) : (s.setMap v).fpac2 = s.fpac2 := rfl
@[simp] theorem State.setMap_fpac3 (s : State) (v : MapUnit) : (s.setMap v).fpac3 = s.fpac3 := rfl
@[simp] theorem State.setMap_fpsr (s : State) (v : MapUnit) : (s.setMap v).fpsr = s.fpsr := rfl
@[simp] theorem State.setMap_ion (s : State) (v : MapUnit) : (s.setMap v).ion = s.ion := rfl
@[simp] theorem State.setMap_mask (s : State) (v : MapUnit) : (s.setMap v).mask = s.mask := rfl
@[simp] theorem State.setMap_pwrFail (s : State) (v : MapUnit) : (s.setMap v).pwrFail = s.pwrFail := rfl
@[simp] theorem State.setMap_run (s : State) (v : MapUnit) : (s.setMap v).run = s.run := rfl
@[simp] theorem State.setMap_ionDelay (s : State) (v : MapUnit) : (s.setMap v).ionDelay = s.ionDelay := rfl
@[simp] theorem State.setMap_sycHold (s : State) (v : MapUnit) : (s.setMap v).sycHold = s.sycHold := rfl
@[simp] theorem State.setMap_userHold (s : State) (v : MapUnit) : (s.setMap v).userHold = s.userHold := rfl
@[simp] theorem State.setMap_endless (s : State) (v : MapUnit) : (s.setMap v).endless = s.endless := rfl
@[simp] theorem State.setMap_map (s : State) (v : MapUnit) : (s.setMap v).map = v := rfl
@[simp] theorem State.setMap_ercc (s : State) (v : MapUnit) : (s.setMap v).ercc = s.ercc := rfl
@[simp] theorem State.setMap_rtc (s : State) (v : MapUnit) : (s.setMap v).rtc = s.rtc := rfl
@[simp] theorem State.setMap_wcs (s : State) (v : MapUnit) : (s.setMap v).wcs = s.wcs := rfl
@[simp] theorem State.setMap_devices (s : State) (v : MapUnit) : (s.setMap v).devices = s.devices := rfl
@[simp] theorem State.setMap_dchQueue (s : State) (v : MapUnit) : (s.setMap v).dchQueue = s.dchQueue := rfl
@[simp] theorem State.setMap_console (s : State) (v : MapUnit) : (s.setMap v).console = s.console := rfl
@[simp] theorem State.setMap_inputs (s : State) (v : MapUnit) : (s.setMap v).inputs = s.inputs := rfl
@[simp] theorem State.setMap_free (s : State) (v : MapUnit) : (s.setMap v).free = s.free := rfl
@[simp] theorem State.setMap_cut (s : State) (v : MapUnit) : (s.setMap v).cut = s.cut := rfl
@[simp] theorem State.setMap_mem (s : State) (v : MapUnit) : (s.setMap v).mem = s.mem := rfl
@[simp] theorem State.setErcc_cfg (s : State) (v : Ercc) : (s.setErcc v).cfg = s.cfg := rfl
@[simp] theorem State.setErcc_ac0 (s : State) (v : Ercc) : (s.setErcc v).ac0 = s.ac0 := rfl
@[simp] theorem State.setErcc_ac1 (s : State) (v : Ercc) : (s.setErcc v).ac1 = s.ac1 := rfl
@[simp] theorem State.setErcc_ac2 (s : State) (v : Ercc) : (s.setErcc v).ac2 = s.ac2 := rfl
@[simp] theorem State.setErcc_ac3 (s : State) (v : Ercc) : (s.setErcc v).ac3 = s.ac3 := rfl
@[simp] theorem State.setErcc_carry (s : State) (v : Ercc) : (s.setErcc v).carry = s.carry := rfl
@[simp] theorem State.setErcc_pc (s : State) (v : Ercc) : (s.setErcc v).pc = s.pc := rfl
@[simp] theorem State.setErcc_fpac0 (s : State) (v : Ercc) : (s.setErcc v).fpac0 = s.fpac0 := rfl
@[simp] theorem State.setErcc_fpac1 (s : State) (v : Ercc) : (s.setErcc v).fpac1 = s.fpac1 := rfl
@[simp] theorem State.setErcc_fpac2 (s : State) (v : Ercc) : (s.setErcc v).fpac2 = s.fpac2 := rfl
@[simp] theorem State.setErcc_fpac3 (s : State) (v : Ercc) : (s.setErcc v).fpac3 = s.fpac3 := rfl
@[simp] theorem State.setErcc_fpsr (s : State) (v : Ercc) : (s.setErcc v).fpsr = s.fpsr := rfl
@[simp] theorem State.setErcc_ion (s : State) (v : Ercc) : (s.setErcc v).ion = s.ion := rfl
@[simp] theorem State.setErcc_mask (s : State) (v : Ercc) : (s.setErcc v).mask = s.mask := rfl
@[simp] theorem State.setErcc_pwrFail (s : State) (v : Ercc) : (s.setErcc v).pwrFail = s.pwrFail := rfl
@[simp] theorem State.setErcc_run (s : State) (v : Ercc) : (s.setErcc v).run = s.run := rfl
@[simp] theorem State.setErcc_ionDelay (s : State) (v : Ercc) : (s.setErcc v).ionDelay = s.ionDelay := rfl
@[simp] theorem State.setErcc_sycHold (s : State) (v : Ercc) : (s.setErcc v).sycHold = s.sycHold := rfl
@[simp] theorem State.setErcc_userHold (s : State) (v : Ercc) : (s.setErcc v).userHold = s.userHold := rfl
@[simp] theorem State.setErcc_endless (s : State) (v : Ercc) : (s.setErcc v).endless = s.endless := rfl
@[simp] theorem State.setErcc_map (s : State) (v : Ercc) : (s.setErcc v).map = s.map := rfl
@[simp] theorem State.setErcc_ercc (s : State) (v : Ercc) : (s.setErcc v).ercc = v := rfl
@[simp] theorem State.setErcc_rtc (s : State) (v : Ercc) : (s.setErcc v).rtc = s.rtc := rfl
@[simp] theorem State.setErcc_wcs (s : State) (v : Ercc) : (s.setErcc v).wcs = s.wcs := rfl
@[simp] theorem State.setErcc_devices (s : State) (v : Ercc) : (s.setErcc v).devices = s.devices := rfl
@[simp] theorem State.setErcc_dchQueue (s : State) (v : Ercc) : (s.setErcc v).dchQueue = s.dchQueue := rfl
@[simp] theorem State.setErcc_console (s : State) (v : Ercc) : (s.setErcc v).console = s.console := rfl
@[simp] theorem State.setErcc_inputs (s : State) (v : Ercc) : (s.setErcc v).inputs = s.inputs := rfl
@[simp] theorem State.setErcc_free (s : State) (v : Ercc) : (s.setErcc v).free = s.free := rfl
@[simp] theorem State.setErcc_cut (s : State) (v : Ercc) : (s.setErcc v).cut = s.cut := rfl
@[simp] theorem State.setErcc_mem (s : State) (v : Ercc) : (s.setErcc v).mem = s.mem := rfl
@[simp] theorem State.setRtc_cfg (s : State) (v : Rtc) : (s.setRtc v).cfg = s.cfg := rfl
@[simp] theorem State.setRtc_ac0 (s : State) (v : Rtc) : (s.setRtc v).ac0 = s.ac0 := rfl
@[simp] theorem State.setRtc_ac1 (s : State) (v : Rtc) : (s.setRtc v).ac1 = s.ac1 := rfl
@[simp] theorem State.setRtc_ac2 (s : State) (v : Rtc) : (s.setRtc v).ac2 = s.ac2 := rfl
@[simp] theorem State.setRtc_ac3 (s : State) (v : Rtc) : (s.setRtc v).ac3 = s.ac3 := rfl
@[simp] theorem State.setRtc_carry (s : State) (v : Rtc) : (s.setRtc v).carry = s.carry := rfl
@[simp] theorem State.setRtc_pc (s : State) (v : Rtc) : (s.setRtc v).pc = s.pc := rfl
@[simp] theorem State.setRtc_fpac0 (s : State) (v : Rtc) : (s.setRtc v).fpac0 = s.fpac0 := rfl
@[simp] theorem State.setRtc_fpac1 (s : State) (v : Rtc) : (s.setRtc v).fpac1 = s.fpac1 := rfl
@[simp] theorem State.setRtc_fpac2 (s : State) (v : Rtc) : (s.setRtc v).fpac2 = s.fpac2 := rfl
@[simp] theorem State.setRtc_fpac3 (s : State) (v : Rtc) : (s.setRtc v).fpac3 = s.fpac3 := rfl
@[simp] theorem State.setRtc_fpsr (s : State) (v : Rtc) : (s.setRtc v).fpsr = s.fpsr := rfl
@[simp] theorem State.setRtc_ion (s : State) (v : Rtc) : (s.setRtc v).ion = s.ion := rfl
@[simp] theorem State.setRtc_mask (s : State) (v : Rtc) : (s.setRtc v).mask = s.mask := rfl
@[simp] theorem State.setRtc_pwrFail (s : State) (v : Rtc) : (s.setRtc v).pwrFail = s.pwrFail := rfl
@[simp] theorem State.setRtc_run (s : State) (v : Rtc) : (s.setRtc v).run = s.run := rfl
@[simp] theorem State.setRtc_ionDelay (s : State) (v : Rtc) : (s.setRtc v).ionDelay = s.ionDelay := rfl
@[simp] theorem State.setRtc_sycHold (s : State) (v : Rtc) : (s.setRtc v).sycHold = s.sycHold := rfl
@[simp] theorem State.setRtc_userHold (s : State) (v : Rtc) : (s.setRtc v).userHold = s.userHold := rfl
@[simp] theorem State.setRtc_endless (s : State) (v : Rtc) : (s.setRtc v).endless = s.endless := rfl
@[simp] theorem State.setRtc_map (s : State) (v : Rtc) : (s.setRtc v).map = s.map := rfl
@[simp] theorem State.setRtc_ercc (s : State) (v : Rtc) : (s.setRtc v).ercc = s.ercc := rfl
@[simp] theorem State.setRtc_rtc (s : State) (v : Rtc) : (s.setRtc v).rtc = v := rfl
@[simp] theorem State.setRtc_wcs (s : State) (v : Rtc) : (s.setRtc v).wcs = s.wcs := rfl
@[simp] theorem State.setRtc_devices (s : State) (v : Rtc) : (s.setRtc v).devices = s.devices := rfl
@[simp] theorem State.setRtc_dchQueue (s : State) (v : Rtc) : (s.setRtc v).dchQueue = s.dchQueue := rfl
@[simp] theorem State.setRtc_console (s : State) (v : Rtc) : (s.setRtc v).console = s.console := rfl
@[simp] theorem State.setRtc_inputs (s : State) (v : Rtc) : (s.setRtc v).inputs = s.inputs := rfl
@[simp] theorem State.setRtc_free (s : State) (v : Rtc) : (s.setRtc v).free = s.free := rfl
@[simp] theorem State.setRtc_cut (s : State) (v : Rtc) : (s.setRtc v).cut = s.cut := rfl
@[simp] theorem State.setRtc_mem (s : State) (v : Rtc) : (s.setRtc v).mem = s.mem := rfl
@[simp] theorem State.setWcs_cfg (s : State) (v : Wcs) : (s.setWcs v).cfg = s.cfg := rfl
@[simp] theorem State.setWcs_ac0 (s : State) (v : Wcs) : (s.setWcs v).ac0 = s.ac0 := rfl
@[simp] theorem State.setWcs_ac1 (s : State) (v : Wcs) : (s.setWcs v).ac1 = s.ac1 := rfl
@[simp] theorem State.setWcs_ac2 (s : State) (v : Wcs) : (s.setWcs v).ac2 = s.ac2 := rfl
@[simp] theorem State.setWcs_ac3 (s : State) (v : Wcs) : (s.setWcs v).ac3 = s.ac3 := rfl
@[simp] theorem State.setWcs_carry (s : State) (v : Wcs) : (s.setWcs v).carry = s.carry := rfl
@[simp] theorem State.setWcs_pc (s : State) (v : Wcs) : (s.setWcs v).pc = s.pc := rfl
@[simp] theorem State.setWcs_fpac0 (s : State) (v : Wcs) : (s.setWcs v).fpac0 = s.fpac0 := rfl
@[simp] theorem State.setWcs_fpac1 (s : State) (v : Wcs) : (s.setWcs v).fpac1 = s.fpac1 := rfl
@[simp] theorem State.setWcs_fpac2 (s : State) (v : Wcs) : (s.setWcs v).fpac2 = s.fpac2 := rfl
@[simp] theorem State.setWcs_fpac3 (s : State) (v : Wcs) : (s.setWcs v).fpac3 = s.fpac3 := rfl
@[simp] theorem State.setWcs_fpsr (s : State) (v : Wcs) : (s.setWcs v).fpsr = s.fpsr := rfl
@[simp] theorem State.setWcs_ion (s : State) (v : Wcs) : (s.setWcs v).ion = s.ion := rfl
@[simp] theorem State.setWcs_mask (s : State) (v : Wcs) : (s.setWcs v).mask = s.mask := rfl
@[simp] theorem State.setWcs_pwrFail (s : State) (v : Wcs) : (s.setWcs v).pwrFail = s.pwrFail := rfl
@[simp] theorem State.setWcs_run (s : State) (v : Wcs) : (s.setWcs v).run = s.run := rfl
@[simp] theorem State.setWcs_ionDelay (s : State) (v : Wcs) : (s.setWcs v).ionDelay = s.ionDelay := rfl
@[simp] theorem State.setWcs_sycHold (s : State) (v : Wcs) : (s.setWcs v).sycHold = s.sycHold := rfl
@[simp] theorem State.setWcs_userHold (s : State) (v : Wcs) : (s.setWcs v).userHold = s.userHold := rfl
@[simp] theorem State.setWcs_endless (s : State) (v : Wcs) : (s.setWcs v).endless = s.endless := rfl
@[simp] theorem State.setWcs_map (s : State) (v : Wcs) : (s.setWcs v).map = s.map := rfl
@[simp] theorem State.setWcs_ercc (s : State) (v : Wcs) : (s.setWcs v).ercc = s.ercc := rfl
@[simp] theorem State.setWcs_rtc (s : State) (v : Wcs) : (s.setWcs v).rtc = s.rtc := rfl
@[simp] theorem State.setWcs_wcs (s : State) (v : Wcs) : (s.setWcs v).wcs = v := rfl
@[simp] theorem State.setWcs_devices (s : State) (v : Wcs) : (s.setWcs v).devices = s.devices := rfl
@[simp] theorem State.setWcs_dchQueue (s : State) (v : Wcs) : (s.setWcs v).dchQueue = s.dchQueue := rfl
@[simp] theorem State.setWcs_console (s : State) (v : Wcs) : (s.setWcs v).console = s.console := rfl
@[simp] theorem State.setWcs_inputs (s : State) (v : Wcs) : (s.setWcs v).inputs = s.inputs := rfl
@[simp] theorem State.setWcs_free (s : State) (v : Wcs) : (s.setWcs v).free = s.free := rfl
@[simp] theorem State.setWcs_cut (s : State) (v : Wcs) : (s.setWcs v).cut = s.cut := rfl
@[simp] theorem State.setWcs_mem (s : State) (v : Wcs) : (s.setWcs v).mem = s.mem := rfl
@[simp] theorem State.setDevices_cfg (s : State) (v : List Device) : (s.setDevices v).cfg = s.cfg := rfl
@[simp] theorem State.setDevices_ac0 (s : State) (v : List Device) : (s.setDevices v).ac0 = s.ac0 := rfl
@[simp] theorem State.setDevices_ac1 (s : State) (v : List Device) : (s.setDevices v).ac1 = s.ac1 := rfl
@[simp] theorem State.setDevices_ac2 (s : State) (v : List Device) : (s.setDevices v).ac2 = s.ac2 := rfl
@[simp] theorem State.setDevices_ac3 (s : State) (v : List Device) : (s.setDevices v).ac3 = s.ac3 := rfl
@[simp] theorem State.setDevices_carry (s : State) (v : List Device) : (s.setDevices v).carry = s.carry := rfl
@[simp] theorem State.setDevices_pc (s : State) (v : List Device) : (s.setDevices v).pc = s.pc := rfl
@[simp] theorem State.setDevices_fpac0 (s : State) (v : List Device) : (s.setDevices v).fpac0 = s.fpac0 := rfl
@[simp] theorem State.setDevices_fpac1 (s : State) (v : List Device) : (s.setDevices v).fpac1 = s.fpac1 := rfl
@[simp] theorem State.setDevices_fpac2 (s : State) (v : List Device) : (s.setDevices v).fpac2 = s.fpac2 := rfl
@[simp] theorem State.setDevices_fpac3 (s : State) (v : List Device) : (s.setDevices v).fpac3 = s.fpac3 := rfl
@[simp] theorem State.setDevices_fpsr (s : State) (v : List Device) : (s.setDevices v).fpsr = s.fpsr := rfl
@[simp] theorem State.setDevices_ion (s : State) (v : List Device) : (s.setDevices v).ion = s.ion := rfl
@[simp] theorem State.setDevices_mask (s : State) (v : List Device) : (s.setDevices v).mask = s.mask := rfl
@[simp] theorem State.setDevices_pwrFail (s : State) (v : List Device) : (s.setDevices v).pwrFail = s.pwrFail := rfl
@[simp] theorem State.setDevices_run (s : State) (v : List Device) : (s.setDevices v).run = s.run := rfl
@[simp] theorem State.setDevices_ionDelay (s : State) (v : List Device) : (s.setDevices v).ionDelay = s.ionDelay := rfl
@[simp] theorem State.setDevices_sycHold (s : State) (v : List Device) : (s.setDevices v).sycHold = s.sycHold := rfl
@[simp] theorem State.setDevices_userHold (s : State) (v : List Device) : (s.setDevices v).userHold = s.userHold := rfl
@[simp] theorem State.setDevices_endless (s : State) (v : List Device) : (s.setDevices v).endless = s.endless := rfl
@[simp] theorem State.setDevices_map (s : State) (v : List Device) : (s.setDevices v).map = s.map := rfl
@[simp] theorem State.setDevices_ercc (s : State) (v : List Device) : (s.setDevices v).ercc = s.ercc := rfl
@[simp] theorem State.setDevices_rtc (s : State) (v : List Device) : (s.setDevices v).rtc = s.rtc := rfl
@[simp] theorem State.setDevices_wcs (s : State) (v : List Device) : (s.setDevices v).wcs = s.wcs := rfl
@[simp] theorem State.setDevices_devices (s : State) (v : List Device) : (s.setDevices v).devices = v := rfl
@[simp] theorem State.setDevices_dchQueue (s : State) (v : List Device) : (s.setDevices v).dchQueue = s.dchQueue := rfl
@[simp] theorem State.setDevices_console (s : State) (v : List Device) : (s.setDevices v).console = s.console := rfl
@[simp] theorem State.setDevices_inputs (s : State) (v : List Device) : (s.setDevices v).inputs = s.inputs := rfl
@[simp] theorem State.setDevices_free (s : State) (v : List Device) : (s.setDevices v).free = s.free := rfl
@[simp] theorem State.setDevices_cut (s : State) (v : List Device) : (s.setDevices v).cut = s.cut := rfl
@[simp] theorem State.setDevices_mem (s : State) (v : List Device) : (s.setDevices v).mem = s.mem := rfl
@[simp] theorem State.setDchQueue_cfg (s : State) (v : List DchRequest) : (s.setDchQueue v).cfg = s.cfg := rfl
@[simp] theorem State.setDchQueue_ac0 (s : State) (v : List DchRequest) : (s.setDchQueue v).ac0 = s.ac0 := rfl
@[simp] theorem State.setDchQueue_ac1 (s : State) (v : List DchRequest) : (s.setDchQueue v).ac1 = s.ac1 := rfl
@[simp] theorem State.setDchQueue_ac2 (s : State) (v : List DchRequest) : (s.setDchQueue v).ac2 = s.ac2 := rfl
@[simp] theorem State.setDchQueue_ac3 (s : State) (v : List DchRequest) : (s.setDchQueue v).ac3 = s.ac3 := rfl
@[simp] theorem State.setDchQueue_carry (s : State) (v : List DchRequest) : (s.setDchQueue v).carry = s.carry := rfl
@[simp] theorem State.setDchQueue_pc (s : State) (v : List DchRequest) : (s.setDchQueue v).pc = s.pc := rfl
@[simp] theorem State.setDchQueue_fpac0 (s : State) (v : List DchRequest) : (s.setDchQueue v).fpac0 = s.fpac0 := rfl
@[simp] theorem State.setDchQueue_fpac1 (s : State) (v : List DchRequest) : (s.setDchQueue v).fpac1 = s.fpac1 := rfl
@[simp] theorem State.setDchQueue_fpac2 (s : State) (v : List DchRequest) : (s.setDchQueue v).fpac2 = s.fpac2 := rfl
@[simp] theorem State.setDchQueue_fpac3 (s : State) (v : List DchRequest) : (s.setDchQueue v).fpac3 = s.fpac3 := rfl
@[simp] theorem State.setDchQueue_fpsr (s : State) (v : List DchRequest) : (s.setDchQueue v).fpsr = s.fpsr := rfl
@[simp] theorem State.setDchQueue_ion (s : State) (v : List DchRequest) : (s.setDchQueue v).ion = s.ion := rfl
@[simp] theorem State.setDchQueue_mask (s : State) (v : List DchRequest) : (s.setDchQueue v).mask = s.mask := rfl
@[simp] theorem State.setDchQueue_pwrFail (s : State) (v : List DchRequest) : (s.setDchQueue v).pwrFail = s.pwrFail := rfl
@[simp] theorem State.setDchQueue_run (s : State) (v : List DchRequest) : (s.setDchQueue v).run = s.run := rfl
@[simp] theorem State.setDchQueue_ionDelay (s : State) (v : List DchRequest) : (s.setDchQueue v).ionDelay = s.ionDelay := rfl
@[simp] theorem State.setDchQueue_sycHold (s : State) (v : List DchRequest) : (s.setDchQueue v).sycHold = s.sycHold := rfl
@[simp] theorem State.setDchQueue_userHold (s : State) (v : List DchRequest) : (s.setDchQueue v).userHold = s.userHold := rfl
@[simp] theorem State.setDchQueue_endless (s : State) (v : List DchRequest) : (s.setDchQueue v).endless = s.endless := rfl
@[simp] theorem State.setDchQueue_map (s : State) (v : List DchRequest) : (s.setDchQueue v).map = s.map := rfl
@[simp] theorem State.setDchQueue_ercc (s : State) (v : List DchRequest) : (s.setDchQueue v).ercc = s.ercc := rfl
@[simp] theorem State.setDchQueue_rtc (s : State) (v : List DchRequest) : (s.setDchQueue v).rtc = s.rtc := rfl
@[simp] theorem State.setDchQueue_wcs (s : State) (v : List DchRequest) : (s.setDchQueue v).wcs = s.wcs := rfl
@[simp] theorem State.setDchQueue_devices (s : State) (v : List DchRequest) : (s.setDchQueue v).devices = s.devices := rfl
@[simp] theorem State.setDchQueue_dchQueue (s : State) (v : List DchRequest) : (s.setDchQueue v).dchQueue = v := rfl
@[simp] theorem State.setDchQueue_console (s : State) (v : List DchRequest) : (s.setDchQueue v).console = s.console := rfl
@[simp] theorem State.setDchQueue_inputs (s : State) (v : List DchRequest) : (s.setDchQueue v).inputs = s.inputs := rfl
@[simp] theorem State.setDchQueue_free (s : State) (v : List DchRequest) : (s.setDchQueue v).free = s.free := rfl
@[simp] theorem State.setDchQueue_cut (s : State) (v : List DchRequest) : (s.setDchQueue v).cut = s.cut := rfl
@[simp] theorem State.setDchQueue_mem (s : State) (v : List DchRequest) : (s.setDchQueue v).mem = s.mem := rfl
@[simp] theorem State.setConsole_cfg (s : State) (v : Console) : (s.setConsole v).cfg = s.cfg := rfl
@[simp] theorem State.setConsole_ac0 (s : State) (v : Console) : (s.setConsole v).ac0 = s.ac0 := rfl
@[simp] theorem State.setConsole_ac1 (s : State) (v : Console) : (s.setConsole v).ac1 = s.ac1 := rfl
@[simp] theorem State.setConsole_ac2 (s : State) (v : Console) : (s.setConsole v).ac2 = s.ac2 := rfl
@[simp] theorem State.setConsole_ac3 (s : State) (v : Console) : (s.setConsole v).ac3 = s.ac3 := rfl
@[simp] theorem State.setConsole_carry (s : State) (v : Console) : (s.setConsole v).carry = s.carry := rfl
@[simp] theorem State.setConsole_pc (s : State) (v : Console) : (s.setConsole v).pc = s.pc := rfl
@[simp] theorem State.setConsole_fpac0 (s : State) (v : Console) : (s.setConsole v).fpac0 = s.fpac0 := rfl
@[simp] theorem State.setConsole_fpac1 (s : State) (v : Console) : (s.setConsole v).fpac1 = s.fpac1 := rfl
@[simp] theorem State.setConsole_fpac2 (s : State) (v : Console) : (s.setConsole v).fpac2 = s.fpac2 := rfl
@[simp] theorem State.setConsole_fpac3 (s : State) (v : Console) : (s.setConsole v).fpac3 = s.fpac3 := rfl
@[simp] theorem State.setConsole_fpsr (s : State) (v : Console) : (s.setConsole v).fpsr = s.fpsr := rfl
@[simp] theorem State.setConsole_ion (s : State) (v : Console) : (s.setConsole v).ion = s.ion := rfl
@[simp] theorem State.setConsole_mask (s : State) (v : Console) : (s.setConsole v).mask = s.mask := rfl
@[simp] theorem State.setConsole_pwrFail (s : State) (v : Console) : (s.setConsole v).pwrFail = s.pwrFail := rfl
@[simp] theorem State.setConsole_run (s : State) (v : Console) : (s.setConsole v).run = s.run := rfl
@[simp] theorem State.setConsole_ionDelay (s : State) (v : Console) : (s.setConsole v).ionDelay = s.ionDelay := rfl
@[simp] theorem State.setConsole_sycHold (s : State) (v : Console) : (s.setConsole v).sycHold = s.sycHold := rfl
@[simp] theorem State.setConsole_userHold (s : State) (v : Console) : (s.setConsole v).userHold = s.userHold := rfl
@[simp] theorem State.setConsole_endless (s : State) (v : Console) : (s.setConsole v).endless = s.endless := rfl
@[simp] theorem State.setConsole_map (s : State) (v : Console) : (s.setConsole v).map = s.map := rfl
@[simp] theorem State.setConsole_ercc (s : State) (v : Console) : (s.setConsole v).ercc = s.ercc := rfl
@[simp] theorem State.setConsole_rtc (s : State) (v : Console) : (s.setConsole v).rtc = s.rtc := rfl
@[simp] theorem State.setConsole_wcs (s : State) (v : Console) : (s.setConsole v).wcs = s.wcs := rfl
@[simp] theorem State.setConsole_devices (s : State) (v : Console) : (s.setConsole v).devices = s.devices := rfl
@[simp] theorem State.setConsole_dchQueue (s : State) (v : Console) : (s.setConsole v).dchQueue = s.dchQueue := rfl
@[simp] theorem State.setConsole_console (s : State) (v : Console) : (s.setConsole v).console = v := rfl
@[simp] theorem State.setConsole_inputs (s : State) (v : Console) : (s.setConsole v).inputs = s.inputs := rfl
@[simp] theorem State.setConsole_free (s : State) (v : Console) : (s.setConsole v).free = s.free := rfl
@[simp] theorem State.setConsole_cut (s : State) (v : Console) : (s.setConsole v).cut = s.cut := rfl
@[simp] theorem State.setConsole_mem (s : State) (v : Console) : (s.setConsole v).mem = s.mem := rfl
@[simp] theorem State.setInputs_cfg (s : State) (v : List (List Input)) : (s.setInputs v).cfg = s.cfg := rfl
@[simp] theorem State.setInputs_ac0 (s : State) (v : List (List Input)) : (s.setInputs v).ac0 = s.ac0 := rfl
@[simp] theorem State.setInputs_ac1 (s : State) (v : List (List Input)) : (s.setInputs v).ac1 = s.ac1 := rfl
@[simp] theorem State.setInputs_ac2 (s : State) (v : List (List Input)) : (s.setInputs v).ac2 = s.ac2 := rfl
@[simp] theorem State.setInputs_ac3 (s : State) (v : List (List Input)) : (s.setInputs v).ac3 = s.ac3 := rfl
@[simp] theorem State.setInputs_carry (s : State) (v : List (List Input)) : (s.setInputs v).carry = s.carry := rfl
@[simp] theorem State.setInputs_pc (s : State) (v : List (List Input)) : (s.setInputs v).pc = s.pc := rfl
@[simp] theorem State.setInputs_fpac0 (s : State) (v : List (List Input)) : (s.setInputs v).fpac0 = s.fpac0 := rfl
@[simp] theorem State.setInputs_fpac1 (s : State) (v : List (List Input)) : (s.setInputs v).fpac1 = s.fpac1 := rfl
@[simp] theorem State.setInputs_fpac2 (s : State) (v : List (List Input)) : (s.setInputs v).fpac2 = s.fpac2 := rfl
@[simp] theorem State.setInputs_fpac3 (s : State) (v : List (List Input)) : (s.setInputs v).fpac3 = s.fpac3 := rfl
@[simp] theorem State.setInputs_fpsr (s : State) (v : List (List Input)) : (s.setInputs v).fpsr = s.fpsr := rfl
@[simp] theorem State.setInputs_ion (s : State) (v : List (List Input)) : (s.setInputs v).ion = s.ion := rfl
@[simp] theorem State.setInputs_mask (s : State) (v : List (List Input)) : (s.setInputs v).mask = s.mask := rfl
@[simp] theorem State.setInputs_pwrFail (s : State) (v : List (List Input)) : (s.setInputs v).pwrFail = s.pwrFail := rfl
@[simp] theorem State.setInputs_run (s : State) (v : List (List Input)) : (s.setInputs v).run = s.run := rfl
@[simp] theorem State.setInputs_ionDelay (s : State) (v : List (List Input)) : (s.setInputs v).ionDelay = s.ionDelay := rfl
@[simp] theorem State.setInputs_sycHold (s : State) (v : List (List Input)) : (s.setInputs v).sycHold = s.sycHold := rfl
@[simp] theorem State.setInputs_userHold (s : State) (v : List (List Input)) : (s.setInputs v).userHold = s.userHold := rfl
@[simp] theorem State.setInputs_endless (s : State) (v : List (List Input)) : (s.setInputs v).endless = s.endless := rfl
@[simp] theorem State.setInputs_map (s : State) (v : List (List Input)) : (s.setInputs v).map = s.map := rfl
@[simp] theorem State.setInputs_ercc (s : State) (v : List (List Input)) : (s.setInputs v).ercc = s.ercc := rfl
@[simp] theorem State.setInputs_rtc (s : State) (v : List (List Input)) : (s.setInputs v).rtc = s.rtc := rfl
@[simp] theorem State.setInputs_wcs (s : State) (v : List (List Input)) : (s.setInputs v).wcs = s.wcs := rfl
@[simp] theorem State.setInputs_devices (s : State) (v : List (List Input)) : (s.setInputs v).devices = s.devices := rfl
@[simp] theorem State.setInputs_dchQueue (s : State) (v : List (List Input)) : (s.setInputs v).dchQueue = s.dchQueue := rfl
@[simp] theorem State.setInputs_console (s : State) (v : List (List Input)) : (s.setInputs v).console = s.console := rfl
@[simp] theorem State.setInputs_inputs (s : State) (v : List (List Input)) : (s.setInputs v).inputs = v := rfl
@[simp] theorem State.setInputs_free (s : State) (v : List (List Input)) : (s.setInputs v).free = s.free := rfl
@[simp] theorem State.setInputs_cut (s : State) (v : List (List Input)) : (s.setInputs v).cut = s.cut := rfl
@[simp] theorem State.setInputs_mem (s : State) (v : List (List Input)) : (s.setInputs v).mem = s.mem := rfl
@[simp] theorem State.setFree_cfg (s : State) (v : Nat) : (s.setFree v).cfg = s.cfg := rfl
@[simp] theorem State.setFree_ac0 (s : State) (v : Nat) : (s.setFree v).ac0 = s.ac0 := rfl
@[simp] theorem State.setFree_ac1 (s : State) (v : Nat) : (s.setFree v).ac1 = s.ac1 := rfl
@[simp] theorem State.setFree_ac2 (s : State) (v : Nat) : (s.setFree v).ac2 = s.ac2 := rfl
@[simp] theorem State.setFree_ac3 (s : State) (v : Nat) : (s.setFree v).ac3 = s.ac3 := rfl
@[simp] theorem State.setFree_carry (s : State) (v : Nat) : (s.setFree v).carry = s.carry := rfl
@[simp] theorem State.setFree_pc (s : State) (v : Nat) : (s.setFree v).pc = s.pc := rfl
@[simp] theorem State.setFree_fpac0 (s : State) (v : Nat) : (s.setFree v).fpac0 = s.fpac0 := rfl
@[simp] theorem State.setFree_fpac1 (s : State) (v : Nat) : (s.setFree v).fpac1 = s.fpac1 := rfl
@[simp] theorem State.setFree_fpac2 (s : State) (v : Nat) : (s.setFree v).fpac2 = s.fpac2 := rfl
@[simp] theorem State.setFree_fpac3 (s : State) (v : Nat) : (s.setFree v).fpac3 = s.fpac3 := rfl
@[simp] theorem State.setFree_fpsr (s : State) (v : Nat) : (s.setFree v).fpsr = s.fpsr := rfl
@[simp] theorem State.setFree_ion (s : State) (v : Nat) : (s.setFree v).ion = s.ion := rfl
@[simp] theorem State.setFree_mask (s : State) (v : Nat) : (s.setFree v).mask = s.mask := rfl
@[simp] theorem State.setFree_pwrFail (s : State) (v : Nat) : (s.setFree v).pwrFail = s.pwrFail := rfl
@[simp] theorem State.setFree_run (s : State) (v : Nat) : (s.setFree v).run = s.run := rfl
@[simp] theorem State.setFree_ionDelay (s : State) (v : Nat) : (s.setFree v).ionDelay = s.ionDelay := rfl
@[simp] theorem State.setFree_sycHold (s : State) (v : Nat) : (s.setFree v).sycHold = s.sycHold := rfl
@[simp] theorem State.setFree_userHold (s : State) (v : Nat) : (s.setFree v).userHold = s.userHold := rfl
@[simp] theorem State.setFree_endless (s : State) (v : Nat) : (s.setFree v).endless = s.endless := rfl
@[simp] theorem State.setFree_map (s : State) (v : Nat) : (s.setFree v).map = s.map := rfl
@[simp] theorem State.setFree_ercc (s : State) (v : Nat) : (s.setFree v).ercc = s.ercc := rfl
@[simp] theorem State.setFree_rtc (s : State) (v : Nat) : (s.setFree v).rtc = s.rtc := rfl
@[simp] theorem State.setFree_wcs (s : State) (v : Nat) : (s.setFree v).wcs = s.wcs := rfl
@[simp] theorem State.setFree_devices (s : State) (v : Nat) : (s.setFree v).devices = s.devices := rfl
@[simp] theorem State.setFree_dchQueue (s : State) (v : Nat) : (s.setFree v).dchQueue = s.dchQueue := rfl
@[simp] theorem State.setFree_console (s : State) (v : Nat) : (s.setFree v).console = s.console := rfl
@[simp] theorem State.setFree_inputs (s : State) (v : Nat) : (s.setFree v).inputs = s.inputs := rfl
@[simp] theorem State.setFree_free (s : State) (v : Nat) : (s.setFree v).free = v := rfl
@[simp] theorem State.setFree_cut (s : State) (v : Nat) : (s.setFree v).cut = s.cut := rfl
@[simp] theorem State.setFree_mem (s : State) (v : Nat) : (s.setFree v).mem = s.mem := rfl
@[simp] theorem State.setCut_cfg (s : State) (v : Option Nat) : (s.setCut v).cfg = s.cfg := rfl
@[simp] theorem State.setCut_ac0 (s : State) (v : Option Nat) : (s.setCut v).ac0 = s.ac0 := rfl
@[simp] theorem State.setCut_ac1 (s : State) (v : Option Nat) : (s.setCut v).ac1 = s.ac1 := rfl
@[simp] theorem State.setCut_ac2 (s : State) (v : Option Nat) : (s.setCut v).ac2 = s.ac2 := rfl
@[simp] theorem State.setCut_ac3 (s : State) (v : Option Nat) : (s.setCut v).ac3 = s.ac3 := rfl
@[simp] theorem State.setCut_carry (s : State) (v : Option Nat) : (s.setCut v).carry = s.carry := rfl
@[simp] theorem State.setCut_pc (s : State) (v : Option Nat) : (s.setCut v).pc = s.pc := rfl
@[simp] theorem State.setCut_fpac0 (s : State) (v : Option Nat) : (s.setCut v).fpac0 = s.fpac0 := rfl
@[simp] theorem State.setCut_fpac1 (s : State) (v : Option Nat) : (s.setCut v).fpac1 = s.fpac1 := rfl
@[simp] theorem State.setCut_fpac2 (s : State) (v : Option Nat) : (s.setCut v).fpac2 = s.fpac2 := rfl
@[simp] theorem State.setCut_fpac3 (s : State) (v : Option Nat) : (s.setCut v).fpac3 = s.fpac3 := rfl
@[simp] theorem State.setCut_fpsr (s : State) (v : Option Nat) : (s.setCut v).fpsr = s.fpsr := rfl
@[simp] theorem State.setCut_ion (s : State) (v : Option Nat) : (s.setCut v).ion = s.ion := rfl
@[simp] theorem State.setCut_mask (s : State) (v : Option Nat) : (s.setCut v).mask = s.mask := rfl
@[simp] theorem State.setCut_pwrFail (s : State) (v : Option Nat) : (s.setCut v).pwrFail = s.pwrFail := rfl
@[simp] theorem State.setCut_run (s : State) (v : Option Nat) : (s.setCut v).run = s.run := rfl
@[simp] theorem State.setCut_ionDelay (s : State) (v : Option Nat) : (s.setCut v).ionDelay = s.ionDelay := rfl
@[simp] theorem State.setCut_sycHold (s : State) (v : Option Nat) : (s.setCut v).sycHold = s.sycHold := rfl
@[simp] theorem State.setCut_userHold (s : State) (v : Option Nat) : (s.setCut v).userHold = s.userHold := rfl
@[simp] theorem State.setCut_endless (s : State) (v : Option Nat) : (s.setCut v).endless = s.endless := rfl
@[simp] theorem State.setCut_map (s : State) (v : Option Nat) : (s.setCut v).map = s.map := rfl
@[simp] theorem State.setCut_ercc (s : State) (v : Option Nat) : (s.setCut v).ercc = s.ercc := rfl
@[simp] theorem State.setCut_rtc (s : State) (v : Option Nat) : (s.setCut v).rtc = s.rtc := rfl
@[simp] theorem State.setCut_wcs (s : State) (v : Option Nat) : (s.setCut v).wcs = s.wcs := rfl
@[simp] theorem State.setCut_devices (s : State) (v : Option Nat) : (s.setCut v).devices = s.devices := rfl
@[simp] theorem State.setCut_dchQueue (s : State) (v : Option Nat) : (s.setCut v).dchQueue = s.dchQueue := rfl
@[simp] theorem State.setCut_console (s : State) (v : Option Nat) : (s.setCut v).console = s.console := rfl
@[simp] theorem State.setCut_inputs (s : State) (v : Option Nat) : (s.setCut v).inputs = s.inputs := rfl
@[simp] theorem State.setCut_free (s : State) (v : Option Nat) : (s.setCut v).free = s.free := rfl
@[simp] theorem State.setCut_cut (s : State) (v : Option Nat) : (s.setCut v).cut = v := rfl
@[simp] theorem State.setCut_mem (s : State) (v : Option Nat) : (s.setCut v).mem = s.mem := rfl
@[simp] theorem State.setMem_cfg (s : State) (v : Memory) : (s.setMem v).cfg = s.cfg := rfl
@[simp] theorem State.setMem_ac0 (s : State) (v : Memory) : (s.setMem v).ac0 = s.ac0 := rfl
@[simp] theorem State.setMem_ac1 (s : State) (v : Memory) : (s.setMem v).ac1 = s.ac1 := rfl
@[simp] theorem State.setMem_ac2 (s : State) (v : Memory) : (s.setMem v).ac2 = s.ac2 := rfl
@[simp] theorem State.setMem_ac3 (s : State) (v : Memory) : (s.setMem v).ac3 = s.ac3 := rfl
@[simp] theorem State.setMem_carry (s : State) (v : Memory) : (s.setMem v).carry = s.carry := rfl
@[simp] theorem State.setMem_pc (s : State) (v : Memory) : (s.setMem v).pc = s.pc := rfl
@[simp] theorem State.setMem_fpac0 (s : State) (v : Memory) : (s.setMem v).fpac0 = s.fpac0 := rfl
@[simp] theorem State.setMem_fpac1 (s : State) (v : Memory) : (s.setMem v).fpac1 = s.fpac1 := rfl
@[simp] theorem State.setMem_fpac2 (s : State) (v : Memory) : (s.setMem v).fpac2 = s.fpac2 := rfl
@[simp] theorem State.setMem_fpac3 (s : State) (v : Memory) : (s.setMem v).fpac3 = s.fpac3 := rfl
@[simp] theorem State.setMem_fpsr (s : State) (v : Memory) : (s.setMem v).fpsr = s.fpsr := rfl
@[simp] theorem State.setMem_ion (s : State) (v : Memory) : (s.setMem v).ion = s.ion := rfl
@[simp] theorem State.setMem_mask (s : State) (v : Memory) : (s.setMem v).mask = s.mask := rfl
@[simp] theorem State.setMem_pwrFail (s : State) (v : Memory) : (s.setMem v).pwrFail = s.pwrFail := rfl
@[simp] theorem State.setMem_run (s : State) (v : Memory) : (s.setMem v).run = s.run := rfl
@[simp] theorem State.setMem_ionDelay (s : State) (v : Memory) : (s.setMem v).ionDelay = s.ionDelay := rfl
@[simp] theorem State.setMem_sycHold (s : State) (v : Memory) : (s.setMem v).sycHold = s.sycHold := rfl
@[simp] theorem State.setMem_userHold (s : State) (v : Memory) : (s.setMem v).userHold = s.userHold := rfl
@[simp] theorem State.setMem_endless (s : State) (v : Memory) : (s.setMem v).endless = s.endless := rfl
@[simp] theorem State.setMem_map (s : State) (v : Memory) : (s.setMem v).map = s.map := rfl
@[simp] theorem State.setMem_ercc (s : State) (v : Memory) : (s.setMem v).ercc = s.ercc := rfl
@[simp] theorem State.setMem_rtc (s : State) (v : Memory) : (s.setMem v).rtc = s.rtc := rfl
@[simp] theorem State.setMem_wcs (s : State) (v : Memory) : (s.setMem v).wcs = s.wcs := rfl
@[simp] theorem State.setMem_devices (s : State) (v : Memory) : (s.setMem v).devices = s.devices := rfl
@[simp] theorem State.setMem_dchQueue (s : State) (v : Memory) : (s.setMem v).dchQueue = s.dchQueue := rfl
@[simp] theorem State.setMem_console (s : State) (v : Memory) : (s.setMem v).console = s.console := rfl
@[simp] theorem State.setMem_inputs (s : State) (v : Memory) : (s.setMem v).inputs = s.inputs := rfl
@[simp] theorem State.setMem_free (s : State) (v : Memory) : (s.setMem v).free = s.free := rfl
@[simp] theorem State.setMem_cut (s : State) (v : Memory) : (s.setMem v).cut = s.cut := rfl
@[simp] theorem State.setMem_mem (s : State) (v : Memory) : (s.setMem v).mem = v := rfl
@[simp] theorem State.setAc_cfg (s : State) (n : Acc) (v : Word) : (s.setAc n v).cfg = s.cfg := by cases n <;> rfl
@[simp] theorem State.setFpac_cfg (s : State) (n : Acc) (v : Quad) : (s.setFpac n v).cfg = s.cfg := by cases n <;> rfl
@[simp] theorem State.setFpac_ac0 (s : State) (n : Acc) (v : Quad) : (s.setFpac n v).ac0 = s.ac0 := by cases n <;> rfl
@[simp] theorem State.setFpac_ac1 (s : State) (n : Acc) (v : Quad) : (s.setFpac n v).ac1 = s.ac1 := by cases n <;> rfl
@[simp] theorem State.setFpac_ac2 (s : State) (n : Acc) (v : Quad) : (s.setFpac n v).ac2 = s.ac2 := by cases n <;> rfl
@[simp] theorem State.setFpac_ac3 (s : State) (n : Acc) (v : Quad) : (s.setFpac n v).ac3 = s.ac3 := by cases n <;> rfl
@[simp] theorem State.setAc_carry (s : State) (n : Acc) (v : Word) : (s.setAc n v).carry = s.carry := by cases n <;> rfl
@[simp] theorem State.setFpac_carry (s : State) (n : Acc) (v : Quad) : (s.setFpac n v).carry = s.carry := by cases n <;> rfl
@[simp] theorem State.setAc_pc (s : State) (n : Acc) (v : Word) : (s.setAc n v).pc = s.pc := by cases n <;> rfl
@[simp] theorem State.setFpac_pc (s : State) (n : Acc) (v : Quad) : (s.setFpac n v).pc = s.pc := by cases n <;> rfl
@[simp] theorem State.setAc_fpac0 (s : State) (n : Acc) (v : Word) : (s.setAc n v).fpac0 = s.fpac0 := by cases n <;> rfl
@[simp] theorem State.setAc_fpac1 (s : State) (n : Acc) (v : Word) : (s.setAc n v).fpac1 = s.fpac1 := by cases n <;> rfl
@[simp] theorem State.setAc_fpac2 (s : State) (n : Acc) (v : Word) : (s.setAc n v).fpac2 = s.fpac2 := by cases n <;> rfl
@[simp] theorem State.setAc_fpac3 (s : State) (n : Acc) (v : Word) : (s.setAc n v).fpac3 = s.fpac3 := by cases n <;> rfl
@[simp] theorem State.setAc_fpsr (s : State) (n : Acc) (v : Word) : (s.setAc n v).fpsr = s.fpsr := by cases n <;> rfl
@[simp] theorem State.setFpac_fpsr (s : State) (n : Acc) (v : Quad) : (s.setFpac n v).fpsr = s.fpsr := by cases n <;> rfl
@[simp] theorem State.setAc_ion (s : State) (n : Acc) (v : Word) : (s.setAc n v).ion = s.ion := by cases n <;> rfl
@[simp] theorem State.setFpac_ion (s : State) (n : Acc) (v : Quad) : (s.setFpac n v).ion = s.ion := by cases n <;> rfl
@[simp] theorem State.setAc_mask (s : State) (n : Acc) (v : Word) : (s.setAc n v).mask = s.mask := by cases n <;> rfl
@[simp] theorem State.setFpac_mask (s : State) (n : Acc) (v : Quad) : (s.setFpac n v).mask = s.mask := by cases n <;> rfl
@[simp] theorem State.setAc_pwrFail (s : State) (n : Acc) (v : Word) : (s.setAc n v).pwrFail = s.pwrFail := by cases n <;> rfl
@[simp] theorem State.setFpac_pwrFail (s : State) (n : Acc) (v : Quad) : (s.setFpac n v).pwrFail = s.pwrFail := by cases n <;> rfl
@[simp] theorem State.setAc_run (s : State) (n : Acc) (v : Word) : (s.setAc n v).run = s.run := by cases n <;> rfl
@[simp] theorem State.setFpac_run (s : State) (n : Acc) (v : Quad) : (s.setFpac n v).run = s.run := by cases n <;> rfl
@[simp] theorem State.setAc_ionDelay (s : State) (n : Acc) (v : Word) : (s.setAc n v).ionDelay = s.ionDelay := by cases n <;> rfl
@[simp] theorem State.setFpac_ionDelay (s : State) (n : Acc) (v : Quad) : (s.setFpac n v).ionDelay = s.ionDelay := by cases n <;> rfl
@[simp] theorem State.setAc_sycHold (s : State) (n : Acc) (v : Word) : (s.setAc n v).sycHold = s.sycHold := by cases n <;> rfl
@[simp] theorem State.setFpac_sycHold (s : State) (n : Acc) (v : Quad) : (s.setFpac n v).sycHold = s.sycHold := by cases n <;> rfl
@[simp] theorem State.setAc_userHold (s : State) (n : Acc) (v : Word) : (s.setAc n v).userHold = s.userHold := by cases n <;> rfl
@[simp] theorem State.setFpac_userHold (s : State) (n : Acc) (v : Quad) : (s.setFpac n v).userHold = s.userHold := by cases n <;> rfl
@[simp] theorem State.setAc_endless (s : State) (n : Acc) (v : Word) : (s.setAc n v).endless = s.endless := by cases n <;> rfl
@[simp] theorem State.setFpac_endless (s : State) (n : Acc) (v : Quad) : (s.setFpac n v).endless = s.endless := by cases n <;> rfl
@[simp] theorem State.setAc_map (s : State) (n : Acc) (v : Word) : (s.setAc n v).map = s.map := by cases n <;> rfl
@[simp] theorem State.setFpac_map (s : State) (n : Acc) (v : Quad) : (s.setFpac n v).map = s.map := by cases n <;> rfl
@[simp] theorem State.setAc_ercc (s : State) (n : Acc) (v : Word) : (s.setAc n v).ercc = s.ercc := by cases n <;> rfl
@[simp] theorem State.setFpac_ercc (s : State) (n : Acc) (v : Quad) : (s.setFpac n v).ercc = s.ercc := by cases n <;> rfl
@[simp] theorem State.setAc_rtc (s : State) (n : Acc) (v : Word) : (s.setAc n v).rtc = s.rtc := by cases n <;> rfl
@[simp] theorem State.setFpac_rtc (s : State) (n : Acc) (v : Quad) : (s.setFpac n v).rtc = s.rtc := by cases n <;> rfl
@[simp] theorem State.setAc_wcs (s : State) (n : Acc) (v : Word) : (s.setAc n v).wcs = s.wcs := by cases n <;> rfl
@[simp] theorem State.setFpac_wcs (s : State) (n : Acc) (v : Quad) : (s.setFpac n v).wcs = s.wcs := by cases n <;> rfl
@[simp] theorem State.setAc_devices (s : State) (n : Acc) (v : Word) : (s.setAc n v).devices = s.devices := by cases n <;> rfl
@[simp] theorem State.setFpac_devices (s : State) (n : Acc) (v : Quad) : (s.setFpac n v).devices = s.devices := by cases n <;> rfl
@[simp] theorem State.setAc_dchQueue (s : State) (n : Acc) (v : Word) : (s.setAc n v).dchQueue = s.dchQueue := by cases n <;> rfl
@[simp] theorem State.setFpac_dchQueue (s : State) (n : Acc) (v : Quad) : (s.setFpac n v).dchQueue = s.dchQueue := by cases n <;> rfl
@[simp] theorem State.setAc_console (s : State) (n : Acc) (v : Word) : (s.setAc n v).console = s.console := by cases n <;> rfl
@[simp] theorem State.setFpac_console (s : State) (n : Acc) (v : Quad) : (s.setFpac n v).console = s.console := by cases n <;> rfl
@[simp] theorem State.setAc_inputs (s : State) (n : Acc) (v : Word) : (s.setAc n v).inputs = s.inputs := by cases n <;> rfl
@[simp] theorem State.setFpac_inputs (s : State) (n : Acc) (v : Quad) : (s.setFpac n v).inputs = s.inputs := by cases n <;> rfl
@[simp] theorem State.setAc_free (s : State) (n : Acc) (v : Word) : (s.setAc n v).free = s.free := by cases n <;> rfl
@[simp] theorem State.setFpac_free (s : State) (n : Acc) (v : Quad) : (s.setFpac n v).free = s.free := by cases n <;> rfl
@[simp] theorem State.setAc_cut (s : State) (n : Acc) (v : Word) : (s.setAc n v).cut = s.cut := by cases n <;> rfl
@[simp] theorem State.setFpac_cut (s : State) (n : Acc) (v : Quad) : (s.setFpac n v).cut = s.cut := by cases n <;> rfl
@[simp] theorem State.setAc_mem (s : State) (n : Acc) (v : Word) : (s.setAc n v).mem = s.mem := by cases n <;> rfl
@[simp] theorem State.setFpac_mem (s : State) (n : Acc) (v : Quad) : (s.setFpac n v).mem = s.mem := by cases n <;> rfl
@[simp] theorem State.setAc0_fpac (s : State) (v : Word) (n : Acc) : (s.setAc0 v).fpac n = s.fpac n := by cases n <;> rfl
@[simp] theorem State.setAc1_fpac (s : State) (v : Word) (n : Acc) : (s.setAc1 v).fpac n = s.fpac n := by cases n <;> rfl
@[simp] theorem State.setAc2_fpac (s : State) (v : Word) (n : Acc) : (s.setAc2 v).fpac n = s.fpac n := by cases n <;> rfl
@[simp] theorem State.setAc3_fpac (s : State) (v : Word) (n : Acc) : (s.setAc3 v).fpac n = s.fpac n := by cases n <;> rfl
@[simp] theorem State.setCarry_ac (s : State) (v : Bool) (n : Acc) : (s.setCarry v).ac n = s.ac n := by cases n <;> rfl
@[simp] theorem State.setCarry_fpac (s : State) (v : Bool) (n : Acc) : (s.setCarry v).fpac n = s.fpac n := by cases n <;> rfl
@[simp] theorem State.setPc_ac (s : State) (v : Addr) (n : Acc) : (s.setPc v).ac n = s.ac n := by cases n <;> rfl
@[simp] theorem State.setPc_fpac (s : State) (v : Addr) (n : Acc) : (s.setPc v).fpac n = s.fpac n := by cases n <;> rfl
@[simp] theorem State.setFpac0_ac (s : State) (v : Quad) (n : Acc) : (s.setFpac0 v).ac n = s.ac n := by cases n <;> rfl
@[simp] theorem State.setFpac1_ac (s : State) (v : Quad) (n : Acc) : (s.setFpac1 v).ac n = s.ac n := by cases n <;> rfl
@[simp] theorem State.setFpac2_ac (s : State) (v : Quad) (n : Acc) : (s.setFpac2 v).ac n = s.ac n := by cases n <;> rfl
@[simp] theorem State.setFpac3_ac (s : State) (v : Quad) (n : Acc) : (s.setFpac3 v).ac n = s.ac n := by cases n <;> rfl
@[simp] theorem State.setFpsr_ac (s : State) (v : BitVec 32) (n : Acc) : (s.setFpsr v).ac n = s.ac n := by cases n <;> rfl
@[simp] theorem State.setFpsr_fpac (s : State) (v : BitVec 32) (n : Acc) : (s.setFpsr v).fpac n = s.fpac n := by cases n <;> rfl
@[simp] theorem State.setIon_ac (s : State) (v : Bool) (n : Acc) : (s.setIon v).ac n = s.ac n := by cases n <;> rfl
@[simp] theorem State.setIon_fpac (s : State) (v : Bool) (n : Acc) : (s.setIon v).fpac n = s.fpac n := by cases n <;> rfl
@[simp] theorem State.setMask_ac (s : State) (v : Word) (n : Acc) : (s.setMask v).ac n = s.ac n := by cases n <;> rfl
@[simp] theorem State.setMask_fpac (s : State) (v : Word) (n : Acc) : (s.setMask v).fpac n = s.fpac n := by cases n <;> rfl
@[simp] theorem State.setPwrFail_ac (s : State) (v : Bool) (n : Acc) : (s.setPwrFail v).ac n = s.ac n := by cases n <;> rfl
@[simp] theorem State.setPwrFail_fpac (s : State) (v : Bool) (n : Acc) : (s.setPwrFail v).fpac n = s.fpac n := by cases n <;> rfl
@[simp] theorem State.setRun_ac (s : State) (v : Bool) (n : Acc) : (s.setRun v).ac n = s.ac n := by cases n <;> rfl
@[simp] theorem State.setRun_fpac (s : State) (v : Bool) (n : Acc) : (s.setRun v).fpac n = s.fpac n := by cases n <;> rfl
@[simp] theorem State.setIonDelay_ac (s : State) (v : Hold) (n : Acc) : (s.setIonDelay v).ac n = s.ac n := by cases n <;> rfl
@[simp] theorem State.setIonDelay_fpac (s : State) (v : Hold) (n : Acc) : (s.setIonDelay v).fpac n = s.fpac n := by cases n <;> rfl
@[simp] theorem State.setSycHold_ac (s : State) (v : Hold) (n : Acc) : (s.setSycHold v).ac n = s.ac n := by cases n <;> rfl
@[simp] theorem State.setSycHold_fpac (s : State) (v : Hold) (n : Acc) : (s.setSycHold v).fpac n = s.fpac n := by cases n <;> rfl
@[simp] theorem State.setUserHold_ac (s : State) (v : Hold) (n : Acc) : (s.setUserHold v).ac n = s.ac n := by cases n <;> rfl
@[simp] theorem State.setUserHold_fpac (s : State) (v : Hold) (n : Acc) : (s.setUserHold v).fpac n = s.fpac n := by cases n <;> rfl
@[simp] theorem State.setEndless_ac (s : State) (v : Endless) (n : Acc) : (s.setEndless v).ac n = s.ac n := by cases n <;> rfl
@[simp] theorem State.setEndless_fpac (s : State) (v : Endless) (n : Acc) : (s.setEndless v).fpac n = s.fpac n := by cases n <;> rfl
@[simp] theorem State.setMap_ac (s : State) (v : MapUnit) (n : Acc) : (s.setMap v).ac n = s.ac n := by cases n <;> rfl
@[simp] theorem State.setMap_fpac (s : State) (v : MapUnit) (n : Acc) : (s.setMap v).fpac n = s.fpac n := by cases n <;> rfl
@[simp] theorem State.setErcc_ac (s : State) (v : Ercc) (n : Acc) : (s.setErcc v).ac n = s.ac n := by cases n <;> rfl
@[simp] theorem State.setErcc_fpac (s : State) (v : Ercc) (n : Acc) : (s.setErcc v).fpac n = s.fpac n := by cases n <;> rfl
@[simp] theorem State.setRtc_ac (s : State) (v : Rtc) (n : Acc) : (s.setRtc v).ac n = s.ac n := by cases n <;> rfl
@[simp] theorem State.setRtc_fpac (s : State) (v : Rtc) (n : Acc) : (s.setRtc v).fpac n = s.fpac n := by cases n <;> rfl
@[simp] theorem State.setWcs_ac (s : State) (v : Wcs) (n : Acc) : (s.setWcs v).ac n = s.ac n := by cases n <;> rfl
@[simp] theorem State.setWcs_fpac (s : State) (v : Wcs) (n : Acc) : (s.setWcs v).fpac n = s.fpac n := by cases n <;> rfl
@[simp] theorem State.setDevices_ac (s : State) (v : List Device) (n : Acc) : (s.setDevices v).ac n = s.ac n := by cases n <;> rfl
@[simp] theorem State.setDevices_fpac (s : State) (v : List Device) (n : Acc) : (s.setDevices v).fpac n = s.fpac n := by cases n <;> rfl
@[simp] theorem State.setDchQueue_ac (s : State) (v : List DchRequest) (n : Acc) : (s.setDchQueue v).ac n = s.ac n := by cases n <;> rfl
@[simp] theorem State.setDchQueue_fpac (s : State) (v : List DchRequest) (n : Acc) : (s.setDchQueue v).fpac n = s.fpac n := by cases n <;> rfl
@[simp] theorem State.setConsole_ac (s : State) (v : Console) (n : Acc) : (s.setConsole v).ac n = s.ac n := by cases n <;> rfl
@[simp] theorem State.setConsole_fpac (s : State) (v : Console) (n : Acc) : (s.setConsole v).fpac n = s.fpac n := by cases n <;> rfl
@[simp] theorem State.setInputs_ac (s : State) (v : List (List Input)) (n : Acc) : (s.setInputs v).ac n = s.ac n := by cases n <;> rfl
@[simp] theorem State.setInputs_fpac (s : State) (v : List (List Input)) (n : Acc) : (s.setInputs v).fpac n = s.fpac n := by cases n <;> rfl
@[simp] theorem State.setFree_ac (s : State) (v : Nat) (n : Acc) : (s.setFree v).ac n = s.ac n := by cases n <;> rfl
@[simp] theorem State.setFree_fpac (s : State) (v : Nat) (n : Acc) : (s.setFree v).fpac n = s.fpac n := by cases n <;> rfl
@[simp] theorem State.setCut_ac (s : State) (v : Option Nat) (n : Acc) : (s.setCut v).ac n = s.ac n := by cases n <;> rfl
@[simp] theorem State.setCut_fpac (s : State) (v : Option Nat) (n : Acc) : (s.setCut v).fpac n = s.fpac n := by cases n <;> rfl
@[simp] theorem State.setMem_ac (s : State) (v : Memory) (n : Acc) : (s.setMem v).ac n = s.ac n := by cases n <;> rfl
@[simp] theorem State.setMem_fpac (s : State) (v : Memory) (n : Acc) : (s.setMem v).fpac n = s.fpac n := by cases n <;> rfl

theorem State.setAc_ac (s : State) (n m : Acc) (v : Word) :
    (s.setAc n v).ac m = if m = n then v else s.ac m := by cases n <;> cases m <;> rfl

@[simp] theorem State.setAc_ac_same (s : State) (n : Acc) (v : Word) : (s.setAc n v).ac n = v := by
  cases n <;> rfl

theorem State.setFpac_fpac (s : State) (n m : Acc) (v : Quad) :
    (s.setFpac n v).fpac m = if m = n then v else s.fpac m := by cases n <;> cases m <;> rfl

@[simp] theorem State.setFpac_fpac_same (s : State) (n : Acc) (v : Quad) : (s.setFpac n v).fpac n = v := by
  cases n <;> rfl

@[simp] theorem State.setFpac_ac (s : State) (n m : Acc) (v : Quad) : (s.setFpac n v).ac m = s.ac m := by
  cases n <;> cases m <;> rfl

@[simp] theorem State.setAc_fpac (s : State) (n m : Acc) (v : Word) : (s.setAc n v).fpac m = s.fpac m := by
  cases n <;> cases m <;> rfl

end Sys2Proof.Machine
end

