-- ==== Sys2Proof/Laws/Ops.lean ====
section
/-! SUPPORT. What the shared operations do: how a rule is run step by step, memory references in quiet states, the
stack, chains of address words. -/

namespace Sys2Proof.Machine

/-! ### Running a rule -/

@[simp] theorem Exec.bind_apply {α β : Type} (m : Exec α) (f : α → Exec β) (s : State) :
    (m >>= f) s = match m s with
      | .ok a t => f a t
      | .error e t => .error e t := by
  simp only [bind, EStateM.bind]
  cases m s <;> rfl

@[simp] theorem Exec.pure_apply {α : Type} (a : α) (s : State) : (pure a : Exec α) s = .ok a s := rfl

@[simp] theorem Exec.get_apply (s : State) : (get : Exec State) s = .ok s s := rfl

@[simp] theorem Exec.set_apply (s t : State) : (set t : Exec PUnit) s = .ok ⟨⟩ t := rfl

@[simp] theorem Exec.modify_apply (f : State → State) (s : State) : (modify f : Exec PUnit) s = .ok ⟨⟩ (f s) := rfl

@[simp] theorem Exec.throw_apply {α : Type} (e : Stop) (s : State) : (throw e : Exec α) s = .error e s := rfl

theorem Exec.ite_apply {α : Type} (c : Prop) [Decidable c] (m n : Exec α) (s : State) :
    (if c then m else n) s = if c then m s else n s := by split <;> rfl

theorem runExec_ok {m : Exec Unit} {s t : State} (h : m s = .ok () t) : runExec m s = .next t := by
  simp [runExec, h]

theorem runExec_trap {m : Exec Unit} {s t : State} (h : m s = .error .trap t) : runExec m s = .next t := by
  simp [runExec, h]

theorem runExec_stuck {m : Exec Unit} {s t : State} (h : m s = .error .stuck t) : runExec m s = .next (stuckIn m s) := by
  simp [runExec, h]

/-- A rule answers a next state exactly when it ends normally, with an exception taken, or never. -/
theorem runExec_next {m : Exec Unit} {s t : State} (h : runExec m s = .next t) :
    m s = .ok () t ∨ m s = .error .trap t ∨ ((∃ u, m s = .error .stuck u) ∧ t = stuckIn m s) := by
  unfold runExec at h
  split at h <;> simp_all

@[simp] theorem advance_apply (len : Addr) (s : State) : advance len s = .ok () (s.setPc (s.pc + len)) := rfl

@[simp] theorem advanceSkip_apply (len : Addr) (c : Bool) (s : State) :
    advanceSkip len c s = .ok () (s.setPc (s.pc + (if c then len + 1 else len))) := rfl

@[simp] theorem jumpTo_apply (e : Addr) (s : State) : jumpTo e s = .ok () (s.setPc e) := rfl

@[simp] theorem freshWord_apply (s : State) :
    freshWord s = .ok (Config.freeWord s.free) (s.setFree (s.free + 1)) := rfl

@[simp] theorem freshQuad_apply (s : State) :
    freshQuad s = .ok (Config.freeQuad s.free) (s.setFree (s.free + 1)) := rfl

/-! ### Quiet and calm states -/

theorem State.quiet_iff (s : State) : s.quiet = true ↔
    s.comparing = .off ∧ s.ercc.events = [] ∧ s.cut = none := by
  simp [State.quiet, and_assoc]

theorem State.calm_iff (s : State) :
    s.calm = true ↔ s.quiet = true ∧ s.userMode = false := by
  simp [State.calm]

theorem State.quiet_of_calm {s : State} (h : s.calm = true) : s.quiet = true := ((calm_iff s).1 h).1

theorem State.readable_of_calm {s : State} (h : s.calm = true) (a : Addr) : s.readable a = true := by
  simp [State.readable, State.translate, ((State.calm_iff s).1 h).2]

theorem State.writable_of_calm {s : State} (h : s.calm = true) (a : Addr) : s.writable a = true := by
  simp [State.writable, State.translate, ((State.calm_iff s).1 h).2]

theorem State.look_of_calm {s : State} (h : s.calm = true) (a : Addr) : s.look a = s.content (s.unmapped a) := by
  simp [State.look, State.translate, ((State.calm_iff s).1 h).2]

theorem State.put_of_calm {s : State} (h : s.calm = true) (a : Addr) (v : Word) :
    s.put a v = s.physWrite (s.unmapped a) v := by
  simp [State.put, State.translate, ((State.calm_iff s).1 h).2]

/-- A store changes memory only. -/
theorem State.put_eq (s : State) (a : Addr) (v : Word) : s.put a v = s.setMem (s.put a v).mem := by
  unfold State.put State.physWrite
  split
  · split <;> rfl
  · rfl

theorem State.physWrite_eq (s : State) (pa : Nat) (v : Word) :
    s.physWrite pa v = s.setMem (s.physWrite pa v).mem := by
  unfold State.physWrite
  split <;> rfl

/-- A read without injected errors changes nothing (20_memory.md R65). -/
theorem State.physRead_quiet {s : State} (h : s.ercc.events = []) (pa : Nat) :
    s.physRead pa = (s.content pa, s) := by
  unfold State.physRead State.content
  rw [h]
  split_ifs <;> rfl

/-- A word stored in installed memory is read back from the same physical word. -/
theorem State.content_physWrite_same {s : State} (h : Memory.wf s.mem = true) {pa : Nat} (hp : pa < s.cfg.memWords)
    (v : Word) : (s.physWrite pa v).content pa = v := by
  simp [State.content, State.physWrite, hp, Memory.word_setWord_same _ h]

/-- A store leaves every other physical word alone. -/
theorem State.content_physWrite_other {s : State} (h : Memory.wf s.mem = true) {pa qa : Nat} (hq : qa ≠ pa)
    (v : Word) : (s.physWrite pa v).content qa = s.content qa := by
  unfold State.physWrite
  split
  · simp [State.content, Memory.word_setWord_other _ h _ _ _ hq]
  · rfl

/-- Every byte outside the stored word reads as before. -/
theorem State.byte_physWrite {s : State} (h : Memory.wf s.mem = true) (pa : Nat) (v : Word) (n : Nat)
    (h0 : n ≠ 2 * pa) (h1 : n ≠ 2 * pa + 1) : Memory.byte (s.physWrite pa v).mem n = Memory.byte s.mem n := by
  unfold State.physWrite
  split
  · simp [Memory.byte_setWord _ h, h0, h1]
  · rfl

@[simp] theorem State.physWrite_comparing (s : State) (pa : Nat) (v : Word) :
    (s.physWrite pa v).comparing = s.comparing := by
  rw [State.physWrite_eq]
  rfl

/-- Nothing precedes a reference in a quiet state. -/
theorem beforeAccess_quiet {s : State} (h : s.quiet = true) (a : Addr) : beforeAccess a s = .ok () s := by
  obtain ⟨h1, -, h3⟩ := (State.quiet_iff s).1 h
  simp [beforeAccess, spendCycle, h1, h3]

/-- A read in a quiet state: the word, and nothing changed. -/
theorem readBus_quiet {s : State} (h : s.quiet = true) {a : Addr} (hr : s.readable a = true) :
    readBus false a s = .ok (s.look a) s := by
  obtain ⟨h1, h2, -⟩ := (State.quiet_iff s).1 h
  unfold State.readable at hr
  unfold State.look
  cases ht : s.translate false false a with
  | error v => simp [ht] at hr
  | ok pa =>
    simp [readBus, beforeAccess_quiet h, ht, readAt, h1, State.physRead_quiet h2, afterAccess]

/-- MemRead in a quiet state. -/
theorem memRead_quiet {s : State} (h : s.quiet = true) {a : Addr} (hr : s.readable a = true) :
    memRead a s = .ok (s.look a) s := readBus_quiet h hr

/-- A store in a quiet state. -/
theorem writeBus_quiet {s : State} (h : s.quiet = true) {a : Addr} (hr : s.writable a = true) (v : Word) :
    writeBus false a v s = .ok () (s.put a v) := by
  obtain ⟨h1, -⟩ := (State.quiet_iff s).1 h
  unfold State.writable at hr
  cases ht : s.translate false true a with
  | error v => simp [ht] at hr
  | ok pa =>
    have hp : s.put a v = s.physWrite pa v := by simp [State.put, ht]
    simp [writeBus, beforeAccess_quiet h, ht, writeAt, hp, afterAccess, h1]

/-- MemWrite in a quiet state. -/
theorem memWrite_quiet {s : State} (h : s.quiet = true) {a : Addr} (hr : s.writable a = true) (v : Word) :
    memWrite a v s = .ok () (s.put a v) := writeBus_quiet h hr v

theorem memRead_calm {s : State} (h : s.calm = true) (a : Addr) : memRead a s = .ok (s.look a) s :=
  memRead_quiet (State.quiet_of_calm h) (State.readable_of_calm h a)

theorem memWrite_calm {s : State} (h : s.calm = true) (a : Addr) (v : Word) : memWrite a v s = .ok () (s.put a v) :=
  memWrite_quiet (State.quiet_of_calm h) (State.writable_of_calm h a) v

end Sys2Proof.Machine
end

