-- ==== Sys2Proof/Laws/Quiet.lean ====
section
/-! SUPPORT. Updates that memory references do not see: what a state reads as, where it may be read, and whether it is
quiet or calm do not depend on registers; a store changes memory only. -/

namespace Sys2Proof.Machine


@[simp] theorem State.setAc0_look (s : State) (v : Word) (a : Addr) : (s.setAc0 v).look a = s.look a := rfl
@[simp] theorem State.setAc0_readable (s : State) (v : Word) (a : Addr) : (s.setAc0 v).readable a = s.readable a := rfl
@[simp] theorem State.setAc0_writable (s : State) (v : Word) (a : Addr) : (s.setAc0 v).writable a = s.writable a := rfl
@[simp] theorem State.setAc0_quiet (s : State) (v : Word) : (s.setAc0 v).quiet = s.quiet := rfl
@[simp] theorem State.setAc0_calm (s : State) (v : Word) : (s.setAc0 v).calm = s.calm := rfl
@[simp] theorem State.setAc1_look (s : State) (v : Word) (a : Addr) : (s.setAc1 v).look a = s.look a := rfl
@[simp] theorem State.setAc1_readable (s : State) (v : Word) (a : Addr) : (s.setAc1 v).readable a = s.readable a := rfl
@[simp] theorem State.setAc1_writable (s : State) (v : Word) (a : Addr) : (s.setAc1 v).writable a = s.writable a := rfl
@[simp] theorem State.setAc1_quiet (s : State) (v : Word) : (s.setAc1 v).quiet = s.quiet := rfl
@[simp] theorem State.setAc1_calm (s : State) (v : Word) : (s.setAc1 v).calm = s.calm := rfl
@[simp] theorem State.setAc2_look (s : State) (v : Word) (a : Addr) : (s.setAc2 v).look a = s.look a := rfl
@[simp] theorem State.setAc2_readable (s : State) (v : Word) (a : Addr) : (s.setAc2 v).readable a = s.readable a := rfl
@[simp] theorem State.setAc2_writable (s : State) (v : Word) (a : Addr) : (s.setAc2 v).writable a = s.writable a := rfl
@[simp] theorem State.setAc2_quiet (s : State) (v : Word) : (s.setAc2 v).quiet = s.quiet := rfl
@[simp] theorem State.setAc2_calm (s : State) (v : Word) : (s.setAc2 v).calm = s.calm := rfl
@[simp] theorem State.setAc3_look (s : State) (v : Word) (a : Addr) : (s.setAc3 v).look a = s.look a := rfl
@[simp] theorem State.setAc3_readable (s : State) (v : Word) (a : Addr) : (s.setAc3 v).readable a = s.readable a := rfl
@[simp] theorem State.setAc3_writable (s : State) (v : Word) (a : Addr) : (s.setAc3 v).writable a = s.writable a := rfl
@[simp] theorem State.setAc3_quiet (s : State) (v : Word) : (s.setAc3 v).quiet = s.quiet := rfl
@[simp] theorem State.setAc3_calm (s : State) (v : Word) : (s.setAc3 v).calm = s.calm := rfl
@[simp] theorem State.setCarry_look (s : State) (v : Bool) (a : Addr) : (s.setCarry v).look a = s.look a := rfl
@[simp] theorem State.setCarry_readable (s : State) (v : Bool) (a : Addr) : (s.setCarry v).readable a = s.readable a := rfl
@[simp] theorem State.setCarry_writable (s : State) (v : Bool) (a : Addr) : (s.setCarry v).writable a = s.writable a := rfl
@[simp] theorem State.setCarry_quiet (s : State) (v : Bool) : (s.setCarry v).quiet = s.quiet := rfl
@[simp] theorem State.setCarry_calm (s : State) (v : Bool) : (s.setCarry v).calm = s.calm := rfl
@[simp] theorem State.setPc_look (s : State) (v : Addr) (a : Addr) : (s.setPc v).look a = s.look a := rfl
@[simp] theorem State.setPc_readable (s : State) (v : Addr) (a : Addr) : (s.setPc v).readable a = s.readable a := rfl
@[simp] theorem State.setPc_writable (s : State) (v : Addr) (a : Addr) : (s.setPc v).writable a = s.writable a := rfl
@[simp] theorem State.setPc_quiet (s : State) (v : Addr) : (s.setPc v).quiet = s.quiet := rfl
@[simp] theorem State.setPc_calm (s : State) (v : Addr) : (s.setPc v).calm = s.calm := rfl
@[simp] theorem State.setFpac0_look (s : State) (v : Quad) (a : Addr) : (s.setFpac0 v).look a = s.look a := rfl
@[simp] theorem State.setFpac0_readable (s : State) (v : Quad) (a : Addr) : (s.setFpac0 v).readable a = s.readable a := rfl
@[simp] theorem State.setFpac0_writable (s : State) (v : Quad) (a : Addr) : (s.setFpac0 v).writable a = s.writable a := rfl
@[simp] theorem State.setFpac0_quiet (s : State) (v : Quad) : (s.setFpac0 v).quiet = s.quiet := rfl
@[simp] theorem State.setFpac0_calm (s : State) (v : Quad) : (s.setFpac0 v).calm = s.calm := rfl
@[simp] theorem State.setFpac1_look (s : State) (v : Quad) (a : Addr) : (s.setFpac1 v).look a = s.look a := rfl
@[simp] theorem State.setFpac1_readable (s : State) (v : Quad) (a : Addr) : (s.setFpac1 v).readable a = s.readable a := rfl
@[simp] theorem State.setFpac1_writable (s : State) (v : Quad) (a : Addr) : (s.setFpac1 v).writable a = s.writable a := rfl
@[simp] theorem State.setFpac1_quiet (s : State) (v : Quad) : (s.setFpac1 v).quiet = s.quiet := rfl
@[simp] theorem State.setFpac1_calm (s : State) (v : Quad) : (s.setFpac1 v).calm = s.calm := rfl
@[simp] theorem State.setFpac2_look (s : State) (v : Quad) (a : Addr) : (s.setFpac2 v).look a = s.look a := rfl
@[simp] theorem State.setFpac2_readable (s : State) (v : Quad) (a : Addr) : (s.setFpac2 v).readable a = s.readable a := rfl
@[simp] theorem State.setFpac2_writable (s : State) (v : Quad) (a : Addr) : (s.setFpac2 v).writable a = s.writable a := rfl
@[simp] theorem State.setFpac2_quiet (s : State) (v : Quad) : (s.setFpac2 v).quiet = s.quiet := rfl
@[simp] theorem State.setFpac2_calm (s : State) (v : Quad) : (s.setFpac2 v).calm = s.calm := rfl
@[simp] theorem State.setFpac3_look (s : State) (v : Quad) (a : Addr) : (s.setFpac3 v).look a = s.look a := rfl
@[simp] theorem State.setFpac3_readable (s : State) (v : Quad) (a : Addr) : (s.setFpac3 v).readable a = s.readable a := rfl
@[simp] theorem State.setFpac3_writable (s : State) (v : Quad) (a : Addr) : (s.setFpac3 v).writable a = s.writable a := rfl
@[simp] theorem State.setFpac3_quiet (s : State) (v : Quad) : (s.setFpac3 v).quiet = s.quiet := rfl
@[simp] theorem State.setFpac3_calm (s : State) (v : Quad) : (s.setFpac3 v).calm = s.calm := rfl
@[simp] theorem State.setFpsr_look (s : State) (v : BitVec 32) (a : Addr) : (s.setFpsr v).look a = s.look a := rfl
@[simp] theorem State.setFpsr_readable (s : State) (v : BitVec 32) (a : Addr) : (s.setFpsr v).readable a = s.readable a := rfl
@[simp] theorem State.setFpsr_writable (s : State) (v : BitVec 32) (a : Addr) : (s.setFpsr v).writable a = s.writable a := rfl
@[simp] theorem State.setFpsr_quiet (s : State) (v : BitVec 32) : (s.setFpsr v).quiet = s.quiet := rfl
@[simp] theorem State.setFpsr_calm (s : State) (v : BitVec 32) : (s.setFpsr v).calm = s.calm := rfl
@[simp] theorem State.setMask_look (s : State) (v : Word) (a : Addr) : (s.setMask v).look a = s.look a := rfl
@[simp] theorem State.setMask_readable (s : State) (v : Word) (a : Addr) : (s.setMask v).readable a = s.readable a := rfl
@[simp] theorem State.setMask_writable (s : State) (v : Word) (a : Addr) : (s.setMask v).writable a = s.writable a := rfl
@[simp] theorem State.setMask_quiet (s : State) (v : Word) : (s.setMask v).quiet = s.quiet := rfl
@[simp] theorem State.setMask_calm (s : State) (v : Word) : (s.setMask v).calm = s.calm := rfl
@[simp] theorem State.setPwrFail_look (s : State) (v : Bool) (a : Addr) : (s.setPwrFail v).look a = s.look a := rfl
@[simp] theorem State.setPwrFail_readable (s : State) (v : Bool) (a : Addr) : (s.setPwrFail v).readable a = s.readable a := rfl
@[simp] theorem State.setPwrFail_writable (s : State) (v : Bool) (a : Addr) : (s.setPwrFail v).writable a = s.writable a := rfl
@[simp] theorem State.setPwrFail_quiet (s : State) (v : Bool) : (s.setPwrFail v).quiet = s.quiet := rfl
@[simp] theorem State.setPwrFail_calm (s : State) (v : Bool) : (s.setPwrFail v).calm = s.calm := rfl
@[simp] theorem State.setRun_look (s : State) (v : Bool) (a : Addr) : (s.setRun v).look a = s.look a := rfl
@[simp] theorem State.setRun_readable (s : State) (v : Bool) (a : Addr) : (s.setRun v).readable a = s.readable a := rfl
@[simp] theorem State.setRun_writable (s : State) (v : Bool) (a : Addr) : (s.setRun v).writable a = s.writable a := rfl
@[simp] theorem State.setRun_quiet (s : State) (v : Bool) : (s.setRun v).quiet = s.quiet := rfl
@[simp] theorem State.setRun_calm (s : State) (v : Bool) : (s.setRun v).calm = s.calm := rfl
@[simp] theorem State.setIonDelay_look (s : State) (v : Hold) (a : Addr) : (s.setIonDelay v).look a = s.look a := rfl
@[simp] theorem State.setIonDelay_readable (s : State) (v : Hold) (a : Addr) : (s.setIonDelay v).readable a = s.readable a := rfl
@[simp] theorem State.setIonDelay_writable (s : State) (v : Hold) (a : Addr) : (s.setIonDelay v).writable a = s.writable a := rfl
@[simp] theorem State.setIonDelay_quiet (s : State) (v : Hold) : (s.setIonDelay v).quiet = s.quiet := rfl
@[simp] theorem State.setIonDelay_calm (s : State) (v : Hold) : (s.setIonDelay v).calm = s.calm := rfl
@[simp] theorem State.setSycHold_look (s : State) (v : Hold) (a : Addr) : (s.setSycHold v).look a = s.look a := rfl
@[simp] theorem State.setSycHold_readable (s : State) (v : Hold) (a : Addr) : (s.setSycHold v).readable a = s.readable a := rfl
@[simp] theorem State.setSycHold_writable (s : State) (v : Hold) (a : Addr) : (s.setSycHold v).writable a = s.writable a := rfl
@[simp] theorem State.setSycHold_quiet (s : State) (v : Hold) : (s.setSycHold v).quiet = s.quiet := rfl
@[simp] theorem State.setSycHold_calm (s : State) (v : Hold) : (s.setSycHold v).calm = s.calm := rfl
@[simp] theorem State.setUserHold_look (s : State) (v : Hold) (a : Addr) : (s.setUserHold v).look a = s.look a := rfl
@[simp] theorem State.setUserHold_readable (s : State) (v : Hold) (a : Addr) : (s.setUserHold v).readable a = s.readable a := rfl
@[simp] theorem State.setUserHold_writable (s : State) (v : Hold) (a : Addr) : (s.setUserHold v).writable a = s.writable a := rfl
@[simp] theorem State.setUserHold_quiet (s : State) (v : Hold) : (s.setUserHold v).quiet = s.quiet := rfl
@[simp] theorem State.setUserHold_calm (s : State) (v : Hold) : (s.setUserHold v).calm = s.calm := rfl
@[simp] theorem State.setFree_look (s : State) (v : Nat) (a : Addr) : (s.setFree v).look a = s.look a := rfl
@[simp] theorem State.setFree_readable (s : State) (v : Nat) (a : Addr) : (s.setFree v).readable a = s.readable a := rfl
@[simp] theorem State.setFree_writable (s : State) (v : Nat) (a : Addr) : (s.setFree v).writable a = s.writable a := rfl
@[simp] theorem State.setFree_quiet (s : State) (v : Nat) : (s.setFree v).quiet = s.quiet := rfl
@[simp] theorem State.setFree_calm (s : State) (v : Nat) : (s.setFree v).calm = s.calm := rfl
@[simp] theorem State.setEndless_look (s : State) (v : Endless) (a : Addr) : (s.setEndless v).look a = s.look a := rfl
@[simp] theorem State.setEndless_readable (s : State) (v : Endless) (a : Addr) : (s.setEndless v).readable a = s.readable a := rfl
@[simp] theorem State.setEndless_writable (s : State) (v : Endless) (a : Addr) : (s.setEndless v).writable a = s.writable a := rfl
@[simp] theorem State.setEndless_quiet (s : State) (v : Endless) : (s.setEndless v).quiet = s.quiet := rfl
@[simp] theorem State.setEndless_calm (s : State) (v : Endless) : (s.setEndless v).calm = s.calm := rfl

@[simp] theorem State.setAc_look (s : State) (i : Acc) (v : Word) (a : Addr) : (s.setAc i v).look a = s.look a := by
  cases i <;> rfl
@[simp] theorem State.setFpac_look (s : State) (i : Acc) (v : Quad) (a : Addr) : (s.setFpac i v).look a = s.look a := by
  cases i <;> rfl
@[simp] theorem State.setAc_readable (s : State) (i : Acc) (v : Word) (a : Addr) : (s.setAc i v).readable a = s.readable a := by
  cases i <;> rfl
@[simp] theorem State.setFpac_readable (s : State) (i : Acc) (v : Quad) (a : Addr) : (s.setFpac i v).readable a = s.readable a := by
  cases i <;> rfl
@[simp] theorem State.setAc_writable (s : State) (i : Acc) (v : Word) (a : Addr) : (s.setAc i v).writable a = s.writable a := by
  cases i <;> rfl
@[simp] theorem State.setFpac_writable (s : State) (i : Acc) (v : Quad) (a : Addr) : (s.setFpac i v).writable a = s.writable a := by
  cases i <;> rfl
@[simp] theorem State.setAc_quiet (s : State) (i : Acc) (v : Word) : (s.setAc i v).quiet = s.quiet := by cases i <;> rfl
@[simp] theorem State.setFpac_quiet (s : State) (i : Acc) (v : Quad) : (s.setFpac i v).quiet = s.quiet := by cases i <;> rfl
@[simp] theorem State.setAc_calm (s : State) (i : Acc) (v : Word) : (s.setAc i v).calm = s.calm := by cases i <;> rfl
@[simp] theorem State.setFpac_calm (s : State) (i : Acc) (v : Quad) : (s.setFpac i v).calm = s.calm := by cases i <;> rfl

@[simp] theorem State.physWrite_cfg (s : State) (pa : Nat) (v : Word) : (s.physWrite pa v).cfg = s.cfg := by
  rw [State.physWrite_eq]; rfl
@[simp] theorem State.physWrite_ac0 (s : State) (pa : Nat) (v : Word) : (s.physWrite pa v).ac0 = s.ac0 := by
  rw [State.physWrite_eq]; rfl
@[simp] theorem State.physWrite_ac1 (s : State) (pa : Nat) (v : Word) : (s.physWrite pa v).ac1 = s.ac1 := by
  rw [State.physWrite_eq]; rfl
@[simp] theorem State.physWrite_ac2 (s : State) (pa : Nat) (v : Word) : (s.physWrite pa v).ac2 = s.ac2 := by
  rw [State.physWrite_eq]; rfl
@[simp] theorem State.physWrite_ac3 (s : State) (pa : Nat) (v : Word) : (s.physWrite pa v).ac3 = s.ac3 := by
  rw [State.physWrite_eq]; rfl
@[simp] theorem State.physWrite_carry (s : State) (pa : Nat) (v : Word) : (s.physWrite pa v).carry = s.carry := by
  rw [State.physWrite_eq]; rfl
@[simp] theorem State.physWrite_pc (s : State) (pa : Nat) (v : Word) : (s.physWrite pa v).pc = s.pc := by
  rw [State.physWrite_eq]; rfl
@[simp] theorem State.physWrite_fpac0 (s : State) (pa : Nat) (v : Word) : (s.physWrite pa v).fpac0 = s.fpac0 := by
  rw [State.physWrite_eq]; rfl
@[simp] theorem State.physWrite_fpac1 (s : State) (pa : Nat) (v : Word) : (s.physWrite pa v).fpac1 = s.fpac1 := by
  rw [State.physWrite_eq]; rfl
@[simp] theorem State.physWrite_fpac2 (s : State) (pa : Nat) (v : Word) : (s.physWrite pa v).fpac2 = s.fpac2 := by
  rw [State.physWrite_eq]; rfl
@[simp] theorem State.physWrite_fpac3 (s : State) (pa : Nat) (v : Word) : (s.physWrite pa v).fpac3 = s.fpac3 := by
  rw [State.physWrite_eq]; rfl
@[simp] theorem State.physWrite_fpsr (s : State) (pa : Nat) (v : Word) : (s.physWrite pa v).fpsr = s.fpsr := by
  rw [State.physWrite_eq]; rfl
@[simp] theorem State.physWrite_ion (s : State) (pa : Nat) (v : Word) : (s.physWrite pa v).ion = s.ion := by
  rw [State.physWrite_eq]; rfl
@[simp] theorem State.physWrite_mask (s : State) (pa : Nat) (v : Word) : (s.physWrite pa v).mask = s.mask := by
  rw [State.physWrite_eq]; rfl
@[simp] theorem State.physWrite_pwrFail (s : State) (pa : Nat) (v : Word) : (s.physWrite pa v).pwrFail = s.pwrFail := by
  rw [State.physWrite_eq]; rfl
@[simp] theorem State.physWrite_run (s : State) (pa : Nat) (v : Word) : (s.physWrite pa v).run = s.run := by
  rw [State.physWrite_eq]; rfl
@[simp] theorem State.physWrite_ionDelay (s : State) (pa : Nat) (v : Word) : (s.physWrite pa v).ionDelay = s.ionDelay := by
  rw [State.physWrite_eq]; rfl
@[simp] theorem State.physWrite_sycHold (s : State) (pa : Nat) (v : Word) : (s.physWrite pa v).sycHold = s.sycHold := by
  rw [State.physWrite_eq]; rfl
@[simp] theorem State.physWrite_userHold (s : State) (pa : Nat) (v : Word) : (s.physWrite pa v).userHold = s.userHold := by
  rw [State.physWrite_eq]; rfl
@[simp] theorem State.physWrite_endless (s : State) (pa : Nat) (v : Word) : (s.physWrite pa v).endless = s.endless := by
  rw [State.physWrite_eq]; rfl
@[simp] theorem State.physWrite_map (s : State) (pa : Nat) (v : Word) : (s.physWrite pa v).map = s.map := by
  rw [State.physWrite_eq]; rfl
@[simp] theorem State.physWrite_ercc (s : State) (pa : Nat) (v : Word) : (s.physWrite pa v).ercc = s.ercc := by
  rw [State.physWrite_eq]; rfl
@[simp] theorem State.physWrite_rtc (s : State) (pa : Nat) (v : Word) : (s.physWrite pa v).rtc = s.rtc := by
  rw [State.physWrite_eq]; rfl
@[simp] theorem State.physWrite_wcs (s : State) (pa : Nat) (v : Word) : (s.physWrite pa v).wcs = s.wcs := by
  rw [State.physWrite_eq]; rfl
@[simp] theorem State.physWrite_devices (s : State) (pa : Nat) (v : Word) : (s.physWrite pa v).devices = s.devices := by
  rw [State.physWrite_eq]; rfl
@[simp] theorem State.physWrite_dchQueue (s : State) (pa : Nat) (v : Word) : (s.physWrite pa v).dchQueue = s.dchQueue := by
  rw [State.physWrite_eq]; rfl
@[simp] theorem State.physWrite_console (s : State) (pa : Nat) (v : Word) : (s.physWrite pa v).console = s.console := by
  rw [State.physWrite_eq]; rfl
@[simp] theorem State.physWrite_inputs (s : State) (pa : Nat) (v : Word) : (s.physWrite pa v).inputs = s.inputs := by
  rw [State.physWrite_eq]; rfl
@[simp] theorem State.physWrite_free (s : State) (pa : Nat) (v : Word) : (s.physWrite pa v).free = s.free := by
  rw [State.physWrite_eq]; rfl
@[simp] theorem State.physWrite_cut (s : State) (pa : Nat) (v : Word) : (s.physWrite pa v).cut = s.cut := by
  rw [State.physWrite_eq]; rfl
@[simp] theorem State.put_cfg (s : State) (a : Addr) (v : Word) : (s.put a v).cfg = s.cfg := by
  rw [State.put_eq]; rfl
@[simp] theorem State.put_ac0 (s : State) (a : Addr) (v : Word) : (s.put a v).ac0 = s.ac0 := by
  rw [State.put_eq]; rfl
@[simp] theorem State.put_ac1 (s : State) (a : Addr) (v : Word) : (s.put a v).ac1 = s.ac1 := by
  rw [State.put_eq]; rfl
@[simp] theorem State.put_ac2 (s : State) (a : Addr) (v : Word) : (s.put a v).ac2 = s.ac2 := by
  rw [State.put_eq]; rfl
@[simp] theorem State.put_ac3 (s : State) (a : Addr) (v : Word) : (s.put a v).ac3 = s.ac3 := by
  rw [State.put_eq]; rfl
@[simp] theorem State.put_carry (s : State) (a : Addr) (v : Word) : (s.put a v).carry = s.carry := by
  rw [State.put_eq]; rfl
@[simp] theorem State.put_pc (s : State) (a : Addr) (v : Word) : (s.put a v).pc = s.pc := by
  rw [State.put_eq]; rfl
@[simp] theorem State.put_fpac0 (s : State) (a : Addr) (v : Word) : (s.put a v).fpac0 = s.fpac0 := by
  rw [State.put_eq]; rfl
@[simp] theorem State.put_fpac1 (s : State) (a : Addr) (v : Word) : (s.put a v).fpac1 = s.fpac1 := by
  rw [State.put_eq]; rfl
@[simp] theorem State.put_fpac2 (s : State) (a : Addr) (v : Word) : (s.put a v).fpac2 = s.fpac2 := by
  rw [State.put_eq]; rfl
@[simp] theorem State.put_fpac3 (s : State) (a : Addr) (v : Word) : (s.put a v).fpac3 = s.fpac3 := by
  rw [State.put_eq]; rfl
@[simp] theorem State.put_fpsr (s : State) (a : Addr) (v : Word) : (s.put a v).fpsr = s.fpsr := by
  rw [State.put_eq]; rfl
@[simp] theorem State.put_ion (s : State) (a : Addr) (v : Word) : (s.put a v).ion = s.ion := by
  rw [State.put_eq]; rfl
@[simp] theorem State.put_mask (s : State) (a : Addr) (v : Word) : (s.put a v).mask = s.mask := by
  rw [State.put_eq]; rfl
@[simp] theorem State.put_pwrFail (s : State) (a : Addr) (v : Word) : (s.put a v).pwrFail = s.pwrFail := by
  rw [State.put_eq]; rfl
@[simp] theorem State.put_run (s : State) (a : Addr) (v : Word) : (s.put a v).run = s.run := by
  rw [State.put_eq]; rfl
@[simp] theorem State.put_ionDelay (s : State) (a : Addr) (v : Word) : (s.put a v).ionDelay = s.ionDelay := by
  rw [State.put_eq]; rfl
@[simp] theorem State.put_sycHold (s : State) (a : Addr) (v : Word) : (s.put a v).sycHold = s.sycHold := by
  rw [State.put_eq]; rfl
@[simp] theorem State.put_userHold (s : State) (a : Addr) (v : Word) : (s.put a v).userHold = s.userHold := by
  rw [State.put_eq]; rfl
@[simp] theorem State.put_endless (s : State) (a : Addr) (v : Word) : (s.put a v).endless = s.endless := by
  rw [State.put_eq]; rfl
@[simp] theorem State.put_map (s : State) (a : Addr) (v : Word) : (s.put a v).map = s.map := by
  rw [State.put_eq]; rfl
@[simp] theorem State.put_ercc (s : State) (a : Addr) (v : Word) : (s.put a v).ercc = s.ercc := by
  rw [State.put_eq]; rfl
@[simp] theorem State.put_rtc (s : State) (a : Addr) (v : Word) : (s.put a v).rtc = s.rtc := by
  rw [State.put_eq]; rfl
@[simp] theorem State.put_wcs (s : State) (a : Addr) (v : Word) : (s.put a v).wcs = s.wcs := by
  rw [State.put_eq]; rfl
@[simp] theorem State.put_devices (s : State) (a : Addr) (v : Word) : (s.put a v).devices = s.devices := by
  rw [State.put_eq]; rfl
@[simp] theorem State.put_dchQueue (s : State) (a : Addr) (v : Word) : (s.put a v).dchQueue = s.dchQueue := by
  rw [State.put_eq]; rfl
@[simp] theorem State.put_console (s : State) (a : Addr) (v : Word) : (s.put a v).console = s.console := by
  rw [State.put_eq]; rfl
@[simp] theorem State.put_inputs (s : State) (a : Addr) (v : Word) : (s.put a v).inputs = s.inputs := by
  rw [State.put_eq]; rfl
@[simp] theorem State.put_free (s : State) (a : Addr) (v : Word) : (s.put a v).free = s.free := by
  rw [State.put_eq]; rfl
@[simp] theorem State.put_cut (s : State) (a : Addr) (v : Word) : (s.put a v).cut = s.cut := by
  rw [State.put_eq]; rfl
@[simp] theorem State.put_ac (s : State) (a : Addr) (v : Word) (i : Acc) : (s.put a v).ac i = s.ac i := by
  cases i <;> simp [State.ac]
@[simp] theorem State.put_fpac (s : State) (a : Addr) (v : Word) (i : Acc) : (s.put a v).fpac i = s.fpac i := by
  cases i <;> simp [State.fpac]
@[simp] theorem State.put_quiet (s : State) (a : Addr) (v : Word) : (s.put a v).quiet = s.quiet := by
  rw [State.put_eq]; rfl
@[simp] theorem State.put_calm (s : State) (a : Addr) (v : Word) : (s.put a v).calm = s.calm := by
  rw [State.put_eq]; rfl
@[simp] theorem State.put_userMode (s : State) (a : Addr) (v : Word) : (s.put a v).userMode = s.userMode := by
  rw [State.put_eq]; rfl
@[simp] theorem State.put_hasMap (s : State) (a : Addr) (v : Word) : (s.put a v).hasMap = s.hasMap := by
  rw [State.put_eq]; rfl
@[simp] theorem State.put_curUser (s : State) (a : Addr) (v : Word) : (s.put a v).curUser = s.curUser := by
  rw [State.put_eq]; rfl
@[simp] theorem State.put_enables (s : State) (a : Addr) (v : Word) : (s.put a v).enables = s.enables := by
  rw [State.put_eq]; rfl
@[simp] theorem State.put_fpReady (s : State) (a : Addr) (v : Word) : (s.put a v).fpReady = s.fpReady := by
  rw [State.put_eq]; rfl
@[simp] theorem State.put_fpTrapPending (s : State) (a : Addr) (v : Word) : (s.put a v).fpTrapPending = s.fpTrapPending := by
  rw [State.put_eq]; rfl
@[simp] theorem State.put_decodeCtx (s : State) (a : Addr) (v : Word) : (s.put a v).decodeCtx = s.decodeCtx := by
  rw [State.put_eq]; rfl
@[simp] theorem State.put_readable (s : State) (a : Addr) (v : Word) (b : Addr) : (s.put a v).readable b = s.readable b := by
  rw [State.put_eq]; rfl
@[simp] theorem State.put_writable (s : State) (a : Addr) (v : Word) (b : Addr) : (s.put a v).writable b = s.writable b := by
  rw [State.put_eq]; rfl
@[simp] theorem State.put_unmapped (s : State) (a : Addr) (v : Word) (b : Addr) : (s.put a v).unmapped b = s.unmapped b := by
  rw [State.put_eq]; rfl

theorem State.setAc0_put (s : State) (v : Word) (a : Addr) (w : Word) : (s.setAc0 v).put a w = (s.put a w).setAc0 v := by
  have ht : (s.setAc0 v).translate false true a = s.translate false true a := rfl
  unfold State.put State.physWrite
  rw [ht]
  cases s.translate false true a with
  | error e => rfl
  | ok pa =>
    by_cases h : pa < s.cfg.memWords
    · simp [h]
      try rfl
    · simp [h]
theorem State.setAc1_put (s : State) (v : Word) (a : Addr) (w : Word) : (s.setAc1 v).put a w = (s.put a w).setAc1 v := by
  have ht : (s.setAc1 v).translate false true a = s.translate false true a := rfl
  unfold State.put State.physWrite
  rw [ht]
  cases s.translate false true a with
  | error e => rfl
  | ok pa =>
    by_cases h : pa < s.cfg.memWords
    · simp [h]
      try rfl
    · simp [h]
theorem State.setAc2_put (s : State) (v : Word) (a : Addr) (w : Word) : (s.setAc2 v).put a w = (s.put a w).setAc2 v := by
  have ht : (s.setAc2 v).translate false true a = s.translate false true a := rfl
  unfold State.put State.physWrite
  rw [ht]
  cases s.translate false true a with
  | error e => rfl
  | ok pa =>
    by_cases h : pa < s.cfg.memWords
    · simp [h]
      try rfl
    · simp [h]
theorem State.setAc3_put (s : State) (v : Word) (a : Addr) (w : Word) : (s.setAc3 v).put a w = (s.put a w).setAc3 v := by
  have ht : (s.setAc3 v).translate false true a = s.translate false true a := rfl
  unfold State.put State.physWrite
  rw [ht]
  cases s.translate false true a with
  | error e => rfl
  | ok pa =>
    by_cases h : pa < s.cfg.memWords
    · simp [h]
      try rfl
    · simp [h]
theorem State.setCarry_put (s : State) (v : Bool) (a : Addr) (w : Word) : (s.setCarry v).put a w = (s.put a w).setCarry v := by
  have ht : (s.setCarry v).translate false true a = s.translate false true a := rfl
  unfold State.put State.physWrite
  rw [ht]
  cases s.translate false true a with
  | error e => rfl
  | ok pa =>
    by_cases h : pa < s.cfg.memWords
    · simp [h]
      try rfl
    · simp [h]
theorem State.setPc_put (s : State) (v : Addr) (a : Addr) (w : Word) : (s.setPc v).put a w = (s.put a w).setPc v := by
  have ht : (s.setPc v).translate false true a = s.translate false true a := rfl
  unfold State.put State.physWrite
  rw [ht]
  cases s.translate false true a with
  | error e => rfl
  | ok pa =>
    by_cases h : pa < s.cfg.memWords
    · simp [h]
      try rfl
    · simp [h]
theorem State.setFpac0_put (s : State) (v : Quad) (a : Addr) (w : Word) : (s.setFpac0 v).put a w = (s.put a w).setFpac0 v := by
  have ht : (s.setFpac0 v).translate false true a = s.translate false true a := rfl
  unfold State.put State.physWrite
  rw [ht]
  cases s.translate false true a with
  | error e => rfl
  | ok pa =>
    by_cases h : pa < s.cfg.memWords
    · simp [h]
      try rfl
    · simp [h]
theorem State.setFpac1_put (s : State) (v : Quad) (a : Addr) (w : Word) : (s.setFpac1 v).put a w = (s.put a w).setFpac1 v := by
  have ht : (s.setFpac1 v).translate false true a = s.translate false true a := rfl
  unfold State.put State.physWrite
  rw [ht]
  cases s.translate false true a with
  | error e => rfl
  | ok pa =>
    by_cases h : pa < s.cfg.memWords
    · simp [h]
      try rfl
    · simp [h]
theorem State.setFpac2_put (s : State) (v : Quad) (a : Addr) (w : Word) : (s.setFpac2 v).put a w = (s.put a w).setFpac2 v := by
  have ht : (s.setFpac2 v).translate false true a = s.translate false true a := rfl
  unfold State.put State.physWrite
  rw [ht]
  cases s.translate false true a with
  | error e => rfl
  | ok pa =>
    by_cases h : pa < s.cfg.memWords
    · simp [h]
      try rfl
    · simp [h]
theorem State.setFpac3_put (s : State) (v : Quad) (a : Addr) (w : Word) : (s.setFpac3 v).put a w = (s.put a w).setFpac3 v := by
  have ht : (s.setFpac3 v).translate false true a = s.translate false true a := rfl
  unfold State.put State.physWrite
  rw [ht]
  cases s.translate false true a with
  | error e => rfl
  | ok pa =>
    by_cases h : pa < s.cfg.memWords
    · simp [h]
      try rfl
    · simp [h]
theorem State.setFpsr_put (s : State) (v : BitVec 32) (a : Addr) (w : Word) : (s.setFpsr v).put a w = (s.put a w).setFpsr v := by
  have ht : (s.setFpsr v).translate false true a = s.translate false true a := rfl
  unfold State.put State.physWrite
  rw [ht]
  cases s.translate false true a with
  | error e => rfl
  | ok pa =>
    by_cases h : pa < s.cfg.memWords
    · simp [h]
      try rfl
    · simp [h]
theorem State.setMask_put (s : State) (v : Word) (a : Addr) (w : Word) : (s.setMask v).put a w = (s.put a w).setMask v := by
  have ht : (s.setMask v).translate false true a = s.translate false true a := rfl
  unfold State.put State.physWrite
  rw [ht]
  cases s.translate false true a with
  | error e => rfl
  | ok pa =>
    by_cases h : pa < s.cfg.memWords
    · simp [h]
      try rfl
    · simp [h]
theorem State.setPwrFail_put (s : State) (v : Bool) (a : Addr) (w : Word) : (s.setPwrFail v).put a w = (s.put a w).setPwrFail v := by
  have ht : (s.setPwrFail v).translate false true a = s.translate false true a := rfl
  unfold State.put State.physWrite
  rw [ht]
  cases s.translate false true a with
  | error e => rfl
  | ok pa =>
    by_cases h : pa < s.cfg.memWords
    · simp [h]
      try rfl
    · simp [h]
theorem State.setRun_put (s : State) (v : Bool) (a : Addr) (w : Word) : (s.setRun v).put a w = (s.put a w).setRun v := by
  have ht : (s.setRun v).translate false true a = s.translate false true a := rfl
  unfold State.put State.physWrite
  rw [ht]
  cases s.translate false true a with
  | error e => rfl
  | ok pa =>
    by_cases h : pa < s.cfg.memWords
    · simp [h]
      try rfl
    · simp [h]
theorem State.setIonDelay_put (s : State) (v : Hold) (a : Addr) (w : Word) : (s.setIonDelay v).put a w = (s.put a w).setIonDelay v := by
  have ht : (s.setIonDelay v).translate false true a = s.translate false true a := rfl
  unfold State.put State.physWrite
  rw [ht]
  cases s.translate false true a with
  | error e => rfl
  | ok pa =>
    by_cases h : pa < s.cfg.memWords
    · simp [h]
      try rfl
    · simp [h]
theorem State.setSycHold_put (s : State) (v : Hold) (a : Addr) (w : Word) : (s.setSycHold v).put a w = (s.put a w).setSycHold v := by
  have ht : (s.setSycHold v).translate false true a = s.translate false true a := rfl
  unfold State.put State.physWrite
  rw [ht]
  cases s.translate false true a with
  | error e => rfl
  | ok pa =>
    by_cases h : pa < s.cfg.memWords
    · simp [h]
      try rfl
    · simp [h]
theorem State.setUserHold_put (s : State) (v : Hold) (a : Addr) (w : Word) : (s.setUserHold v).put a w = (s.put a w).setUserHold v := by
  have ht : (s.setUserHold v).translate false true a = s.translate false true a := rfl
  unfold State.put State.physWrite
  rw [ht]
  cases s.translate false true a with
  | error e => rfl
  | ok pa =>
    by_cases h : pa < s.cfg.memWords
    · simp [h]
      try rfl
    · simp [h]
theorem State.setFree_put (s : State) (v : Nat) (a : Addr) (w : Word) : (s.setFree v).put a w = (s.put a w).setFree v := by
  have ht : (s.setFree v).translate false true a = s.translate false true a := rfl
  unfold State.put State.physWrite
  rw [ht]
  cases s.translate false true a with
  | error e => rfl
  | ok pa =>
    by_cases h : pa < s.cfg.memWords
    · simp [h]
      try rfl
    · simp [h]
theorem State.setEndless_put (s : State) (v : Endless) (a : Addr) (w : Word) : (s.setEndless v).put a w = (s.put a w).setEndless v := by
  have ht : (s.setEndless v).translate false true a = s.translate false true a := rfl
  unfold State.put State.physWrite
  rw [ht]
  cases s.translate false true a with
  | error e => rfl
  | ok pa =>
    by_cases h : pa < s.cfg.memWords
    · simp [h]
      try rfl
    · simp [h]

end Sys2Proof.Machine
end

