-- ==== Sys2Proof/Laws/Stack.lean ====
section
/-! SUPPORT. Chains, the stack and the fault sequences in calm states: each shared operation as one equation. -/

namespace Sys2Proof.Machine

/-! ### Chains of address words without auto-index updates (20_memory.md R76) -/

/-- A chain on the processor's bus in a calm state ends where `State.follow` says and changes nothing. -/
theorem chase_calm {b : Bus} (hr : b.read = readBus) (hg : b.guard = indirectGuard)
    {s : State} (ha : b.after s = .ok () s) (h : s.calm = true) (n : Nat) :
    ∀ (k : Nat) (a : Addr), chase b false n k false a s =
      match s.follow n a with
      | some e => .ok e s
      | none => .error .stuck s := by
  obtain ⟨hq, hu⟩ := (State.calm_iff s).1 h
  have hread : ∀ a, b.read false a s = .ok (s.look a) s := fun a => by
    rw [hr]; exact readBus_quiet hq (State.readable_of_calm h a)
  have hguard : ∀ k, b.guard k s = .ok () s := fun k => by
    rw [hg]; simp [indirectGuard, hu]
  have hlevel : ∀ a, chainLevel b false false a s = .ok (s.look a, isIndirect (s.look a)) s := fun a => by
    simp only [chainLevel, Exec.bind_apply, hread]
    cases autoUpdate a (s.look a) <;> simp
  induction n with
  | zero => intro k a; rfl
  | succ n ih =>
    intro k a
    simp only [chase, Exec.bind_apply, hguard, hlevel, ha, State.follow]
    cases isIndirect (s.look a) with
    | false => simp
    | true => simpa using ih (k + 1) (addrOf (s.look a))

theorem enablePendingUser_none {s : State} (he : s.map.enablePending = none) : enablePendingUser s = .ok () s := by
  simp [enablePendingUser, he]

theorem indirect_calm {s : State} (h : s.calm = true) (he : s.map.enablePending = none) {a e : Addr} (hf : s.follow chainFuel a = some e) :
    indirect a s = .ok e s := by
  unfold indirect
  rw [chase_calm rfl rfl (enablePendingUser_none he) h, hf]

theorem jumpIndirect_calm {s : State} (h : s.calm = true) {a e : Addr} (hf : s.follow chainFuel a = some e) :
    jumpIndirect a s = .ok () (s.setPc e) := by
  have hc : chase cpuBus false chainFuel 0 false a s = .ok e s := by
    rw [chase_calm rfl rfl rfl h, hf]
  simp [jumpIndirect, jumpIndirectOn, hc]

/-- An address word without the indirect bit ends the chain at once (20_memory.md R76). -/
theorem State.follow_direct (s : State) (n : Nat) (a : Addr) (h : isIndirect (s.look a) = false) :
    s.follow (n + 1) a = some (addrOf (s.look a)) := by
  simp [State.follow, h]

theorem eaExt_calm_direct (s : State) (m : ExtMem) (h : m.ind = false) : eaExt m s = .ok (s.extBase m) s := by
  simp [eaExt, h]

theorem eaShort_direct (s : State) (m : ShortMem) (h : m.ind = false) : eaShort m s = .ok (s.shortBase m) s := by
  simp [eaShort, h]

theorem eaExt_calm {s : State} (h : s.calm = true) (he : s.map.enablePending = none) (m : ExtMem) {e : Addr}
    (hf : m.ind = true → s.follow chainFuel (s.extBase m) = some e) (hd : m.ind = false → e = s.extBase m) :
    eaExt m s = .ok e s := by
  cases hm : m.ind with
  | false => rw [eaExt_calm_direct s m hm, hd hm]
  | true => simp [eaExt, hm, indirect_calm h he (hf hm)]

/-! ### The stack (43_stack.md) -/

@[simp] theorem State.pushed_calm (s : State) (v : Word) : (s.pushed v).calm = s.calm := by simp [State.pushed]

@[simp] theorem State.popped_calm (s : State) : s.popped.calm = s.calm := by simp [State.popped]

@[simp] theorem State.pushedBlock_calm (s : State) (pc : Addr) : (s.pushedBlock pc).calm = s.calm := by
  simp [State.pushedBlock]

@[simp] theorem State.stackFaulted_calm (s : State) (pc : Addr) : (s.stackFaulted pc).calm = s.calm := by
  simp [State.stackFaulted]

theorem push_calm {s : State} (h : s.calm = true) (v : Word) : push v s = .ok () (s.pushed v) := by
  have hr : ∀ a, cpuBus.read false a s = .ok (s.look a) s := fun a => memRead_calm h a
  have hw : ∀ (t : State), t.calm = true → ∀ a w, cpuBus.write a w t = .ok () (t.put a w) :=
    fun t ht a w => memWrite_calm ht a w
  simp only [push, pushOn, Exec.bind_apply, hr, hw s h, hw _ ((State.put_calm s _ _).trans h), State.pushed]

theorem pop_calm {s : State} (h : s.calm = true) : pop s = .ok s.top s.popped := by
  have hr : ∀ a, cpuBus.read false a s = .ok (s.look a) s := fun a => memRead_calm h a
  have hw : ∀ a w, cpuBus.write a w s = .ok () (s.put a w) := fun a w => memWrite_calm h a w
  simp only [pop, popOn, Exec.bind_apply, Exec.pure_apply, hr, hw, State.top, State.popped]

theorem pushBlock_calm {s : State} (h : s.calm = true) (pc : Addr) : pushBlock pc s = .ok () (s.pushedBlock pc) := by
  have hp : ∀ (t : State), t.calm = true → ∀ v, pushOn cpuBus v t = .ok () (t.pushed v) :=
    fun t ht v => push_calm ht v
  simp [pushBlock, pushBlockOn, hp, h, State.pushedBlock]

/-- A word pushed with the stack pointer held, in a calm state. -/
theorem pushAbove_calm {s : State} (h : s.calm = true) (sp v : Word) :
    pushAbove sp v s = .ok (sp + 1) (s.storedAbove sp [v]) := by
  simp only [pushAbove, Exec.bind_apply, Exec.pure_apply, memWrite_calm h, State.storedAbove]

@[simp] theorem State.storedAbove_calm (s : State) (sp : Word) (ws : List Word) : (s.storedAbove sp ws).calm = s.calm := by
  induction ws generalizing s sp with
  | nil => rfl
  | cons w ws ih => simp [State.storedAbove, ih]

/-- A block stored in two parts. -/
theorem State.storedAbove_append (s : State) (sp : Word) (us vs : List Word) :
    s.storedAbove sp (us ++ vs) = (s.storedAbove sp us).storedAbove (sp + BitVec.ofNat 16 us.length) vs := by
  induction us generalizing s sp with
  | nil => simp [State.storedAbove]
  | cons u us ih =>
    simp only [List.cons_append, State.storedAbove, ih, List.length_cons]
    congr 1
    bv_omega

theorem pushQuad_calm {s : State} (h : s.calm = true) (sp : Word) (v : Quad) :
    pushQuad sp v s = .ok (sp + 4) (s.storedAbove sp
      [v.extractLsb' 48 16, v.extractLsb' 32 16, v.extractLsb' 16 16, v.extractLsb' 0 16]) := by
  simp [pushQuad, pushAbove_calm, h, State.storedAbove]
  bv_omega

theorem popQuad_calm {s : State} (h : s.calm = true) (sp : Word) :
    popQuad sp s = .ok (s.look (addrOf (sp - 3)) ++ s.look (addrOf (sp - 2)) ++ s.look (addrOf (sp - 1)) ++
      s.look (addrOf sp)) s := by
  simp only [popQuad, Exec.bind_apply, Exec.pure_apply, memRead_calm h]

theorem State.setCarry_popped (s : State) (v : Bool) : (s.setCarry v).popped = s.popped.setCarry v := by
  simp [State.popped, State.setCarry_put]
theorem State.setPc_popped (s : State) (v : Addr) : (s.setPc v).popped = s.popped.setPc v := by
  simp [State.popped, State.setPc_put]
theorem State.setAc1_popped (s : State) (v : Word) : (s.setAc1 v).popped = s.popped.setAc1 v := by
  simp [State.popped, State.setAc1_put]
theorem State.setAc2_popped (s : State) (v : Word) : (s.setAc2 v).popped = s.popped.setAc2 v := by
  simp [State.popped, State.setAc2_put]
theorem State.setAc3_popped (s : State) (v : Word) : (s.setAc3 v).popped = s.popped.setAc3 v := by
  simp [State.popped, State.setAc3_put]
theorem State.top_setCarry (s : State) (v : Bool) : (s.setCarry v).top = s.top := rfl
theorem State.top_setPc (s : State) (v : Addr) : (s.setPc v).top = s.top := rfl
theorem State.top_setAc1 (s : State) (v : Word) : (s.setAc1 v).top = s.top := rfl
theorem State.top_setAc2 (s : State) (v : Word) : (s.setAc2 v).top = s.top := rfl
theorem State.top_setAc3 (s : State) (v : Word) : (s.setAc3 v).top = s.top := rfl

theorem popBlock_calm {s : State} (h : s.calm = true) : popBlock s = .ok () s.poppedBlock := by
  simp [popBlock, pop_calm, h, State.poppedBlock, State.setCarry_popped, State.setPc_popped, State.setAc1_popped,
    State.setAc2_popped, State.setAc3_popped, State.top_setCarry, State.top_setPc, State.top_setAc1,
    State.top_setAc2, State.top_setAc3]

theorem checkOverflow_calm_ok {s : State} (h : s.calm = true) (ho : s.overflowed = false) (next : Addr) :
    checkOverflow next s = .ok () s := by
  have hr : ∀ a, cpuBus.read false a s = .ok (s.look a) s := fun a => memRead_calm h a
  simp only [State.overflowed, decide_eq_false_iff_not] at ho
  simp only [checkOverflow, checkOverflowOn, Exec.bind_apply, hr]
  rw [if_neg ho]
  rfl

/-- A stack fault in a calm state (43_stack.md R234). -/
theorem stackFault_calm {α : Type} {s : State} (h : s.calm = true) (pc : Addr) {e : Addr}
    (hf : (s.stackFaulted pc).follow chainFuel 0o43 = some e) :
    (stackFault pc : Exec α) s = .error .trap ((s.stackFaulted pc).setPc e) := by
  have hb : pushBlockOn cpuBus pc s = .ok () (s.pushedBlock pc) := pushBlock_calm h pc
  have hr : ∀ (t : State), t.calm = true → ∀ a, cpuBus.read false a t = .ok (t.look a) t :=
    fun t ht a => memRead_calm ht a
  have hw : ∀ (t : State), t.calm = true → ∀ a w, cpuBus.write a w t = .ok () (t.put a w) :=
    fun t ht a w => memWrite_calm ht a w
  have hj := jumpIndirect_calm ((State.stackFaulted_calm s pc).trans h) hf
  unfold jumpIndirect at hj
  unfold stackFault stackFaultOn
  simp only [Exec.bind_apply, hb, hr _ ((State.pushedBlock_calm s pc).trans h),
    hw _ ((State.pushedBlock_calm s pc).trans h)]
  unfold State.stackFaulted at hj ⊢
  simp only at hj ⊢
  rw [hr _ (by simpa using h)]
  simp only
  rw [hw _ (by simpa using h)]
  simp only
  rw [hj]
  rfl

theorem checkOverflow_calm_fault {s : State} (h : s.calm = true) (ho : s.overflowed = true) (next : Addr) {e : Addr}
    (hf : (s.stackFaulted next).follow chainFuel 0o43 = some e) :
    checkOverflow next s = .error .trap ((s.stackFaulted next).setPc e) := by
  have hr : ∀ a, cpuBus.read false a s = .ok (s.look a) s := fun a => memRead_calm h a
  simp only [State.overflowed, decide_eq_true_eq] at ho
  have hs : (stackFaultOn cpuBus next : Exec Unit) s = .error .trap ((s.stackFaulted next).setPc e) :=
    stackFault_calm h next hf
  simp only [checkOverflow, checkOverflowOn, Exec.bind_apply, hr]
  rw [if_pos ho]
  exact hs

theorem checkUnderflow_calm_ok {s : State} (h : s.calm = true) (hu : s.underflowed = false) (next : Addr) :
    checkUnderflow next s = .ok () s := by
  simp only [State.underflowed, Bool.and_eq_false_iff, decide_eq_false_iff_not, Bool.not_eq_false'] at hu
  simp only [checkUnderflow, Exec.bind_apply, memRead_calm h]
  by_cases h1 : (s.look 0o40).toNat < 0o400
  · have h2 : isIndirect (s.look 0o42) = true := hu.resolve_left (not_not_intro h1)
    rw [if_pos h1]
    simp only [Exec.bind_apply, memRead_calm h]
    rw [if_pos h2]
    rfl
  · rw [if_neg h1]
    rfl

/-! ### The bytes (20_memory.md R71) -/

theorem byteRead_quiet {s : State} (h : s.quiet = true) {bp : Word} (hr : s.readable (bytePtrAddr bp) = true) :
    byteRead bp s = .ok (s.lookByte bp) s := by
  simp [byteRead, memRead_quiet h hr, State.lookByte]

theorem byteWrite_quiet {s : State} (h : s.quiet = true) {bp : Word} (hr : s.readable (bytePtrAddr bp) = true)
    (hw : s.writable (bytePtrAddr bp) = true) (v : Byte) : byteWrite bp v s = .ok () (s.putByte bp v) := by
  simp [byteWrite, memRead_quiet h hr, memWrite_quiet h hw, State.putByte]

theorem byteRead_calm {s : State} (h : s.calm = true) (bp : Word) : byteRead bp s = .ok (s.lookByte bp) s :=
  byteRead_quiet (State.quiet_of_calm h) (State.readable_of_calm h _)

theorem byteWrite_calm {s : State} (h : s.calm = true) (bp : Word) (v : Byte) :
    byteWrite bp v s = .ok () (s.putByte bp v) :=
  byteWrite_quiet (State.quiet_of_calm h) (State.readable_of_calm h _) (State.writable_of_calm h _) v

@[simp] theorem State.putByte_calm (s : State) (bp : Word) (v : Byte) : (s.putByte bp v).calm = s.calm := by
  simp [State.putByte]

/-! ### Multi-word operands (20_memory.md R63) -/

theorem memRead2_calm {s : State} (h : s.calm = true) (a : Addr) : memRead2 a s = .ok (s.look2 a) s := by
  simp only [memRead2, Exec.bind_apply, Exec.pure_apply, memRead_calm h, State.look2]

theorem memRead4_calm {s : State} (h : s.calm = true) (a : Addr) : memRead4 a s = .ok (s.look4 a) s := by
  simp only [memRead4, Exec.bind_apply, Exec.pure_apply, memRead2_calm h, State.look4]

theorem memWrite2_calm {s : State} (h : s.calm = true) (a : Addr) (v : BitVec 32) :
    memWrite2 a v s = .ok () (s.put2 a v) := by
  simp [memWrite2, memWrite_calm h, memWrite_calm ((State.put_calm s _ _).trans h), State.put2]

@[simp] theorem State.put2_calm (s : State) (a : Addr) (v : BitVec 32) : (s.put2 a v).calm = s.calm := by
  simp [State.put2]

theorem memWrite4_calm {s : State} (h : s.calm = true) (a : Addr) (v : Quad) :
    memWrite4 a v s = .ok () (s.put4 a v) := by
  simp [memWrite4, memWrite2_calm h, memWrite2_calm ((State.put2_calm s _ _).trans h), State.put4]

end Sys2Proof.Machine
end

