-- ==== Sys2Proof/Laws/Address.lean ====
section
/-! SUPPORT. What an address calculation leaves alone in any state, the length of a chain, and the operations that only pass
through memory: guards of I/O instructions, resolved accumulators, runs of bytes, the faults that end an instruction. -/

namespace Sys2Proof.Machine

/-! ### The length of a chain -/

theorem State.follow_mono (s : State) {e : Addr} : ∀ (n m : Nat) (a : Addr), n ≤ m → s.follow n a = some e →
    s.follow m a = some e
  | 0, _, _, _, h => by simp [State.follow] at h
  | n + 1, 0, _, hle, _ => absurd hle (by omega)
  | n + 1, m + 1, a, hle, h => by
    simp only [State.follow] at h ⊢
    split at h
    · rename_i hi
      rw [if_pos hi]
      exact State.follow_mono s n m _ (by omega) h
    · rename_i hi
      rw [if_neg hi]
      exact h

theorem State.follow_chainFuel (s : State) {a e : Addr} (h : s.follow 32768 a = some e) :
    s.follow chainFuel a = some e := s.follow_mono _ _ a (by decide) h

/-! ### What an address calculation leaves alone -/

/-- Two states that differ at most in memory, the ERCC, the console, the MAP but for MAP SINGLE CYCLE, the hold of the
first user instruction, and the cycles left before a RESET. -/
structure State.Addressed (s t : State) : Prop where
  cfg : t.cfg = s.cfg
  ac0 : t.ac0 = s.ac0
  ac1 : t.ac1 = s.ac1
  ac2 : t.ac2 = s.ac2
  ac3 : t.ac3 = s.ac3
  carry : t.carry = s.carry
  pc : t.pc = s.pc
  fpac0 : t.fpac0 = s.fpac0
  fpac1 : t.fpac1 = s.fpac1
  fpac2 : t.fpac2 = s.fpac2
  fpac3 : t.fpac3 = s.fpac3
  fpsr : t.fpsr = s.fpsr
  ion : t.ion = s.ion
  mask : t.mask = s.mask
  pwrFail : t.pwrFail = s.pwrFail
  run : t.run = s.run
  endless : t.endless = s.endless
  ionDelay : t.ionDelay = s.ionDelay
  sycHold : t.sycHold = s.sycHold
  rtc : t.rtc = s.rtc
  wcs : t.wcs = s.wcs
  devices : t.devices = s.devices
  dchQueue : t.dchQueue = s.dchQueue
  inputs : t.inputs = s.inputs
  free : t.free = s.free
  single : t.map.singlePending = s.map.singlePending
  addrCmp : t.console.addrCmp = s.console.addrCmp

theorem State.Addressed.refl (s : State) : s.Addressed s := by constructor <;> rfl

theorem State.Addressed.trans {s t u : State} (h1 : s.Addressed t) (h2 : t.Addressed u) : s.Addressed u :=
  { cfg := h2.cfg.trans h1.cfg,
    ac0 := h2.ac0.trans h1.ac0,
    ac1 := h2.ac1.trans h1.ac1,
    ac2 := h2.ac2.trans h1.ac2,
    ac3 := h2.ac3.trans h1.ac3,
    carry := h2.carry.trans h1.carry,
    pc := h2.pc.trans h1.pc,
    fpac0 := h2.fpac0.trans h1.fpac0,
    fpac1 := h2.fpac1.trans h1.fpac1,
    fpac2 := h2.fpac2.trans h1.fpac2,
    fpac3 := h2.fpac3.trans h1.fpac3,
    fpsr := h2.fpsr.trans h1.fpsr,
    ion := h2.ion.trans h1.ion,
    mask := h2.mask.trans h1.mask,
    pwrFail := h2.pwrFail.trans h1.pwrFail,
    run := h2.run.trans h1.run,
    endless := h2.endless.trans h1.endless,
    ionDelay := h2.ionDelay.trans h1.ionDelay,
    sycHold := h2.sycHold.trans h1.sycHold,
    rtc := h2.rtc.trans h1.rtc,
    wcs := h2.wcs.trans h1.wcs,
    devices := h2.devices.trans h1.devices,
    dchQueue := h2.dchQueue.trans h1.dchQueue,
    inputs := h2.inputs.trans h1.inputs,
    free := h2.free.trans h1.free,
    single := h2.single.trans h1.single,
    addrCmp := h2.addrCmp.trans h1.addrCmp }

theorem State.Addressed.ac {s t : State} (h : s.Addressed t) (n : Acc) : t.ac n = s.ac n := by
  cases n
  · exact h.ac0
  · exact h.ac1
  · exact h.ac2
  · exact h.ac3

theorem State.Addressed.fpac {s t : State} (h : s.Addressed t) (n : Acc) : t.fpac n = s.fpac n := by
  cases n
  · exact h.fpac0
  · exact h.fpac1
  · exact h.fpac2
  · exact h.fpac3

/-- A computation that, where it ends normally, keeps to `State.Addressed`. -/
def Addressing {α : Type} (m : Exec α) : Prop := ∀ (s t : State) (a : α), m s = .ok a t → s.Addressed t

theorem Addressing.pure {α : Type} (a : α) : Addressing (pure a : Exec α) := by
  intro s t b h
  simp only [Exec.pure_apply, EStateM.Result.ok.injEq] at h
  exact h.2 ▸ State.Addressed.refl _

theorem Addressing.bind {α β : Type} {m : Exec α} {f : α → Exec β} (h1 : Addressing m) (h2 : ∀ a, Addressing (f a)) :
    Addressing (m >>= f) := by
  intro s t b h
  rw [Exec.bind_apply] at h
  split at h
  · rename_i a u hm
    exact State.Addressed.trans (h1 s u a hm) (h2 a u t b h)
  · simp at h

theorem Addressing.get : Addressing (get : Exec State) := by
  intro s t a h
  simp only [Exec.get_apply, EStateM.Result.ok.injEq] at h
  exact h.2 ▸ State.Addressed.refl _

theorem Addressing.throw {α : Type} (e : Stop) : Addressing (throw e : Exec α) := by
  intro s t a h
  simp at h

theorem Addressing.modify (f : State → State) (hf : ∀ s : State, s.Addressed (f s)) : Addressing (modify f : Exec PUnit) := by
  intro s t a h
  simp only [Exec.modify_apply, EStateM.Result.ok.injEq] at h
  exact h.2 ▸ hf s

theorem Addressing.ite {α : Type} (c : Prop) [Decidable c] {m n : Exec α} (h1 : Addressing m) (h2 : Addressing n) :
    Addressing (if c then m else n) := by
  split
  · exact h1
  · exact h2

/-- A computation that never ends normally. -/
theorem Addressing.of_error {α : Type} {m : Exec α} (h : ∀ s, ∃ e t, m s = .error e t) : Addressing m := by
  intro s t a hm
  obtain ⟨e, u, he⟩ := h s
  rw [he] at hm
  cases hm

theorem stop_bind {α β : Type} {m : Exec α} {f : α → Exec β} (h : ∀ a s, ∃ e t, f a s = .error e t) (s : State) :
    ∃ e t, (m >>= f) s = .error e t := by
  rw [Exec.bind_apply]
  split
  · rename_i a t _
    exact h a t
  · rename_i e t _
    exact ⟨e, t, rfl⟩

theorem suspendCpu_stops {α : Type} (s : State) : ∃ e t, (suspendCpu : Exec α) s = .error e t := by
  unfold suspendCpu
  exact stop_bind (fun _ => stop_bind fun _ => stop_bind fun _ s => ⟨_, s, rfl⟩) s

theorem protectionFault_stops {α : Type} (v : Violation) (single : Bool) (s : State) :
    ∃ e t, (protectionFault v single : Exec α) s = .error e t := by
  unfold protectionFault
  refine stop_bind (fun _ => ?_) s
  refine stop_bind fun _ => stop_bind fun _ => ?_
  exact stop_bind fun _ => stop_bind fun _ => stop_bind fun _ => stop_bind fun _ => stop_bind fun _ s => ⟨_, s, rfl⟩

theorem Addressing.spendCycle : Addressing spendCycle := by
  unfold Machine.spendCycle
  intro s t x h
  simp only [Exec.bind_apply, Exec.get_apply] at h
  cases hc : s.cut with
  | none =>
    simp only [hc] at h
    exact Addressing.pure () s t x h
  | some n =>
    cases n with
    | zero => simp [hc] at h
    | succ n =>
      simp only [hc, Exec.set_apply, EStateM.Result.ok.injEq] at h
      exact h.2 ▸ (by constructor <;> rfl)

theorem Addressing.beforeAccess (a : Addr) : Addressing (beforeAccess a) := by
  unfold Machine.beforeAccess
  exact .bind .spendCycle fun _ => .bind .get fun _ => .ite _ (.of_error suspendCpu_stops) (.pure _)

theorem Addressing.afterAccess (w : Bool) (a : Addr) (v : Word) : Addressing (afterAccess w a v) := by
  unfold Machine.afterAccess
  intro s t x h
  simp only [Exec.bind_apply, Exec.get_apply] at h
  cases hc : s.comparing <;> simp only [hc] at h
  · exact Addressing.pure () s t x h
  · split at h
    · simp only [Exec.set_apply, EStateM.Result.ok.injEq] at h
      refine h.2 ▸ ?_
      constructor <;> rfl
    · exact Addressing.pure () s t x h
  · split at h
    · obtain ⟨e, u, he⟩ := suspendCpu_stops (α := Unit) s
      rw [he] at h
      cases h
    · exact Addressing.pure () s t x h
  · exact Addressing.pure () s t x h

theorem State.Addressed.physRead (s : State) (pa : Nat) : s.Addressed (s.physRead pa).2 := by
  unfold State.physRead
  split
  · simp only
    split
    · split
      · constructor <;> rfl
      · constructor <;> rfl
    · constructor <;> rfl
  · constructor <;> rfl

theorem State.Addressed.physWrite (s : State) (pa : Nat) (v : Word) : s.Addressed (s.physWrite pa v) := by
  rw [State.physWrite_eq]
  constructor <;> rfl

theorem Addressing.readAt (pa : Nat) (a : Addr) : Addressing (readAt pa a) := by
  unfold Machine.readAt
  intro s t x h
  simp only [Exec.bind_apply, Exec.get_apply, Exec.set_apply] at h
  split at h
  · rename_i u hu
    simp only [Exec.pure_apply, EStateM.Result.ok.injEq] at h
    exact h.2 ▸ State.Addressed.trans (State.Addressed.physRead s pa) (Addressing.afterAccess _ _ _ _ _ _ hu)
  · cases h

theorem Addressing.writeAt (pa : Nat) (a : Addr) (v : Word) : Addressing (writeAt pa a v) := by
  unfold Machine.writeAt
  exact .bind (.modify _ fun s => State.Addressed.physWrite s pa v) fun _ => .afterAccess _ _ _

theorem Addressing.readBus (single : Bool) (a : Addr) : Addressing (readBus single a) := by
  unfold Machine.readBus
  refine .bind (.beforeAccess a) fun _ => .bind .get fun s => ?_
  split
  · exact .readAt _ _
  · exact .of_error (protectionFault_stops _ _)

theorem Addressing.writeBus (single : Bool) (a : Addr) (v : Word) : Addressing (writeBus single a v) := by
  unfold Machine.writeBus
  refine .bind (.beforeAccess a) fun _ => .bind .get fun s => ?_
  split
  · exact .writeAt _ _ _
  · exact .of_error (protectionFault_stops _ _)

theorem Addressing.enablePendingUser : Addressing enablePendingUser := by
  unfold Machine.enablePendingUser
  intro s t x h
  simp only [Exec.bind_apply, Exec.get_apply] at h
  cases hc : s.map.enablePending <;> simp only [hc] at h
  · exact Addressing.pure () s t x h
  · simp only [Exec.set_apply, EStateM.Result.ok.injEq] at h
    exact h.2 ▸ (by constructor <;> rfl)

theorem Addressing.indirectGuard (k : Nat) : Addressing (indirectGuard k) := by
  unfold Machine.indirectGuard
  exact .bind .get fun _ => .ite _ (.of_error (protectionFault_stops _ _)) (.pure _)

theorem Addressing.chainLevel (auto single : Bool) (a : Addr) : Addressing (chainLevel eaBus auto single a) := by
  unfold Machine.chainLevel
  refine .bind (.readBus _ _) fun w => ?_
  split
  · exact .ite _ (.bind (.writeBus _ _ _) fun _ => .pure _) (.pure _)
  · exact .pure _

theorem Addressing.chase (auto : Bool) : ∀ (fuel count : Nat) (single : Bool) (a : Addr),
    Addressing (chase eaBus auto fuel count single a)
  | 0, _, _, _ => .throw _
  | fuel + 1, _, _, _ => by
    unfold Machine.chase
    refine .bind (.indirectGuard _) fun _ => .bind (.chainLevel _ _ _) fun r => .bind .enablePendingUser fun _ => ?_
    exact .ite _ (Addressing.chase auto fuel _ _ _) (.pure _)

/-- EA_short leaves every register, status and counter alone (20_memory.md R73). -/
theorem Addressing.eaShort (m : ShortMem) : Addressing (eaShort m) := by
  unfold Machine.eaShort
  exact .bind .get fun _ => .ite _ (.chase _ _ _ _ _) (.pure _)

/-- EA_ext leaves every register, status and counter alone (20_memory.md R78). -/
theorem Addressing.eaExt (m : ExtMem) : Addressing (eaExt m) := by
  unfold Machine.eaExt
  exact .bind .get fun _ => .ite _ (.chase _ _ _ _ _) (.pure _)

/-- The address calculation of LDA and STA when no MAP SINGLE CYCLE is pending (46_map.md R321). -/
theorem eaShortSingle_none {m : ShortMem} {s u : State} {e : Addr} (hs : s.map.singlePending = false)
    (h : eaShort m s = .ok e u) : eaShortSingle m s = .ok (e, false) u := by
  cases hm : m.ind with
  | false =>
    simp only [eaShort, Exec.bind_apply, Exec.get_apply, hm, Bool.false_eq_true, if_false, Exec.pure_apply,
      EStateM.Result.ok.injEq] at h
    obtain ⟨rfl, rfl⟩ := h
    simp only [eaShortSingle, Exec.bind_apply, Exec.get_apply, hm, Bool.false_eq_true, if_false, Exec.pure_apply, hs]
  | true =>
    simp only [eaShort, Exec.bind_apply, Exec.get_apply, hm, if_true] at h
    simp only [eaShortSingle, Exec.bind_apply, Exec.get_apply, hm, if_true, hs, h, Exec.pure_apply]

/-! ### Guards and accumulators -/

theorem ioGuard_free {s : State} {dev : BitVec 6} (h : s.ioProtected dev = false) : ioGuard dev s = .ok () s := by
  simp [ioGuard, h]

theorem needsEap_ok {s : State} (h : s.cfg.hasEap = true) (w : Word) : needsEap w s = .ok () s := by
  simp [needsEap, h]

/-- The rule of a floating point instruction runs when no trap is pending (47_floating_point.md R355, R358). -/
theorem floatInstr_ready {s : State} (h : s.fpReady = true) (body : Exec Unit) : floatInstr body s = body s := by
  simp only [State.fpReady, Bool.and_eq_true, Bool.not_eq_true'] at h
  simp [floatInstr, fpIssue, h.1, h.2]

/-- A direct address in an accumulator stays there (42_byte_bit.md R221). -/
theorem resolveAcAddr_direct {s : State} {n : Acc} (h : isIndirect (s.ac n) = false) :
    resolveAcAddr n s = .ok () s := by
  simp [resolveAcAddr, h]

/-- An indirect address is replaced by the end of its chain (42_byte_bit.md R221). -/
theorem resolveAcAddr_indirect {s : State} (h : s.calm = true) (he : s.map.enablePending = none) {n : Acc} {e : Addr}
    (hi : isIndirect (s.ac n) = true) (hf : s.follow chainFuel (addrOf (s.ac n)) = some e) :
    resolveAcAddr n s = .ok () (s.setAc n (wordOfAddr e)) := by
  simp [resolveAcAddr, hi, indirect_calm h he hf]

/-! ### Runs of bytes (48_commercial.md R430) -/

theorem State.putBytes_calm (bs : List Byte) : ∀ (s : State) (p : Word), (s.putBytes bs p).calm = s.calm := by
  induction bs with
  | nil => intro s p; rfl
  | cons b bs ih => intro s p; simp [State.putBytes, ih]

theorem writeBytes_calm (bs : List Byte) : ∀ (s : State) (p : Word), s.calm = true →
    writeBytes bs p s = .ok () (s.putBytes bs p) := by
  induction bs with
  | nil => intro s p _; rfl
  | cons b bs ih =>
    intro s p h
    simp only [writeBytes, Exec.bind_apply, byteWrite_calm h]
    rw [ih _ _ ((State.putByte_calm s p b).trans h)]
    rfl

theorem readBytes_calm (s : State) (h : s.calm = true) : ∀ (n : Nat) (p : Word),
    readBytes n p s = .ok ((List.range n).map fun k => s.lookByte (p + BitVec.ofNat 16 k)) s
  | 0, _ => rfl
  | n + 1, p => by
    simp only [readBytes, Exec.bind_apply, byteRead_calm h, readBytes_calm s h n (p + 1), Exec.pure_apply]
    rw [List.range_succ_eq_map]
    simp only [List.map_cons, List.map_map]
    congr 3
    · simp
    · funext k
      simp only [Function.comp]
      congr 1
      rw [BitVec.add_assoc]
      congr 1
      apply BitVec.eq_of_toNat_eq
      simp [BitVec.toNat_ofNat, Nat.add_comm]

/-! ### Faults that end an instruction -/

theorem checkOverflow_setPc {s : State} (h : s.calm = true) (ho : s.overflowed = false) (next e : Addr) :
    checkOverflow next (s.setPc e) = .ok () (s.setPc e) :=
  checkOverflow_calm_ok (s := s.setPc e) h ho next

/-- A commercial fault in a calm state (60_exceptions.md R567). -/
theorem commercialFault_calm {α : Type} {s : State} (h : s.calm = true) (code : Word) {e : Addr}
    (hf : ((s.setAc1 code).pushedBlock s.pc).follow chainFuel 0o46 = some e)
    (ho : ((s.setAc1 code).pushedBlock s.pc).overflowed = false) :
    (commercialFault code : Exec α) s = .error .trap (s.inCommercialFault code e) := by
  have h1 : (s.setAc1 code).calm = true := h
  have h2 : ((s.setAc1 code).pushedBlock s.pc).calm = true := (State.pushedBlock_calm _ _).trans h1
  simp only [commercialFault, Exec.bind_apply, Exec.modify_apply, Exec.get_apply]
  rw [show (s.setAc1 code).pc = s.pc from rfl, pushBlock_calm h1]
  simp only [jumpIndirect_calm h2 hf]
  rw [checkOverflow_setPc h2 ho]
  rfl

/-- A floating point fault in a calm state (60_exceptions.md R566). -/
theorem floatingPointFault_calm {α : Type} {s : State} (h : s.calm = true) {e : Addr}
    (hf : ((s.setFpsr (s.fpsr &&& 0xFBFFFFFF#32)).pushedBlock s.pc).follow chainFuel 0o45 = some e)
    (ho : ((s.setFpsr (s.fpsr &&& 0xFBFFFFFF#32)).pushedBlock s.pc).overflowed = false) :
    (floatingPointFault : Exec α) s =
      .error .trap (((s.setFpsr (s.fpsr &&& 0xFBFFFFFF#32)).pushedBlock s.pc).setPc e) := by
  have h1 : (s.setFpsr (s.fpsr &&& 0xFBFFFFFF#32)).calm = true := h
  have h2 : ((s.setFpsr (s.fpsr &&& 0xFBFFFFFF#32)).pushedBlock s.pc).calm = true :=
    (State.pushedBlock_calm _ _).trans h1
  simp only [floatingPointFault, Exec.bind_apply, Exec.get_apply, Exec.set_apply]
  rw [pushBlock_calm h1]
  simp only [jumpIndirect_calm h2 hf]
  rw [checkOverflow_setPc h2 ho]
  rfl

/-! ### The protection fault (60_exceptions.md R568) -/

theorem supRead_calm {s : State} (h : s.calm = true) (a : Addr) : supRead a s = .ok (s.look a) s := by
  obtain ⟨h1, h2⟩ := (State.quiet_iff s).1 (State.quiet_of_calm h)
  rw [State.look_of_calm h]
  simp [supRead, beforeAccess_quiet (State.quiet_of_calm h), readAt, State.physRead_quiet h2.1, afterAccess, h1]

theorem supWrite_calm {s : State} (h : s.calm = true) (a : Addr) (v : Word) : supWrite a v s = .ok () (s.put a v) := by
  obtain ⟨h1, -⟩ := (State.quiet_iff s).1 (State.quiet_of_calm h)
  rw [State.put_of_calm h]
  simp [supWrite, beforeAccess_quiet (State.quiet_of_calm h), writeAt, afterAccess, h1]

/-- A push through a bus that reads and writes as the processor does in a calm state (43_stack.md R232). -/
theorem pushOn_calm {b : Bus} (hr : ∀ (t : State) (a : Addr), t.calm = true → b.read false a t = .ok (t.look a) t)
    (hw : ∀ (t : State) (a : Addr) (v : Word), t.calm = true → b.write a v t = .ok () (t.put a v)) {s : State}
    (h : s.calm = true) (v : Word) : pushOn b v s = .ok () (s.pushed v) := by
  simp only [pushOn, Exec.bind_apply, hr s _ h, hw s _ _ h]
  rw [hw _ _ _ ((State.put_calm _ _ _).trans h)]
  rfl

theorem pushBlockOn_calm {b : Bus} (hr : ∀ (t : State) (a : Addr), t.calm = true → b.read false a t = .ok (t.look a) t)
    (hw : ∀ (t : State) (a : Addr) (v : Word), t.calm = true → b.write a v t = .ok () (t.put a v)) {s : State}
    (h : s.calm = true) (pc : Addr) : pushBlockOn b pc s = .ok () (s.pushedBlock pc) := by
  simp only [pushBlockOn, Exec.bind_apply, Exec.get_apply, pushOn_calm hr hw h]
  rw [pushOn_calm hr hw (by simpa using h)]
  simp only
  rw [pushOn_calm hr hw (by simpa using h)]
  simp only
  rw [pushOn_calm hr hw (by simpa using h)]
  simp only
  rw [pushOn_calm hr hw (by simpa using h)]
  rfl

/-- A chain on the bus of the fault sequences in a calm state. -/
theorem chase_sup_calm {s : State} (h : s.calm = true) (n : Nat) : ∀ (k : Nat) (a : Addr), chase supBus false n k false a s =
    match s.follow n a with
    | some e => .ok e s
    | none => .error .stuck s := by
  have hlevel : ∀ a, chainLevel supBus false false a s = .ok (s.look a, isIndirect (s.look a)) s := fun a => by
    simp only [chainLevel, Exec.bind_apply, show supBus.read false a s = .ok (s.look a) s from supRead_calm h a]
    cases autoUpdate a (s.look a) <;> simp
  have hg : ∀ k, supBus.guard k s = .ok () s := fun _ => rfl
  have ha : supBus.after s = .ok () s := rfl
  induction n with
  | zero => intro k a; rfl
  | succ n ih =>
    intro k a
    simp only [chase, Exec.bind_apply, hg, hlevel, ha, State.follow]
    cases isIndirect (s.look a) with
    | false => simp
    | true => simpa using ih (k + 1) (addrOf (s.look a))

theorem faultTail_calm {α : Type} {t : State} (h : t.calm = true) {e : Addr} (hf : t.follow chainFuel 3 = some e)
    (ho : t.overflowed = false) :
    ((do
      jumpIndirectOn supBus 3
      let u ← get
      checkOverflowOn supBus u.pc
      throw .trap : Exec α) t) = .error .trap (t.setPc e) := by
  have hj : jumpIndirectOn supBus 3 t = .ok () (t.setPc e) := by
    simp only [jumpIndirectOn, Exec.bind_apply, chase_sup_calm h, hf]
    rfl
  have hk : ∀ n, checkOverflowOn supBus n (t.setPc e) = .ok () (t.setPc e) := fun n => by
    have hr : ∀ a, supBus.read false a (t.setPc e) = .ok (t.look a) (t.setPc e) :=
      fun a => supRead_calm (s := t.setPc e) h a
    simp only [State.overflowed, decide_eq_false_iff_not] at ho
    simp only [checkOverflowOn, Exec.bind_apply, hr]
    rw [if_neg ho]
    rfl
  simp only [Exec.bind_apply, hj, Exec.get_apply, hk, Exec.throw_apply]

theorem State.faultRecorded_calm {s : State} (h : s.quiet = true) (f : MapFault) : (s.faultRecorded f).calm = true := by
  have hq : (s.faultRecorded f).quiet = s.quiet := rfl
  have hu : (s.faultRecorded f).userMode = false := Bool.and_false _
  unfold State.calm
  rw [hq, hu, h]
  rfl

/-- A protection fault in a quiet state: the violation recorded, user mode left, the block on the supervisor's stack, the
jump through location 3; `undef` and `pc` are PC UNDEFINED and the block's address. -/
theorem protectionFault_quiet {α : Type} {s : State} (h : s.quiet = true) (v : Violation) (single undef : Bool) (pc e : Addr)
    (hundef : undef = if v = .io then false else isIndirect (Config.freeWord (s.free + 1)))
    (hpc : pc = if v = .io then s.pc + 1 else addrOf (Config.freeWord s.free))
    (hf : ((s.faultRecorded (faultStatus s.cfg.mapKind v single undef)).pushedBlock pc).follow chainFuel 3 = some e)
    (ho : ((s.faultRecorded (faultStatus s.cfg.mapKind v single undef)).pushedBlock pc).overflowed = false) :
    (protectionFault v single : Exec α) s =
      .error .trap (((s.faultRecorded (faultStatus s.cfg.mapKind v single undef)).pushedBlock pc).setPc e) := by
  subst hundef hpc
  have hc := State.faultRecorded_calm h (faultStatus s.cfg.mapKind v single
    (if v = .io then false else isIndirect (Config.freeWord (s.free + 1))))
  have hb := pushBlockOn_calm (b := supBus) (fun _ a ht => supRead_calm ht a) (fun _ a w ht => supWrite_calm ht a w) hc
    (if v = .io then s.pc + 1 else addrOf (Config.freeWord s.free))
  have ht := faultTail_calm (α := α) ((State.pushedBlock_calm _ _).trans hc) hf ho
  have hx : ∀ x : State, x = s.faultRecorded (faultStatus s.cfg.mapKind v single
      (if v = .io then false else isIndirect (Config.freeWord (s.free + 1)))) →
      pushBlockOn supBus (if v = .io then s.pc + 1 else addrOf (Config.freeWord s.free)) x = _ :=
    fun x hx => hx ▸ hb
  unfold protectionFault
  rw [Exec.bind_apply, Exec.get_apply]
  dsimp only
  rw [Exec.bind_apply, freshWord_apply]
  dsimp only
  rw [Exec.bind_apply, freshWord_apply]
  dsimp only
  rw [Exec.bind_apply, Exec.modify_apply]
  dsimp only
  rw [Exec.bind_apply, hx]
  · exact ht
  · rfl

end Sys2Proof.Machine
end

