-- ==== Sys2Proof/Laws/Kept.lean ====
section
/-! SUPPORT. What keeps the machine's invariant: the combinators a rule is built from, the stores, the shared operations. -/

namespace Sys2Proof.Machine

/-! ### The invariant and single updates -/

theorem State.inv_iff (s : State) : s.inv = true ↔ (Memory.wf s.mem = true
    ∧ s.mem.all (fun c => decide (c.1 < 2 * s.cfg.memWords)) = true ∧ fpsrBit s.fpsr 0 = fpsrError s.fpsr) := by
  unfold State.inv
  simp only [Bool.and_eq_true, beq_iff_eq, and_assoc]

/-- The invariant depends on memory, its size and FPSR only. -/
theorem State.inv_congr {s t : State} (hm : t.mem = s.mem) (hc : t.cfg = s.cfg) (hf : t.fpsr = s.fpsr) : t.inv = s.inv := by
  unfold State.inv
  rw [hm, hc, hf]

/-- A store keeps the invariant (20_memory.md R61, R65). -/
theorem State.inv_physWrite {s : State} (h : s.inv = true) (pa : Nat) (v : Word) : (s.physWrite pa v).inv = true := by
  unfold State.physWrite
  split
  · rename_i hp
    rw [State.inv_iff] at h ⊢
    exact ⟨Memory.wf_setWord _ h.1 _ _, Memory.bound_setWord _ _ _ _ hp h.2.1, h.2.2⟩
  · exact h

theorem State.inv_put {s : State} (h : s.inv = true) (a : Addr) (v : Word) : (s.put a v).inv = true := by
  unfold State.put
  split
  · exact State.inv_physWrite h _ _
  · exact h

/-- An FPSR whose ANY bit is the OR of the error bits keeps the invariant (10_state.md R24). -/
theorem State.inv_setFpsr {s : State} (h : s.inv = true) {r : BitVec 32} (hr : fpsrBit r 0 = fpsrError r) :
    (s.setFpsr r).inv = true := by
  rw [State.inv_iff] at h ⊢
  exact ⟨h.1, h.2.1, hr⟩

theorem State.inv_setAc {s : State} (h : s.inv = true) (n : Acc) (v : Word) : (s.setAc n v).inv = true := by
  cases n <;> exact h

theorem State.inv_setFpac {s : State} (h : s.inv = true) (n : Acc) (v : Quad) : (s.setFpac n v).inv = true := by
  cases n <;> exact h

/-! ### Rules -/

/-- The state a computation leaves, however it ends. -/
def stateOf {α : Type} : EStateM.Result Stop State α → State
  | .ok _ t => t
  | .error _ t => t

/-- A computation that keeps the invariant, however it ends. -/
def Keeps {α : Type} (m : Exec α) : Prop := ∀ s : State, s.inv = true → (stateOf (m s)).inv = true

theorem Keeps.pure {α : Type} (a : α) : Keeps (pure a : Exec α) := fun _ h => h

theorem Keeps.get : Keeps (get : Exec State) := fun _ h => h

theorem Keeps.throw {α : Type} (e : Stop) : Keeps (throw e : Exec α) := fun _ h => h

theorem Keeps.modify {f : State → State} (hf : ∀ s : State, s.inv = true → (f s).inv = true) :
    Keeps (modify f : Exec PUnit) := fun s h => hf s h

theorem Keeps.bind {α β : Type} {m : Exec α} {f : α → Exec β} (h1 : Keeps m) (h2 : ∀ a, Keeps (f a)) :
    Keeps (m >>= f) := by
  intro s h
  have h3 := h1 s h
  rw [Exec.bind_apply]
  cases hm : m s with
  | ok a t =>
    rw [hm] at h3
    exact h2 a t h3
  | error e t =>
    rw [hm] at h3
    exact h3

/-- A rule that reads the state first: the rest may use that this state is the one it starts in. -/
theorem Keeps.bind_get {α : Type} {f : State → Exec α}
    (h : ∀ s : State, s.inv = true → (stateOf (f s s)).inv = true) : Keeps (MonadState.get >>= f : Exec α) :=
  fun s hs => h s hs

theorem Keeps.ite {α : Type} (c : Prop) [Decidable c] {m n : Exec α} (h1 : Keeps m) (h2 : Keeps n) :
    Keeps (if c then m else n) := by
  split
  · exact h1
  · exact h2

/-! ### An instruction that is cut off (70_reset_and_hazards.md R601) -/

theorem mixMemory_wf (words : Nat) (f : Nat → Memory) (moment : Nat → Nat) (m : Memory) (h : Memory.wf m = true) :
    Memory.wf (mixMemory words f moment m) = true := by
  unfold mixMemory
  generalize List.range words = l
  induction l generalizing m with
  | nil => exact h
  | cons a l ih => exact ih _ (Memory.wf_setWord m h _ _)

theorem mixMemory_bound (words k : Nat) (hk : words ≤ k) (f : Nat → Memory) (moment : Nat → Nat) (m : Memory)
    (h : m.all (fun c => decide (c.1 < 2 * k)) = true) :
    (mixMemory words f moment m).all (fun c => decide (c.1 < 2 * k)) = true := by
  unfold mixMemory
  have hl : ∀ a ∈ List.range words, a < k := fun a ha => Nat.lt_of_lt_of_le (List.mem_range.1 ha) hk
  generalize List.range words = l at hl
  induction l generalizing m with
  | nil => exact h
  | cons a l ih =>
    exact ih _ (Memory.bound_setWord m _ _ _ (hl a (by simp)) h) fun b hb => hl b (by simp [hb])

theorem mixed_mem (c : Nat) (f : Nat → State) : (mixed c f).mem =
    mixMemory (f (momentAt c 0)).cfg.memWords (fun n => (f n).mem) (fun k => momentAt c (256 + k)) (f (momentAt c 0)).mem := by
  rfl

theorem mixed_cfg (c : Nat) (f : Nat → State) : (mixed c f).cfg = (f (momentAt c 0)).cfg := by rfl

theorem mixed_fpsr (c : Nat) (f : Nat → State) : (mixed c f).fpsr = (f (momentAt c 11)).fpsr := by rfl

/-- Each element at a moment of its own: the invariant holds if it holds at every moment. -/
theorem State.inv_mixed (c : Nat) {f : Nat → State} (h : ∀ n, (f n).inv = true) : (mixed c f).inv = true := by
  obtain ⟨h1, h2, -⟩ := (State.inv_iff _).1 (h (momentAt c 0))
  obtain ⟨-, -, h3⟩ := (State.inv_iff _).1 (h (momentAt c 11))
  rw [State.inv_iff, mixed_mem, mixed_cfg, mixed_fpsr]
  exact ⟨mixMemory_wf _ _ _ _ h1, mixMemory_bound _ _ (Nat.le_refl _) _ _ _ h2, h3⟩

theorem Keeps.stateAfterCycles {α : Type} {m : Exec α} (hm : Keeps m) {s : State} (h : s.inv = true) (n : Nat) :
    (stateAfterCycles m s n).inv = true := by
  have hk := hm (s.setCut (some n)) h
  unfold Machine.stateAfterCycles
  split
  · rename_i hr
    rw [hr] at hk
    exact hk
  · rename_i hr
    rw [hr] at hk
    exact hk

theorem Keeps.stuckIn {α : Type} {m : Exec α} (hm : Keeps m) {s : State} (h : s.inv = true) :
    (stuckIn m s).inv = true :=
  State.inv_mixed (f := Machine.stateAfterCycles m s) s.free fun n => hm.stateAfterCycles h n

/-- A rule that keeps the invariant leads to a next state with the invariant. -/
theorem Keeps.next {m : Exec Unit} (hm : Keeps m) {s t : State} (h : s.inv = true) (hr : runExec m s = .next t) :
    t.inv = true := by
  have hk := hm s h
  rcases runExec_next hr with h1 | h1 | ⟨-, rfl⟩
  · rw [h1] at hk
    exact hk
  · rw [h1] at hk
    exact hk
  · exact hm.stuckIn h

theorem Keeps.freshWord : Keeps freshWord := fun _ h => h

theorem Keeps.freshQuad : Keeps freshQuad := fun _ h => h

theorem Keeps.advance (len : Addr) : Keeps (advance len) := fun _ h => h

theorem Keeps.advanceSkip (len : Addr) (c : Bool) : Keeps (advanceSkip len c) := fun _ h => h

theorem Keeps.suspendInstr {α : Type} : Keeps (suspendInstr : Exec α) :=
  .bind (.modify fun _ h => h) fun _ => .throw _

theorem Keeps.suspendCpu {α : Type} : Keeps (suspendCpu : Exec α) :=
  .bind .freshWord fun _ => .bind .freshWord fun _ => .bind (.modify fun _ h => h) fun _ => .throw _

/-! ### Memory references -/

theorem Keeps.spendCycle : Keeps spendCycle := by
  unfold Machine.spendCycle
  refine .bind_get fun s h => ?_
  cases s.cut with
  | none => exact h
  | some n =>
    cases n with
    | zero => exact h
    | succ n => exact h

theorem Keeps.beforeAccess (a : Addr) : Keeps (beforeAccess a) :=
  .bind .spendCycle fun _ => .bind .get fun _ => .ite _ .suspendCpu (.pure _)

theorem Keeps.afterAccess (w : Bool) (a : Addr) (v : Word) : Keeps (afterAccess w a v) := by
  unfold Machine.afterAccess
  refine .bind_get fun s h => ?_
  cases s.comparing
  · exact h
  · dsimp only
    split
    · exact h
    · exact h
  · dsimp only
    split
    · exact Keeps.suspendCpu s h
    · exact h
  · exact h

theorem State.inv_physRead {s : State} (h : s.inv = true) (pa : Nat) : (s.physRead pa).2.inv = true := by
  have ha := State.Addressed.physRead s pa
  have hm : (s.physRead pa).2.mem = s.mem := by
    unfold State.physRead
    split
    · dsimp only
      split
      · split <;> rfl
      · rfl
    · rfl
  rw [State.inv_congr hm ha.cfg ha.fpsr]
  exact h

theorem Keeps.readAt (pa : Nat) (a : Addr) : Keeps (readAt pa a) := by
  unfold Machine.readAt
  refine .bind_get fun s h => ?_
  have hb : Keeps (do
      Machine.afterAccess false a (s.physRead pa).1
      Pure.pure (s.physRead pa).1 : Exec Word) := .bind (.afterAccess _ _ _) fun _ => .pure _
  exact hb _ (State.inv_physRead h pa)

theorem Keeps.writeAt (pa : Nat) (a : Addr) (v : Word) : Keeps (writeAt pa a v) :=
  .bind (.modify fun _ h => State.inv_physWrite h _ _) fun _ => .afterAccess _ _ _

/-- A bus whose operations keep the invariant. -/
structure Bus.Kept (b : Bus) : Prop where
  read : ∀ single a, Keeps (b.read single a)
  write : ∀ a v, Keeps (b.write a v)
  guard : ∀ n, Keeps (b.guard n)
  after : Keeps b.after

theorem Keeps.chainLevel {b : Bus} (hb : b.Kept) (auto single : Bool) (a : Addr) : Keeps (chainLevel b auto single a) := by
  unfold Machine.chainLevel
  refine .bind (hb.read _ _) fun w => ?_
  split
  · exact .ite _ (.bind (hb.write _ _) fun _ => .pure _) (.pure _)
  · exact .pure _

theorem Keeps.chase {b : Bus} (hb : b.Kept) (auto : Bool) : ∀ (fuel count : Nat) (single : Bool) (a : Addr),
    Keeps (chase b auto fuel count single a)
  | 0, _, _, _ => .throw _
  | fuel + 1, _, _, _ => by
    unfold Machine.chase
    refine .bind (hb.guard _) fun _ => .bind (.chainLevel hb _ _ _) fun r => .bind hb.after fun _ => ?_
    exact .ite _ (Keeps.chase hb auto fuel _ _ _) (.pure _)

theorem Keeps.pushOn {b : Bus} (hb : b.Kept) (v : Word) : Keeps (pushOn b v) :=
  .bind (hb.read _ _) fun _ => .bind (hb.write _ _) fun _ => hb.write _ _

theorem Keeps.popOn {b : Bus} (hb : b.Kept) : Keeps (popOn b) :=
  .bind (hb.read _ _) fun _ => .bind (hb.read _ _) fun _ => .bind (hb.write _ _) fun _ => .pure _

theorem Keeps.pushBlockOn {b : Bus} (hb : b.Kept) (pc : Addr) : Keeps (pushBlockOn b pc) :=
  .bind .get fun _ => .bind (.pushOn hb _) fun _ => .bind (.pushOn hb _) fun _ => .bind (.pushOn hb _) fun _ =>
    .bind (.pushOn hb _) fun _ => .pushOn hb _

theorem Keeps.jumpIndirectOn {b : Bus} (hb : b.Kept) (loc : Addr) : Keeps (jumpIndirectOn b loc) :=
  .bind (.chase hb _ _ _ _ _) fun _ => .modify fun _ h => h

theorem Keeps.stackFaultOn {α : Type} {b : Bus} (hb : b.Kept) (pc : Addr) : Keeps (stackFaultOn b pc : Exec α) :=
  .bind (.pushBlockOn hb _) fun _ => .bind (hb.read _ _) fun _ => .bind (hb.write _ _) fun _ =>
    .bind (hb.read _ _) fun _ => .bind (hb.write _ _) fun _ => .bind (.jumpIndirectOn hb _) fun _ => .throw _

theorem Keeps.checkOverflowOn {b : Bus} (hb : b.Kept) (next : Addr) : Keeps (checkOverflowOn b next) :=
  .bind (hb.read _ _) fun _ => .bind (hb.read _ _) fun _ => .ite _ (.stackFaultOn hb _) (.pure _)

theorem supBus_kept : supBus.Kept where
  read _ a := .bind (.beforeAccess a) fun _ => .bind .get fun _ => .readAt _ _
  write a _ := .bind (.beforeAccess a) fun _ => .bind .get fun _ => .writeAt _ _ _
  guard _ := .pure _
  after := .pure _

theorem Keeps.protectionFault {α : Type} (v : Violation) (single : Bool) : Keeps (protectionFault v single : Exec α) :=
  .bind .get fun _ => .bind .freshWord fun _ => .bind .freshWord fun _ => .bind (.modify fun _ h => h) fun _ =>
    .bind (.pushBlockOn supBus_kept _) fun _ => .bind (.jumpIndirectOn supBus_kept _) fun _ => .bind .get fun _ =>
      .bind (.checkOverflowOn supBus_kept _) fun _ => .throw _

theorem Keeps.readBus (single : Bool) (a : Addr) : Keeps (readBus single a) := by
  refine .bind (.beforeAccess a) fun _ => .bind .get fun s => ?_
  split
  · exact .readAt _ _
  · exact .protectionFault _ _

theorem Keeps.writeBus (single : Bool) (a : Addr) (v : Word) : Keeps (writeBus single a v) := by
  refine .bind (.beforeAccess a) fun _ => .bind .get fun s => ?_
  split
  · exact .writeAt _ _ _
  · exact .protectionFault _ _

theorem Keeps.memRead (a : Addr) : Keeps (memRead a) := .readBus _ _

theorem Keeps.memWrite (a : Addr) (v : Word) : Keeps (memWrite a v) := .writeBus _ _ _

theorem Keeps.indirectGuard (n : Nat) : Keeps (indirectGuard n) :=
  .bind .get fun _ => .ite _ (.protectionFault _ _) (.pure _)

theorem Keeps.enablePendingUser : Keeps enablePendingUser := by
  refine .bind_get fun s h => ?_
  cases s.map.enablePending
  · exact h
  · exact h

theorem eaBus_kept : eaBus.Kept where
  read _ _ := .readBus _ _
  write _ _ := .memWrite _ _
  guard _ := .indirectGuard _
  after := .enablePendingUser

theorem cpuBus_kept : cpuBus.Kept where
  read _ _ := .readBus _ _
  write _ _ := .memWrite _ _
  guard _ := .indirectGuard _
  after := .pure _

/-! ### The operations the rules share -/

theorem Keeps.indirect (a : Addr) : Keeps (indirect a) := .chase eaBus_kept _ _ _ _ _

theorem Keeps.eaShort (m : ShortMem) : Keeps (eaShort m) :=
  .bind .get fun _ => .ite _ (.chase eaBus_kept _ _ _ _ _) (.pure _)

theorem Keeps.eaExt (m : ExtMem) : Keeps (eaExt m) := .bind .get fun _ => .ite _ (.indirect _) (.pure _)

theorem Keeps.push (v : Word) : Keeps (push v) := .pushOn cpuBus_kept v

theorem Keeps.pop : Keeps pop := .popOn cpuBus_kept

theorem Keeps.pushBlock (pc : Addr) : Keeps (pushBlock pc) := .pushBlockOn cpuBus_kept pc

theorem Keeps.popBlock : Keeps popBlock :=
  .bind .pop fun _ => .bind (.modify fun _ h => h) fun _ => .bind .pop fun _ => .bind (.modify fun _ h => h) fun _ =>
    .bind .pop fun _ => .bind (.modify fun _ h => h) fun _ => .bind .pop fun _ => .bind (.modify fun _ h => h) fun _ =>
      .bind .pop fun _ => .modify fun _ h => h

theorem Keeps.stackFault {α : Type} (pc : Addr) : Keeps (stackFault pc : Exec α) := .stackFaultOn cpuBus_kept pc

theorem Keeps.checkOverflow (next : Addr) : Keeps (checkOverflow next) := .checkOverflowOn cpuBus_kept next

theorem Keeps.checkUnderflow (next : Addr) : Keeps (checkUnderflow next) :=
  .bind (.memRead _) fun _ => .ite _
    (.bind (.memRead _) fun _ => .ite _ (.pure _) (.bind (.memWrite _ _) fun _ => .stackFault _)) (.pure _)

theorem Keeps.jumpIndirect (loc : Addr) : Keeps (jumpIndirect loc) := .jumpIndirectOn cpuBus_kept loc

/-- Clearing TE leaves ANY and the error bits (10_state.md R24). -/
theorem fpsr_clearTe (r : BitVec 32) (h : fpsrBit r 0 = fpsrError r) :
    fpsrBit (r &&& 0xFBFFFFFF#32) 0 = fpsrError (r &&& 0xFBFFFFFF#32) := by
  simpa [fpsrBit, fpsrError, BitVec.getMsbD_and, BitVec.getMsbD] using h

theorem Keeps.floatingPointFault {α : Type} : Keeps (floatingPointFault : Exec α) := by
  refine .bind_get fun s h => ?_
  have hb : Keeps (do
      Machine.pushBlock s.pc
      Machine.jumpIndirect 0o45
      let t ← MonadState.get
      Machine.checkOverflow t.pc
      MonadExcept.throw Stop.trap : Exec α) :=
    .bind (.pushBlock _) fun _ => .bind (.jumpIndirect _) fun _ => .bind .get fun _ => .bind (.checkOverflow _) fun _ =>
      .throw _
  exact hb _ (State.inv_setFpsr h (fpsr_clearTe _ ((State.inv_iff s).1 h).2.2))

theorem Keeps.commercialFault {α : Type} (code : Word) : Keeps (commercialFault code : Exec α) :=
  .bind (.modify fun _ h => h) fun _ => .bind .get fun _ => .bind (.pushBlock _) fun _ => .bind (.jumpIndirect _) fun _ =>
    .bind .get fun _ => .bind (.checkOverflow _) fun _ => .throw _

theorem Keeps.byteRead (bp : Word) : Keeps (byteRead bp) := .bind (.memRead _) fun _ => .pure _

theorem Keeps.byteWrite (bp : Word) (v : Byte) : Keeps (byteWrite bp v) := .bind (.memRead _) fun _ => .memWrite _ _

theorem Keeps.memRead2 (a : Addr) : Keeps (memRead2 a) :=
  .bind (.memRead _) fun _ => .bind (.memRead _) fun _ => .pure _

theorem Keeps.memWrite2 (a : Addr) (v : BitVec 32) : Keeps (memWrite2 a v) := .bind (.memWrite _ _) fun _ => .memWrite _ _

theorem Keeps.memRead4 (a : Addr) : Keeps (memRead4 a) :=
  .bind (.memRead2 _) fun _ => .bind (.memRead2 _) fun _ => .pure _

theorem Keeps.memWrite4 (a : Addr) (v : Quad) : Keeps (memWrite4 a v) := .bind (.memWrite2 _ _) fun _ => .memWrite2 _ _

theorem Keeps.ioGuard (dev : BitVec 6) : Keeps (ioGuard dev) :=
  .bind .get fun _ => .ite _ (.protectionFault _ _) (.pure _)

/-- ANY follows the error bits after a load (10_state.md R24). -/
theorem fpsr_fixAny (r : BitVec 32) : fpsrBit (fixAny r) 0 = fpsrError (fixAny r) := by
  have h : ∀ b : Bool, fpsrBit (setFpsrBit r 0 b) 0 = b ∧ fpsrError (setFpsrBit r 0 b) = fpsrError r := by
    intro b
    constructor
    · cases b <;> simp [fpsrBit, setFpsrBit, BitVec.getMsbD, BitVec.getLsbD_eq_getElem]
    · cases b <;> simp [fpsrError, fpsrBit, setFpsrBit, BitVec.getMsbD, BitVec.getLsbD_eq_getElem]
  unfold fixAny
  rw [(h _).1, (h _).2]

theorem State.inv_given {s : State} (h : s.inv = true) (t : State) : (s.given t).inv = true := by
  obtain ⟨h1, h2, -⟩ := (State.inv_iff s).1 h
  have hm : (s.given t).mem =
      if Memory.wf t.mem && t.mem.all (fun c => decide (c.1 < 2 * s.cfg.memWords)) then t.mem else s.mem := rfl
  have hc : (s.given t).cfg = s.cfg := rfl
  rw [State.inv_iff, hm, hc]
  refine ⟨?_, ?_, fpsr_fixAny t.fpsr⟩
  · split
    · rename_i hg
      exact (Bool.and_eq_true _ _ ▸ hg).1
    · exact h1
  · split
    · rename_i hg
      exact (Bool.and_eq_true _ _ ▸ hg).2
    · exact h2

/-- A given effect keeps the set of devices with their codes and mask bits (00_scope.md R4). -/
theorem State.given_devices (s t : State) :
    (s.given t).devices.map (fun d => (d.code, d.ackCode, d.maskBit)) =
      s.devices.map (fun d => (d.code, d.ackCode, d.maskBit)) := by
  show (givenDevices s.devices t.devices).map _ = _
  have h : ∀ ds es : List Device, ds.length = es.length →
      (ds.zipWith Device.given es).map (fun d => (d.code, d.ackCode, d.maskBit)) =
        ds.map (fun d => (d.code, d.ackCode, d.maskBit)) := by
    intro ds
    induction ds with
    | nil => intro es _; rfl
    | cons d ds ih =>
      intro es he
      cases es with
      | nil => simp at he
      | cons e es => simpa [Device.given] using ih es (by simpa using he)
  unfold givenDevices
  split
  · rename_i he
    exact h _ _ he
  · rfl

theorem Keeps.pushAbove (sp v : Word) : Keeps (pushAbove sp v) := .bind (.memWrite _ _) fun _ => .pure _

theorem Keeps.pushQuad (sp : Word) (v : Quad) : Keeps (pushQuad sp v) :=
  .bind (.pushAbove _ _) fun _ => .bind (.pushAbove _ _) fun _ => .bind (.pushAbove _ _) fun _ => .pushAbove _ _

theorem Keeps.popQuad (sp : Word) : Keeps (popQuad sp) :=
  .bind (.memRead _) fun _ => .bind (.memRead _) fun _ => .bind (.memRead _) fun _ => .bind (.memRead _) fun _ => .pure _

theorem Keeps.unassigned {α : Type} (w : Word) : Keeps (unassigned w : Exec α) := by
  refine .bind_get fun s h => ?_
  cases if s.cfg.unassignedOp then unassignedOp w s else none with
  | none => exact h
  | some t => exact State.inv_given h t

theorem Keeps.needsEap (w : Word) : Keeps (needsEap w) := .bind .get fun _ => .ite _ (.pure _) (.unassigned _)

theorem Keeps.resolveAcAddr (n : Acc) : Keeps (resolveAcAddr n) :=
  .bind .get fun _ => .ite _ (.bind (.indirect _) fun _ => .modify fun _ h => State.inv_setAc h _ _) (.pure _)

end Sys2Proof.Machine
end

