-- ==== Sys2Proof/Laws/PerInstr.lean ====
section
/-! SUPPORT. One lemma for each instruction: how many words it encodes to (30_encoding.md R100). -/

namespace Sys2Proof.Laws

/-- An instruction encodes to two words if its row has a second word, to one otherwise (30_encoding.md R100). -/
def Length.Statement (i : Instr) : Prop := (encode i).length = if i.twoWords then 2 else 1

theorem Length.com (f : Alu) : Length.Statement (.com f) := rfl
theorem Length.neg (f : Alu) : Length.Statement (.neg f) := rfl
theorem Length.mov (f : Alu) : Length.Statement (.mov f) := rfl
theorem Length.inc (f : Alu) : Length.Statement (.inc f) := rfl
theorem Length.adc (f : Alu) : Length.Statement (.adc f) := rfl
theorem Length.sub (f : Alu) : Length.Statement (.sub f) := rfl
theorem Length.add (f : Alu) : Length.Statement (.add f) := rfl
theorem Length.and (f : Alu) : Length.Statement (.and f) := rfl
theorem Length.jmp (m : ShortMem) : Length.Statement (.jmp m) := rfl
theorem Length.jsr (m : ShortMem) : Length.Statement (.jsr m) := rfl
theorem Length.isz (m : ShortMem) : Length.Statement (.isz m) := rfl
theorem Length.dsz (m : ShortMem) : Length.Statement (.dsz m) := rfl
theorem Length.lda (ac : Acc) (m : ShortMem) : Length.Statement (.lda ac m) := rfl
theorem Length.sta (ac : Acc) (m : ShortMem) : Length.Statement (.sta ac m) := rfl
theorem Length.lef (ac : Acc) (m : ShortMem) : Length.Statement (.lef ac m) := rfl
theorem Length.ejmp (m : ExtMem) : Length.Statement (.ejmp m) := rfl
theorem Length.ejsr (m : ExtMem) : Length.Statement (.ejsr m) := rfl
theorem Length.eisz (m : ExtMem) : Length.Statement (.eisz m) := rfl
theorem Length.edsz (m : ExtMem) : Length.Statement (.edsz m) := rfl
theorem Length.pshj (m : ExtMem) : Length.Statement (.pshj m) := rfl
theorem Length.elda (ac : Acc) (m : ExtMem) : Length.Statement (.elda ac m) := rfl
theorem Length.esta (ac : Acc) (m : ExtMem) : Length.Statement (.esta ac m) := rfl
theorem Length.elef (ac : Acc) (m : ExtMem) : Length.Statement (.elef ac m) := rfl
theorem Length.dspa (ac : Acc) (m : ExtMem) : Length.Statement (.dspa ac m) := rfl
theorem Length.eldb (ac : Acc) (ix : Index) (disp : Word) : Length.Statement (.eldb ac ix disp) := rfl
theorem Length.estb (ac : Acc) (ix : Index) (disp : Word) : Length.Statement (.estb ac ix disp) := rfl
theorem Length.adi (n : BitVec 2) (ac : Acc) : Length.Statement (.adi n ac) := rfl
theorem Length.sbi (n : BitVec 2) (ac : Acc) : Length.Statement (.sbi n ac) := rfl
theorem Length.hxl (n : BitVec 2) (ac : Acc) : Length.Statement (.hxl n ac) := rfl
theorem Length.hxr (n : BitVec 2) (ac : Acc) : Length.Statement (.hxr n ac) := rfl
theorem Length.dhxl (n : BitVec 2) (ac : Acc) : Length.Statement (.dhxl n ac) := rfl
theorem Length.dhxr (n : BitVec 2) (ac : Acc) : Length.Statement (.dhxr n ac) := rfl
theorem Length.dad (acs acd : Acc) : Length.Statement (.dad acs acd) := rfl
theorem Length.dsb (acs acd : Acc) : Length.Statement (.dsb acs acd) := rfl
theorem Length.ior (acs acd : Acc) : Length.Statement (.ior acs acd) := rfl
theorem Length.xor (acs acd : Acc) : Length.Statement (.xor acs acd) := rfl
theorem Length.anc (acs acd : Acc) : Length.Statement (.anc acs acd) := rfl
theorem Length.xch (acs acd : Acc) : Length.Statement (.xch acs acd) := rfl
theorem Length.sgt (acs acd : Acc) : Length.Statement (.sgt acs acd) := rfl
theorem Length.sge (acs acd : Acc) : Length.Statement (.sge acs acd) := rfl
theorem Length.lsh (acs acd : Acc) : Length.Statement (.lsh acs acd) := rfl
theorem Length.dlsh (acs acd : Acc) : Length.Statement (.dlsh acs acd) := rfl
theorem Length.bto (acs acd : Acc) : Length.Statement (.bto acs acd) := rfl
theorem Length.btz (acs acd : Acc) : Length.Statement (.btz acs acd) := rfl
theorem Length.szb (acs acd : Acc) : Length.Statement (.szb acs acd) := rfl
theorem Length.szbo (acs acd : Acc) : Length.Statement (.szbo acs acd) := rfl
theorem Length.lob (acs acd : Acc) : Length.Statement (.lob acs acd) := rfl
theorem Length.lrb (acs acd : Acc) : Length.Statement (.lrb acs acd) := rfl
theorem Length.cob (acs acd : Acc) : Length.Statement (.cob acs acd) := rfl
theorem Length.ldb (acs acd : Acc) : Length.Statement (.ldb acs acd) := rfl
theorem Length.stb (acs acd : Acc) : Length.Statement (.stb acs acd) := rfl
theorem Length.psh (acs acd : Acc) : Length.Statement (.psh acs acd) := rfl
theorem Length.pop (acs acd : Acc) : Length.Statement (.pop acs acd) := rfl
theorem Length.syc (acs acd : Acc) : Length.Statement (.syc acs acd) := rfl
theorem Length.clm (acs acd : Acc) : Length.Statement (.clm acs acd) := rfl
theorem Length.snb (acs acd : Acc) : Length.Statement (.snb acs acd) := rfl
theorem Length.msp (ac : Acc) : Length.Statement (.msp ac) := rfl
theorem Length.xct (ac : Acc) : Length.Statement (.xct ac) := rfl
theorem Length.hlv (ac : Acc) : Length.Statement (.hlv ac) := rfl
theorem Length.iori (ac : Acc) (imm : Word) : Length.Statement (.iori ac imm) := rfl
theorem Length.xori (ac : Acc) (imm : Word) : Length.Statement (.xori ac imm) := rfl
theorem Length.andi (ac : Acc) (imm : Word) : Length.Statement (.andi ac imm) := rfl
theorem Length.addi (ac : Acc) (imm : Word) : Length.Statement (.addi ac imm) := rfl
theorem Length.pshr : Length.Statement .pshr := rfl
theorem Length.popb : Length.Statement .popb := rfl
theorem Length.bam : Length.Statement .bam := rfl
theorem Length.popj : Length.Statement .popj := rfl
theorem Length.rtn : Length.Statement .rtn := rfl
theorem Length.blm : Length.Statement .blm := rfl
theorem Length.divx : Length.Statement .divx := rfl
theorem Length.mul : Length.Statement .mul := rfl
theorem Length.muls : Length.Statement .muls := rfl
theorem Length.div : Length.Statement .div := rfl
theorem Length.divs : Length.Statement .divs := rfl
theorem Length.rstr : Length.Statement .rstr := rfl
theorem Length.save (frame : Word) : Length.Statement (.save frame) := rfl
theorem Length.lmp200 : Length.Statement .lmp200 := rfl
theorem Length.lmp230 : Length.Statement .lmp230 := rfl
theorem Length.xop (acs acd : Acc) (op : BitVec 5) : Length.Statement (.xop acs acd op) := rfl
theorem Length.xop1 (acs acd : Acc) (entry : BitVec 4) : Length.Statement (.xop1 acs acd entry) := rfl
theorem Length.fas (facs facd : Acc) : Length.Statement (.fas facs facd) := rfl
theorem Length.fad (facs facd : Acc) : Length.Statement (.fad facs facd) := rfl
theorem Length.fss (facs facd : Acc) : Length.Statement (.fss facs facd) := rfl
theorem Length.fsd (facs facd : Acc) : Length.Statement (.fsd facs facd) := rfl
theorem Length.fms (facs facd : Acc) : Length.Statement (.fms facs facd) := rfl
theorem Length.fmd (facs facd : Acc) : Length.Statement (.fmd facs facd) := rfl
theorem Length.fds (facs facd : Acc) : Length.Statement (.fds facs facd) := rfl
theorem Length.fdd (facs facd : Acc) : Length.Statement (.fdd facs facd) := rfl
theorem Length.fcmp (facs facd : Acc) : Length.Statement (.fcmp facs facd) := rfl
theorem Length.fmov (facs facd : Acc) : Length.Statement (.fmov facs facd) := rfl
theorem Length.fams (fpac : Acc) (m : ExtMem) : Length.Statement (.fams fpac m) := rfl
theorem Length.famd (fpac : Acc) (m : ExtMem) : Length.Statement (.famd fpac m) := rfl
theorem Length.fsms (fpac : Acc) (m : ExtMem) : Length.Statement (.fsms fpac m) := rfl
theorem Length.fsmd (fpac : Acc) (m : ExtMem) : Length.Statement (.fsmd fpac m) := rfl
theorem Length.fmms (fpac : Acc) (m : ExtMem) : Length.Statement (.fmms fpac m) := rfl
theorem Length.fmmd (fpac : Acc) (m : ExtMem) : Length.Statement (.fmmd fpac m) := rfl
theorem Length.fdms (fpac : Acc) (m : ExtMem) : Length.Statement (.fdms fpac m) := rfl
theorem Length.fdmd (fpac : Acc) (m : ExtMem) : Length.Statement (.fdmd fpac m) := rfl
theorem Length.flds (fpac : Acc) (m : ExtMem) : Length.Statement (.flds fpac m) := rfl
theorem Length.fldd (fpac : Acc) (m : ExtMem) : Length.Statement (.fldd fpac m) := rfl
theorem Length.fsts (fpac : Acc) (m : ExtMem) : Length.Statement (.fsts fpac m) := rfl
theorem Length.fstd (fpac : Acc) (m : ExtMem) : Length.Statement (.fstd fpac m) := rfl
theorem Length.flmd (fpac : Acc) (m : ExtMem) : Length.Statement (.flmd fpac m) := rfl
theorem Length.ffmd (fpac : Acc) (m : ExtMem) : Length.Statement (.ffmd fpac m) := rfl
theorem Length.flas (ac fpac : Acc) : Length.Statement (.flas ac fpac) := rfl
theorem Length.ffas (ac fpac : Acc) : Length.Statement (.ffas ac fpac) := rfl
theorem Length.fnom (fpac : Acc) : Length.Statement (.fnom fpac) := rfl
theorem Length.frh (fpac : Acc) : Length.Statement (.frh fpac) := rfl
theorem Length.fab (fpac : Acc) : Length.Statement (.fab fpac) := rfl
theorem Length.fneg (fpac : Acc) : Length.Statement (.fneg fpac) := rfl
theorem Length.fscal (fpac : Acc) : Length.Statement (.fscal fpac) := rfl
theorem Length.fexp (fpac : Acc) : Length.Statement (.fexp fpac) := rfl
theorem Length.fint (fpac : Acc) : Length.Statement (.fint fpac) := rfl
theorem Length.fhlv (fpac : Acc) : Length.Statement (.fhlv fpac) := rfl
theorem Length.fsst (m : ExtMem) : Length.Statement (.fsst m) := rfl
theorem Length.flst (m : ExtMem) : Length.Statement (.flst m) := rfl
theorem Length.fte : Length.Statement .fte := rfl
theorem Length.ftd : Length.Statement .ftd := rfl
theorem Length.fcle : Length.Statement .fcle := rfl
theorem Length.fpsh : Length.Statement .fpsh := rfl
theorem Length.fpop : Length.Statement .fpop := rfl
theorem Length.fns : Length.Statement .fns := rfl
theorem Length.fsa : Length.Statement .fsa := rfl
theorem Length.fseq : Length.Statement .fseq := rfl
theorem Length.fsne : Length.Statement .fsne := rfl
theorem Length.fslt : Length.Statement .fslt := rfl
theorem Length.fsge : Length.Statement .fsge := rfl
theorem Length.fsle : Length.Statement .fsle := rfl
theorem Length.fsgt : Length.Statement .fsgt := rfl
theorem Length.fsnm : Length.Statement .fsnm := rfl
theorem Length.fsnd : Length.Statement .fsnd := rfl
theorem Length.fsnu : Length.Statement .fsnu := rfl
theorem Length.fsnud : Length.Statement .fsnud := rfl
theorem Length.fsno : Length.Statement .fsno := rfl
theorem Length.fsnod : Length.Statement .fsnod := rfl
theorem Length.fsnuo : Length.Statement .fsnuo := rfl
theorem Length.fsner : Length.Statement .fsner := rfl
theorem Length.ldi (fpac : Acc) : Length.Statement (.ldi fpac) := rfl
theorem Length.sti (fpac : Acc) : Length.Statement (.sti fpac) := rfl
theorem Length.ldix : Length.Statement .ldix := rfl
theorem Length.stix : Length.Statement .stix := rfl
theorem Length.cmv : Length.Statement .cmv := rfl
theorem Length.cmp : Length.Statement .cmp := rfl
theorem Length.ctr : Length.Statement .ctr := rfl
theorem Length.cmt : Length.Statement .cmt := rfl
theorem Length.edit : Length.Statement .edit := rfl
theorem Length.lsn : Length.Statement .lsn := rfl
theorem Length.nio (ac : Acc) (f : IoF) (dev : BitVec 6) : Length.Statement (.nio ac f dev) := rfl
theorem Length.dia (ac : Acc) (f : IoF) (dev : BitVec 6) : Length.Statement (.dia ac f dev) := rfl
theorem Length.doa (ac : Acc) (f : IoF) (dev : BitVec 6) : Length.Statement (.doa ac f dev) := rfl
theorem Length.dib (ac : Acc) (f : IoF) (dev : BitVec 6) : Length.Statement (.dib ac f dev) := rfl
theorem Length.dob (ac : Acc) (f : IoF) (dev : BitVec 6) : Length.Statement (.dob ac f dev) := rfl
theorem Length.dic (ac : Acc) (f : IoF) (dev : BitVec 6) : Length.Statement (.dic ac f dev) := rfl
theorem Length.doc (ac : Acc) (f : IoF) (dev : BitVec 6) : Length.Statement (.doc ac f dev) := rfl
theorem Length.skp (ac : Acc) (t : IoTest) (dev : BitVec 6) : Length.Statement (.skp ac t dev) := rfl
theorem Length.inten : Length.Statement .inten := rfl
theorem Length.intds : Length.Statement .intds := rfl
theorem Length.reads (ac : Acc) (f : IoF) : Length.Statement (.reads ac f) := rfl
theorem Length.inta (ac : Acc) (f : IoF) : Length.Statement (.inta ac f) := rfl
theorem Length.msko (ac : Acc) (f : IoF) : Length.Statement (.msko ac f) := rfl
theorem Length.iorst (ac : Acc) (f : IoF) : Length.Statement (.iorst ac f) := rfl
theorem Length.halt (ac : Acc) (f : IoF) : Length.Statement (.halt ac f) := rfl
theorem Length.skpCpu (t : IoTest) : Length.Statement (.skpCpu t) := rfl
theorem Length.vct (change : Bool) (table : Addr) : Length.Statement (.vct change table) := rfl
theorem Length.doaMap200 (ac : Acc) : Length.Statement (.doaMap200 ac) := rfl
theorem Length.doaMap230 (ac : Acc) : Length.Statement (.doaMap230 ac) := rfl
theorem Length.dobMap200 (ac : Acc) : Length.Statement (.dobMap200 ac) := rfl
theorem Length.dobMap230 (ac : Acc) : Length.Statement (.dobMap230 ac) := rfl
theorem Length.docMap200 (ac : Acc) : Length.Statement (.docMap200 ac) := rfl
theorem Length.docMap230 (ac : Acc) : Length.Statement (.docMap230 ac) := rfl
theorem Length.diaMap200 (ac : Acc) : Length.Statement (.diaMap200 ac) := rfl
theorem Length.diaMap230 (ac : Acc) : Length.Statement (.diaMap230 ac) := rfl
theorem Length.dicMap200 (ac : Acc) : Length.Statement (.dicMap200 ac) := rfl
theorem Length.dicMap230 (ac : Acc) : Length.Statement (.dicMap230 ac) := rfl
theorem Length.niopMap200 : Length.Statement .niopMap200 := rfl
theorem Length.niopMap230 : Length.Statement .niopMap230 := rfl
theorem Length.doaWcs (ac : Acc) : Length.Statement (.doaWcs ac) := rfl
theorem Length.dobWcs (ac : Acc) : Length.Statement (.dobWcs ac) := rfl
theorem Length.docWcs (ac : Acc) : Length.Statement (.docWcs ac) := rfl
theorem Length.doaErcc (ac : Acc) (f : IoF) : Length.Statement (.doaErcc ac f) := rfl
theorem Length.diaErcc (ac : Acc) (f : IoF) : Length.Statement (.diaErcc ac f) := rfl
theorem Length.dibErcc (ac : Acc) (f : IoF) : Length.Statement (.dibErcc ac f) := rfl
theorem Length.doaRtc (ac : Acc) (f : IoF) : Length.Statement (.doaRtc ac f) := rfl

end Sys2Proof.Laws
end

