-- ==== Sys2Proof/Laws/Step.lean ====
section
/-! SUPPORT. The shared operations around an instruction: the words of an instruction, chains with auto-index updates, a MAP
SINGLE CYCLE, the end of an instruction. -/

namespace Sys2Proof.Machine

open Host (Outcome)

/-! ### The words of an instruction (30_encoding.md R100) -/

/-- In a quiet state a first word and the word after PC, where it is needed, are the instruction they decode to. -/
theorem instructionOf_quiet {s : State} (h : s.quiet = true) {w w2 : Word} {i : Instr}
    (h2 : if s.needsSecond w then s.readable (s.pc + 1) = true ∧ w2 = s.look (s.pc + 1) else w2 = 0)
    (hd : decode s.decodeCtx w w2 = .ok i) : instructionOf w s = .ok i s := by
  simp only [instructionOf, Exec.bind_apply, Exec.get_apply, Exec.ite_apply]
  by_cases hn : s.needsSecond w = true
  · simp only [hn, if_true] at h2 ⊢
    obtain ⟨hr, rfl⟩ := h2
    simp only [memRead_quiet h hr, hd]
    rfl
  · simp only [hn] at h2 ⊢
    subst h2
    simp only [Bool.false_eq_true, if_false, Exec.pure_apply]
    rw [hd]
    rfl

/-- The indirect bit is the leftmost (20_memory.md R76). -/
theorem isIndirect_eq_msb (w : Word) : isIndirect w = w.msb := by
  unfold isIndirect fld
  rw [BitVec.msb_eq_getLsbD_last]
  generalize hb : w.getLsbD 15 = b
  cases b <;> simp_all [BitVec.eq_of_getLsbD_eq_iff]

theorem addrOf_eq_setWidth (w : Word) : addrOf w = w.setWidth 15 := by
  unfold addrOf fld
  simp [BitVec.setWidth_eq_extractLsb']

/-! ### Chains with auto-index updates (20_memory.md R77) -/

/-- What the chains need of a bus in calm states. -/
structure Bus.Calm (b : Bus) (P : State → Prop) : Prop where
  calm : ∀ s, P s → s.calm = true
  put : ∀ s a v, P s → P (s.put a v)
  read : ∀ s a, P s → b.read false a s = .ok (s.look a) s
  write : ∀ s a v, P s → b.write a v s = .ok () (s.put a v)
  guard : ∀ s k, P s → b.guard k s = .ok () s
  after : ∀ s, P s → b.after s = .ok () s

theorem chainLevel_calm {b : Bus} {P : State → Prop} (hb : b.Calm P) {s : State} (hs : P s) (a : Addr) :
    chainLevel b true false a s = .ok
      (if 16 ≤ a.toNat ∧ a.toNat ≤ 23 then s.look a + 1 else if 24 ≤ a.toNat ∧ a.toNat ≤ 31 then s.look a - 1
        else s.look a, isIndirect (s.look a))
      (if 16 ≤ a.toNat ∧ a.toNat ≤ 31 then s.put a
        (if 16 ≤ a.toNat ∧ a.toNat ≤ 23 then s.look a + 1 else if 24 ≤ a.toNat ∧ a.toNat ≤ 31 then s.look a - 1
          else s.look a) else s) := by
  simp only [chainLevel, Exec.bind_apply, hb.read s a hs, autoUpdate]
  by_cases h1 : 16 ≤ a.toNat ∧ a.toNat ≤ 23
  · have h2 : 16 ≤ a.toNat ∧ a.toNat ≤ 31 := ⟨h1.1, by omega⟩
    simp [h1, h2, hb.write s a _ hs]
  · by_cases h2 : 24 ≤ a.toNat ∧ a.toNat ≤ 31
    · have h3 : 16 ≤ a.toNat ∧ a.toNat ≤ 31 := ⟨by omega, h2.2⟩
      have h4 : ¬a.toNat ≤ 23 := by omega
      simp [h2, h3, h4, hb.write s a _ hs]
    · have h3 : ¬(16 ≤ a.toNat ∧ a.toNat ≤ 31) := by omega
      simp [h1, h2, h3]

/-- A chain of the short class or of an interrupt in a calm state goes where `State.followAuto` says. -/
theorem chase_auto_calm {b : Bus} {P : State → Prop} (hb : b.Calm P) (n : Nat) :
    ∀ (s : State) (k : Nat) (a : Addr), P s →
      match State.followAuto n s a with
      | some (e, t) => chase b true n k false a s = .ok e t
      | none => ∃ t, chase b true n k false a s = .error .stuck t := by
  induction n with
  | zero => intro s k a _; exact ⟨s, rfl⟩
  | succ n ih =>
    intro s k a hs
    have ht : P (if 16 ≤ a.toNat ∧ a.toNat ≤ 31 then s.put a
        (if 16 ≤ a.toNat ∧ a.toNat ≤ 23 then s.look a + 1 else if 24 ≤ a.toNat ∧ a.toNat ≤ 31 then s.look a - 1
          else s.look a) else s) := by
      split
      · exact hb.put s a _ hs
      · exact hs
    simp only [State.followAuto, chase, Exec.bind_apply, hb.guard s k hs, chainLevel_calm hb hs, hb.after _ ht]
    rw [isIndirect_eq_msb]
    cases (s.look a).msb with
    | false => simp [addrOf_eq_setWidth]
    | true => simpa [addrOf_eq_setWidth] using ih _ (k + 1) _ ht

theorem State.followAuto_mono {e : Addr} {x : State} : ∀ (n m : Nat) (s : State) (a : Addr), n ≤ m →
    State.followAuto n s a = some (e, x) → State.followAuto m s a = some (e, x)
  | 0, _, _, _, _, h => by simp [State.followAuto] at h
  | n + 1, 0, _, _, hle, _ => absurd hle (by omega)
  | n + 1, m + 1, s, a, hle, h => by
    simp only [State.followAuto] at h ⊢
    split at h
    · rename_i hi
      rw [if_pos hi]
      exact State.followAuto_mono n m _ _ (by omega) h
    · rename_i hi
      rw [if_neg hi]
      exact h

/-- The references of the interrupt sequence in calm states. -/
theorem supBus_calm : supBus.Calm fun s => s.calm = true where
  calm := fun _ h => h
  put := fun s a v h => (State.put_calm s a v).trans h
  read := fun _ a h => supRead_calm h a
  write := fun _ a v h => supWrite_calm h a v
  guard := fun _ _ _ => rfl
  after := fun _ _ => rfl

/-- The references of an effective address calculation in calm states with no user enable pending. -/
theorem eaBus_calm : eaBus.Calm fun s => s.calm = true ∧ s.map.enablePending = none where
  calm := fun _ h => h.1
  put := fun s a v h => by
    refine ⟨(State.put_calm s a v).trans h.1, ?_⟩
    rw [State.put_eq]
    exact h.2
  read := fun _ a h => readBus_quiet (State.quiet_of_calm h.1) (State.readable_of_calm h.1 a)
  write := fun _ a v h => memWrite_calm h.1 a v
  guard := fun s k h => by simp [eaBus, indirectGuard, ((State.calm_iff s).1 h.1).2]
  after := fun _ h => enablePendingUser_none h.2

/-! ### The interrupt (60_exceptions.md R575) -/

/-- The state of the interrupt before its store. -/
theorem State.leftForInterrupt_calm {s : State} (h : s.quiet = true) :
    ((s.setIon false).setMap (if s.hasMap then { s.map with umodeInt := s.map.userEn, userEn := false } else s.map)).calm
      = true := by
  rw [State.calm_iff]
  refine ⟨h, ?_⟩
  by_cases hm : s.cfg.mapKind = .none <;> simp [State.userMode, State.hasMap, hm]

theorem State.interrupted_eq (s : State) : s.interrupted = ((s.setIon false).setMap
    (if s.hasMap then { s.map with umodeInt := s.map.userEn, userEn := false } else s.map)).put 0 (wordOfAddr s.pc) := by
  unfold State.interrupted
  split <;> rfl

theorem State.interrupted_calm {s : State} (h : s.quiet = true) : s.interrupted.calm = true := by
  rw [State.interrupted_eq, State.put_calm]
  exact State.leftForInterrupt_calm h

/-- An interrupt taken in a quiet state: the chain from location 1 decides where it goes. -/
theorem takeInterrupt_quiet {s : State} (h : s.quiet = true) : takeInterrupt s =
    match chase supBus true chainFuel 0 false 1 s.interrupted with
    | .ok e t => .ok () (t.setPc e)
    | .error r t => .error r t := by
  simp only [takeInterrupt, Exec.bind_apply, Exec.get_apply, Exec.set_apply, Exec.modify_apply,
    supWrite_calm (State.leftForInterrupt_calm h), State.interrupted_eq]
  generalize chase supBus true chainFuel 0 false 1 _ = o
  cases o <;> rfl

/-! ### RESET and power (70_reset_and_hazards.md R606, R604) -/

/-- What an I/O RESET leaves (10_state.md R45). -/
theorem ioReset_apply (s : State) : ∃ t, ioReset s = .ok () t ∧ t.mask = 0 ∧ t.map.userEn = false ∧ t.map.dchEn = false
    ∧ t.mem = s.mem ∧ t.cfg = s.cfg ∧ t.console = s.console ∧ t.dchQueue = s.dchQueue ∧ t.cut = s.cut ∧ t.endless = s.endless
    ∧ t.carry = s.carry ∧ ∀ n, t.ac n = s.ac n ∧ t.fpac n = s.fpac n := by
  simp only [ioReset, Exec.bind_apply, freshWord_apply, Exec.modify_apply]
  refine ⟨_, rfl, ?_⟩
  simp [MapUnit.ioReset]

/-- An endless instruction abandoned: PC is any value, the accumulators and memory stay (R601, U13). -/
theorem abandonEndless_apply (s : State) : ∃ t, abandonEndless s = .ok () t ∧ t.endless = .none ∧ t.mem = s.mem ∧ t.cfg = s.cfg
    ∧ t.dchQueue = s.dchQueue ∧ t.cut = s.cut ∧ t.carry = s.carry ∧ t.console = s.console
    ∧ ∀ n, t.ac n = s.ac n ∧ t.fpac n = s.fpac n := by
  simp only [abandonEndless, Exec.bind_apply, Exec.get_apply, Exec.ite_apply]
  by_cases h : s.endless = .none
  · exact ⟨s, by simp [h], h, by simp⟩
  · simp only [h, if_false, abandonPc, Exec.bind_apply, freshWord_apply, Exec.modify_apply]
    exact ⟨_, rfl, by simp⟩

/-- What RESET leaves: a stopped processor out of user mode, interrupts off; memory and the accumulators stay. -/
theorem resetFunction_apply (s : State) : ∃ t, resetFunction s = .ok () t ∧ t.mask = 0 ∧ t.map.userEn = false
    ∧ t.ion = false ∧ t.run = false ∧ t.endless = .none ∧ t.mem = s.mem ∧ t.cfg = s.cfg ∧ t.dchQueue = s.dchQueue
    ∧ t.cut = s.cut ∧ t.carry = s.carry ∧ (∀ n, t.ac n = s.ac n ∧ t.fpac n = s.fpac n)
    ∧ t.console = { s.console with stopPending := false, oneShot := .none, resetInside := false } := by
  obtain ⟨u, hu, hk⟩ := abandonEndless_apply s
  obtain ⟨t, ht, h1⟩ := ioReset_apply u
  simp only [resetFunction, Exec.bind_apply, hu, ht, freshWord_apply, Exec.modify_apply]
  refine ⟨_, rfl, ?_⟩
  simp [h1, hk]

/-- What power-up leaves: as RESET, the registers and the maps any value. -/
theorem powerUp_apply (s : State) : ∃ t, powerUp s = .ok () t ∧ t.mask = 0 ∧ t.map.userEn = false
    ∧ t.ion = false ∧ t.run = false ∧ t.endless = .none ∧ t.mem = s.mem ∧ t.cfg = s.cfg ∧ t.dchQueue = s.dchQueue
    ∧ t.console.power = s.console.power := by
  obtain ⟨t, ht, h⟩ := resetFunction_apply s
  simp only [powerUp, Exec.bind_apply, ht, freshWord_apply, freshQuad_apply, Exec.modify_apply]
  refine ⟨_, rfl, ?_⟩
  simp [h]

/-- What a RESET inside an instruction leaves (70_reset_and_hazards.md R601): `m` is the state with the instruction's writes up
to the moments they were made. -/
theorem abandonStep_next {ex : Instr → State → Outcome State Fault Refusal} {s t : State}
    (ht : wholeStep ex (((s.setConsole { s.console with resetInside := false }).setDchQueue []).setCut
      (some (momentAt s.free 0))) = .next t) (hc : t.console.suspended = false) :
    let u := (s.setConsole { s.console with resetInside := false }).setDchQueue []
    let m := mixed s.free fun n => nextOr u (wholeStep ex (u.setCut (some n)))
    ∃ v, abandonStep ex s = .next v ∧ v.console.suspended = false ∧ v.mask = 0 ∧ v.map.userEn = false ∧ v.ion = false
      ∧ v.run = false ∧ v.endless = .none ∧ v.mem = m.mem ∧ v.cfg = m.cfg ∧ v.dchQueue = s.dchQueue ∧ v.cut = none
      ∧ v.carry = m.carry ∧ ∀ n, v.ac n = m.ac n ∧ v.fpac n = m.fpac n := by
  intro u m
  have hm : m.console = t.console := by
    show (nextOr u (wholeStep ex (u.setCut (some (momentAt s.free 0))))).console = _
    rw [ht]
    rfl
  obtain ⟨v, hv, h⟩ := resetFunction_apply ((m.setFree (m.free + 1)).setPc (addrOf (Config.freeWord m.free)))
  refine ⟨v.setDchQueue s.dchQueue, ?_, ?_⟩
  · simp only [abandonStep]
    rw [show (((s.setConsole { s.console with resetInside := false }).setDchQueue []).free) = s.free from rfl, ht]
    simp only [hc, Bool.false_eq_true, if_false]
    simp only [State.after, abandonPc, Exec.bind_apply, freshWord_apply, Exec.modify_apply]
    rw [show resetFunction _ = _ from hv]
  · simp [h, hm, hc]
    rfl

end Sys2Proof.Machine
end

