-- ==== Sys2Proof/Tests/Slice0.lean ====
section
/-! SUPPORT. Tests: the smoke tests of WellFormed, one word decoded for every constructor (written from the encodings
of 30_encoding.md), a state that meets the hypotheses of every statement, single steps of the spec's examples. -/

namespace Sys2Proof.Tests

open Sys2Proof Sys2Proof.Machine

-- One theorem at a time: each waits for the kernel, and every waiting one holds a thread's stack.
set_option Elab.async false

/-! ### Contexts and states -/

/-- The S/230 or C/330 outside LEF mode. -/
def c230 : DecodeCtx := { mapKind := .map230, lef := false }

/-- The S/200 or C/300 outside LEF mode. -/
def c200 : DecodeCtx := { mapKind := .map200, lef := false }

/-- A user in LEF mode. -/
def cLef : DecodeCtx := { mapKind := .map230, lef := true }

/-- A machine without a MAP. -/
def cPlain : DecodeCtx := { mapKind := .none, lef := false }

/-! ### The smoke tests of WellFormed: an ill-formed term for each check, refused -/

theorem test_wf_alu :
    let f : Alu := { acs := .a0, acd := .a1, shift := .keep, carry := .keep, noLoad := true, skip := .never };
    (Instr.com f).wf c230 = false ∧ (Instr.neg f).wf c230 = false ∧ (Instr.mov f).wf c230 = false
    ∧ (Instr.inc f).wf c230 = false ∧ (Instr.adc f).wf c230 = false ∧ (Instr.sub f).wf c230 = false
    ∧ (Instr.add f).wf c230 = false ∧ (Instr.and f).wf c230 = false := by decide

theorem test_wf_variant :
    (Instr.lef .a0 { ind := false, index := .absolute, disp := 0 }).wf c230 = false
    ∧ Instr.lmp200.wf c230 = false ∧ Instr.lmp230.wf c200 = false ∧ Instr.lmp230.wf cPlain = false
    ∧ (Instr.doaMap200 .a0).wf c230 = false ∧ (Instr.doaMap230 .a0).wf c200 = false ∧ Instr.niopMap200.wf c230 = false
    ∧ Instr.niopMap230.wf cLef = false ∧ (Instr.dicMap230 .a0).wf cPlain = false := by decide

theorem test_wf_owned_words :
    (Instr.nio .a0 .start 0o77).wf c230 = false ∧ (Instr.nio .a0 .clear 0o77).wf c230 = false
    ∧ (Instr.nio .a0 .pulse 3).wf c230 = false ∧ (Instr.dia .a0 .none 0o77).wf c230 = false
    ∧ (Instr.dia .a0 .none 3).wf c230 = false ∧ (Instr.dia .a0 .none 2).wf c230 = false
    ∧ (Instr.doa .a0 .none 1).wf c230 = false ∧ (Instr.doa .a0 .none 0o14).wf c230 = false
    ∧ (Instr.dib .a0 .none 2).wf c230 = false ∧ (Instr.dob .a0 .none 1).wf c230 = false
    ∧ (Instr.dic .a0 .none 3).wf c230 = false ∧ (Instr.doc .a0 .none 1).wf c230 = false
    ∧ (Instr.skp .a0 .bn 0o77).wf c230 = false ∧ (Instr.inta .a0 .pulse).wf c230 = false := by decide

theorem test_wf_lef_mode :
    (Instr.nio .a0 .none 0o10).wf cLef = false ∧ Instr.inten.wf cLef = false ∧ (Instr.vct true 0).wf cLef = false
    ∧ (Instr.doaRtc .a0 .none).wf cLef = false ∧ (Instr.doaWcs .a0).wf cLef = false := by decide

/-! ### One word of every row of the opcode table, written out from its encoding there -/

theorem test_decode_alc :
    decode c230 0b1001100010011100 0 =
        .ok (.com { acs := .a0, acd := .a3, shift := .right, carry := .zero, noLoad := true, skip := .szr })
    ∧ decode c230 0b1100100100110111 0 =
        .ok (.neg { acs := .a2, acd := .a1, shift := .keep, carry := .complement, noLoad := false, skip := .sbn })
    ∧ decode c230 0b1111001001001010 0 =
        .ok (.mov { acs := .a3, acd := .a2, shift := .left, carry := .keep, noLoad := true, skip := .szc })
    ∧ decode c230 0b1010001111100101 0 =
        .ok (.inc { acs := .a1, acd := .a0, shift := .swap, carry := .one, noLoad := false, skip := .snr })
    ∧ decode c230 0b1100110000111101 0 =
        .ok (.adc { acs := .a2, acd := .a1, shift := .keep, carry := .complement, noLoad := true, skip := .snr })
    ∧ decode c230 0b1001110110010011 0 =
        .ok (.sub { acs := .a0, acd := .a3, shift := .right, carry := .zero, noLoad := false, skip := .snc })
    ∧ decode c230 0b1010011011101110 0 =
        .ok (.add { acs := .a1, acd := .a0, shift := .swap, carry := .one, noLoad := true, skip := .sez })
    ∧ decode c230 0b1111011101000001 0 =
        .ok (.and { acs := .a3, acd := .a2, shift := .left, carry := .keep, noLoad := false, skip := .always }) := by decide

theorem test_decode_mr_short :
    decode c230 0b0000000101000010 0 = .ok (.jmp { ind := false, index := .relative, disp := 66 })
    ∧ decode c230 0b0000101001001000 0 = .ok (.jsr { ind := false, index := .ac2, disp := 72 })
    ∧ decode c230 0b0001011101001101 0 = .ok (.isz { ind := true, index := .ac3, disp := 77 })
    ∧ decode c230 0b0001110001010011 0 = .ok (.dsz { ind := true, index := .absolute, disp := 83 })
    ∧ decode c230 0b0011010101011111 0 = .ok (.lda .a2 { ind := true, index := .relative, disp := 95 })
    ∧ decode c230 0b0100011001100101 0 = .ok (.sta .a0 { ind := true, index := .ac2, disp := 101 }) := by decide

theorem test_decode_mr_short_lef_mode :
    decode cLef 0b0110101101101010 0 = .ok (.lef .a1 { ind := false, index := .ac3, disp := 106 }) := by decide

theorem test_decode_mr_ext :
    decode c230 0b1000010000111000 0b0101010110100011 =
        .ok (.ejmp { index := .absolute, ind := false, disp := 0o52643 })
    ∧ decode c230 0b1000110100111000 0b1101101011110000 =
        .ok (.ejsr { index := .relative, ind := true, disp := 0o55360 })
    ∧ decode c230 0b1001011000111000 0b0110000000111101 =
        .ok (.eisz { index := .ac2, ind := false, disp := 0o60075 })
    ∧ decode c230 0b1001111100111000 0b1110010110001010 = .ok (.edsz { index := .ac3, ind := true, disp := 0o62612 })
    ∧ decode c230 0b1010110000111000 0b0110101011010111 =
        .ok (.elda .a1 { index := .absolute, ind := false, disp := 0o65327 })
    ∧ decode c230 0b1101010100111000 0b1111000000100100 =
        .ok (.esta .a2 { index := .relative, ind := true, disp := 0o70044 })
    ∧ decode c230 0b1110011000111000 0b0111010101110001 =
        .ok (.elef .a0 { index := .ac2, ind := false, disp := 0o72561 })
    ∧ decode c230 0b1100010101111000 0b1000010101011000 =
        .ok (.dspa .a0 { index := .relative, ind := true, disp := 0o2530 })
    ∧ decode c230 0b1000011010111000 0b0000101010100101 = .ok (.pshj { index := .ac2, ind := false, disp := 0o5245 }) := by decide

theorem test_decode_mr_ext_byte :
    decode c230 0b1000111101111000 0b1000111111010001 = .ok (.eldb .a1 .ac3 0o107721)
    ∧ decode c230 0b1011110001111000 0b1001101001101000 = .ok (.estb .a3 .absolute 0o115150) := by decide

theorem test_decode_2ac_imm :
    decode c230 0b1111000000001000 0 = .ok (.adi 3 .a2)
    ∧ decode c230 0b1010000001001000 0 = .ok (.sbi 1 .a0)
    ∧ decode c230 0b1010001100001000 0 = .ok (.hxl 1 .a0)
    ∧ decode c230 0b1111001101001000 0 = .ok (.hxr 3 .a2)
    ∧ decode c230 0b1001101110001000 0 = .ok (.dhxl 0 .a3)
    ∧ decode c230 0b1100101111001000 0 = .ok (.dhxr 2 .a1) := by decide

theorem test_decode_2ac_1 :
    decode c230 0b1100100010001000 0 = .ok (.dad .a2 .a1)
    ∧ decode c230 0b1001100011001000 0 = .ok (.dsb .a0 .a3)
    ∧ decode c230 0b1010000100001000 0 = .ok (.ior .a1 .a0)
    ∧ decode c230 0b1111000101001000 0 = .ok (.xor .a3 .a2)
    ∧ decode c230 0b1001100110001000 0 = .ok (.anc .a0 .a3)
    ∧ decode c230 0b1100100111001000 0 = .ok (.xch .a2 .a1)
    ∧ decode c230 0b1111001000001000 0 = .ok (.sgt .a3 .a2)
    ∧ decode c230 0b1010001001001000 0 = .ok (.sge .a1 .a0)
    ∧ decode c230 0b1100101010001000 0 = .ok (.lsh .a2 .a1)
    ∧ decode c230 0b1001101011001000 0 = .ok (.dlsh .a0 .a3)
    ∧ decode c230 0b1111010000001000 0 = .ok (.bto .a3 .a2)
    ∧ decode c230 0b1010010001001000 0 = .ok (.btz .a1 .a0)
    ∧ decode c230 0b1100110010001000 0 = .ok (.szb .a2 .a1)
    ∧ decode c230 0b1001110011001000 0 = .ok (.szbo .a0 .a3)
    ∧ decode c230 0b1010010100001000 0 = .ok (.lob .a1 .a0)
    ∧ decode c230 0b1111010101001000 0 = .ok (.lrb .a3 .a2) := by decide

theorem test_decode_2ac_2 :
    decode c230 0b1001110110001000 0 = .ok (.cob .a0 .a3)
    ∧ decode c230 0b1100110111001000 0 = .ok (.ldb .a2 .a1)
    ∧ decode c230 0b1111011000001000 0 = .ok (.stb .a3 .a2)
    ∧ decode c230 0b1010011001001000 0 = .ok (.psh .a1 .a0)
    ∧ decode c230 0b1100111010001000 0 = .ok (.pop .a2 .a1)
    ∧ decode c230 0b1001111101001000 0 = .ok (.syc .a0 .a3)
    ∧ decode c230 0b1010010011111000 0 = .ok (.clm .a1 .a0)
    ∧ decode c230 0b1111010111111000 0 = .ok (.snb .a3 .a2) := by decide

theorem test_decode_1ac :
    decode c230 0b1000011011111000 0 = .ok (.msp .a0)
    ∧ decode c230 0b1011011011111000 0 = .ok (.xct .a2)
    ∧ decode c230 0b1101111011111000 0 = .ok (.hlv .a3) := by decide

theorem test_decode_1ac_imm16 :
    decode c230 0b1000111111111000 0b0001011110100100 = .ok (.iori .a1 0o13644)
    ∧ decode c230 0b1011011111111000 0b0010001000111011 = .ok (.xori .a2 0o21073)
    ∧ decode c230 0b1100011111111000 0b0010110011010010 = .ok (.andi .a0 0o26322)
    ∧ decode c230 0b1110111111111000 0b0011011101101001 = .ok (.addi .a1 0o33551) := by decide

theorem test_decode_no_operand :
    decode c230 0b1000011111001000 0 = .ok .pshr
    ∧ decode c230 0b1000111111001000 0 = .ok .popb
    ∧ decode c230 0b1001011111001000 0 = .ok .bam
    ∧ decode c230 0b1001111111001000 0 = .ok .popj
    ∧ decode c230 0b1010111111001000 0 = .ok .rtn
    ∧ decode c230 0b1011011111001000 0 = .ok .blm
    ∧ decode c230 0b1011111111001000 0 = .ok .divx
    ∧ decode c230 0b1100011111001000 0 = .ok .mul
    ∧ decode c230 0b1100111111001000 0 = .ok .muls
    ∧ decode c230 0b1101011111001000 0 = .ok .div
    ∧ decode c230 0b1101111111001000 0 = .ok .divs
    ∧ decode c230 0b1110011111001000 0b1011011001111101 = .ok (.save 0o133175)
    ∧ decode c230 0b1110111111001000 0 = .ok .rstr
    ∧ decode c200 0b1001011100001000 0 = .ok .lmp200
    ∧ decode c230 0b1001011100001000 0 = .ok .lmp230 := by decide

theorem test_decode_xop :
    decode c230 0b1001111110011000 0 = .ok (.xop .a0 .a3 30)
    ∧ decode c230 0b1010000011111000 0 = .ok (.xop1 .a1 .a0 3) := by decide

theorem test_decode_fp_2ac :
    decode c230 0b1111000000101000 0 = .ok (.fas .a3 .a2)
    ∧ decode c230 0b1001100001101000 0 = .ok (.fad .a0 .a3)
    ∧ decode c230 0b1100100010101000 0 = .ok (.fss .a2 .a1)
    ∧ decode c230 0b1111000011101000 0 = .ok (.fsd .a3 .a2)
    ∧ decode c230 0b1010000100101000 0 = .ok (.fms .a1 .a0)
    ∧ decode c230 0b1100100101101000 0 = .ok (.fmd .a2 .a1)
    ∧ decode c230 0b1001100110101000 0 = .ok (.fds .a0 .a3)
    ∧ decode c230 0b1010000111101000 0 = .ok (.fdd .a1 .a0)
    ∧ decode c230 0b1111011100101000 0 = .ok (.fcmp .a3 .a2)
    ∧ decode c230 0b1001111101101000 0 = .ok (.fmov .a0 .a3) := by decide

theorem test_decode_fp_mr :
    decode c230 0b1100101000101000 0b0101110111100101 =
        .ok (.fams .a1 { index := .ac2, ind := false, disp := 0o56745 })
    ∧ decode c230 0b1111001001101000 0b1110001100110010 =
        .ok (.famd .a2 { index := .ac3, ind := true, disp := 0o61462 })
    ∧ decode c230 0b1000001010101000 0b0110100001111111 =
        .ok (.fsms .a0 { index := .absolute, ind := false, disp := 0o64177 })
    ∧ decode c230 0b1010101011101000 0b1110110111001100 =
        .ok (.fsmd .a1 { index := .relative, ind := true, disp := 0o66714 })
    ∧ decode c230 0b1101101100101000 0b0111001100011001 =
        .ok (.fmms .a3 { index := .ac2, ind := false, disp := 0o71431 })
    ∧ decode c230 0b1110001101101000 0b1111100001100110 =
        .ok (.fmmd .a0 { index := .ac3, ind := true, disp := 0o74146 })
    ∧ decode c230 0b1001001110101000 0b0111110110110011 =
        .ok (.fdms .a2 { index := .absolute, ind := false, disp := 0o76663 })
    ∧ decode c230 0b1011101111101000 0b1000001100000000 =
        .ok (.fdmd .a3 { index := .relative, ind := true, disp := 0o1400 })
    ∧ decode c230 0b1100110000101000 0b0000100001001101 =
        .ok (.flds .a1 { index := .ac2, ind := false, disp := 0o4115 })
    ∧ decode c230 0b1111010001101000 0b1000110110011010 =
        .ok (.fldd .a2 { index := .ac3, ind := true, disp := 0o6632 })
    ∧ decode c230 0b1000010010101000 0b0001001011100111 =
        .ok (.fsts .a0 { index := .absolute, ind := false, disp := 0o11347 })
    ∧ decode c230 0b1010110011101000 0b1001100000110100 =
        .ok (.fstd .a1 { index := .relative, ind := true, disp := 0o14064 })
    ∧ decode c230 0b1101110101101000 0b0001110110000001 =
        .ok (.flmd .a3 { index := .ac2, ind := false, disp := 0o16601 })
    ∧ decode c230 0b1110010111101000 0b1010001011001110 =
        .ok (.ffmd .a0 { index := .ac3, ind := true, disp := 0o21316 }) := by decide

theorem test_decode_fp_ac :
    decode c230 0b1111010100101000 0 = .ok (.flas .a3 .a2)
    ∧ decode c230 0b1001110110101000 0 = .ok (.ffas .a0 .a3) := by decide

theorem test_decode_fp_1ac :
    decode c230 0b1001011000101000 0 = .ok (.fnom .a2)
    ∧ decode c230 0b1011111000101000 0 = .ok (.frh .a3)
    ∧ decode c230 0b1100111000101000 0 = .ok (.fab .a1)
    ∧ decode c230 0b1111011000101000 0 = .ok (.fneg .a2)
    ∧ decode c230 0b1000011001101000 0 = .ok (.fscal .a0)
    ∧ decode c230 0b1010111001101000 0 = .ok (.fexp .a1)
    ∧ decode c230 0b1101111001101000 0 = .ok (.fint .a3)
    ∧ decode c230 0b1110011001101000 0 = .ok (.fhlv .a0) := by decide

theorem test_decode_fp_mr_status :
    decode c230 0b1001011011101000 0b0101110100011101 =
        .ok (.fsst { index := .ac2, ind := false, disp := 0o56435 })
    ∧ decode c230 0b1011111011101000 0b1110001001101010 = .ok (.flst { index := .ac3, ind := true, disp := 0o61152 }) := by decide

theorem test_decode_fp_ctl :
    decode c230 0b1100011011101000 0 = .ok .fte
    ∧ decode c230 0b1100111011101000 0 = .ok .ftd
    ∧ decode c230 0b1101011011101000 0 = .ok .fcle
    ∧ decode c230 0b1110011011101000 0 = .ok .fpsh
    ∧ decode c230 0b1110111011101000 0 = .ok .fpop := by decide

theorem test_decode_fp_skip :
    decode c230 0b1000011010101000 0 = .ok .fns
    ∧ decode c230 0b1000111010101000 0 = .ok .fsa
    ∧ decode c230 0b1001011010101000 0 = .ok .fseq
    ∧ decode c230 0b1001111010101000 0 = .ok .fsne
    ∧ decode c230 0b1010011010101000 0 = .ok .fslt
    ∧ decode c230 0b1010111010101000 0 = .ok .fsge
    ∧ decode c230 0b1011011010101000 0 = .ok .fsle
    ∧ decode c230 0b1011111010101000 0 = .ok .fsgt
    ∧ decode c230 0b1100011010101000 0 = .ok .fsnm
    ∧ decode c230 0b1100111010101000 0 = .ok .fsnd
    ∧ decode c230 0b1101011010101000 0 = .ok .fsnu
    ∧ decode c230 0b1101111010101000 0 = .ok .fsnud
    ∧ decode c230 0b1110011010101000 0 = .ok .fsno
    ∧ decode c230 0b1110111010101000 0 = .ok .fsnod
    ∧ decode c230 0b1111011010101000 0 = .ok .fsnuo
    ∧ decode c230 0b1111111010101000 0 = .ok .fsner := by decide

theorem test_decode_com_fpac :
    decode c230 0b1000011110101000 0 = .ok (.ldi .a0)
    ∧ decode c230 0b1011011110101000 0 = .ok (.sti .a2) := by decide

theorem test_decode_com :
    decode c230 0b1100011110101000 0 = .ok .ldix
    ∧ decode c230 0b1100111110101000 0 = .ok .stix
    ∧ decode c230 0b1101011110101000 0 = .ok .cmv
    ∧ decode c230 0b1101111110101000 0 = .ok .cmp
    ∧ decode c230 0b1110011110101000 0 = .ok .ctr
    ∧ decode c230 0b1110111110101000 0 = .ok .cmt
    ∧ decode c230 0b1111011110101000 0 = .ok .edit
    ∧ decode c230 0b1111111110101000 0 = .ok .lsn := by decide

theorem test_decode_i_o :
    decode c230 0b0111100011010010 0 = .ok (.nio .a3 .pulse 0o22)
    ∧ decode c230 0b0110100100001010 0 = .ok (.dia .a1 .none 0o12)
    ∧ decode c230 0b0111001001001111 0 = .ok (.doa .a2 .start 0o17)
    ∧ decode c230 0b0110001110100011 0 = .ok (.dib .a0 .clear 0o43)
    ∧ decode c230 0b0110110011001001 0 = .ok (.dob .a1 .pulse 0o11)
    ∧ decode c230 0b0111110100001000 0 = .ok (.dic .a3 .none 0o10)
    ∧ decode c230 0b0110011001011011 0 = .ok (.doc .a0 .start 0o33)
    ∧ decode c230 0b0111011110010000 0 = .ok (.skp .a2 .dn 0o20) := by decide

theorem test_decode_i_o_cpu :
    decode c230 0b0110000001111111 0 = .ok .inten
    ∧ decode c230 0b0110000010111111 0 = .ok .intds
    ∧ decode c230 0b0111000101111111 0 = .ok (.reads .a2 .start)
    ∧ decode c230 0b0111001110111111 0 = .ok (.inta .a2 .clear)
    ∧ decode c230 0b0110110011111111 0 = .ok (.msko .a1 .pulse)
    ∧ decode c230 0b0111110100111111 0 = .ok (.iorst .a3 .none)
    ∧ decode c230 0b0110011001111111 0 = .ok (.halt .a0 .start)
    ∧ decode c230 0b0110011110111111 0 = .ok (.skpCpu .dn)
    ∧ decode c230 0b0110001111111111 0b1110000011011010 = .ok (.vct true 0o60332) := by decide

theorem test_decode_i_o_device_1 :
    decode c200 0b0110101000000011 0 = .ok (.doaMap200 .a1)
    ∧ decode c230 0b0111001000000011 0 = .ok (.doaMap230 .a2)
    ∧ decode c200 0b0110010000000011 0 = .ok (.dobMap200 .a0)
    ∧ decode c230 0b0110110000000011 0 = .ok (.dobMap230 .a1)
    ∧ decode c200 0b0111111000000011 0 = .ok (.docMap200 .a3)
    ∧ decode c230 0b0110011000000011 0 = .ok (.docMap230 .a0)
    ∧ decode c200 0b0111000100000011 0 = .ok (.diaMap200 .a2)
    ∧ decode c230 0b0111100100000011 0 = .ok (.diaMap230 .a3)
    ∧ decode c200 0b0110110100000011 0 = .ok (.dicMap200 .a1)
    ∧ decode c230 0b0111010100000011 0 = .ok (.dicMap230 .a2)
    ∧ decode c200 0b0110000011000011 0 = .ok .niopMap200
    ∧ decode c230 0b0110000011000011 0 = .ok .niopMap230
    ∧ decode c230 0b0110001000000001 0 = .ok (.doaWcs .a0)
    ∧ decode c230 0b0111010000000001 0 = .ok (.dobWcs .a2)
    ∧ decode c230 0b0111111000000001 0 = .ok (.docWcs .a3)
    ∧ decode c230 0b0110101000000010 0 = .ok (.doaErcc .a1 .none) := by decide

theorem test_decode_i_o_device_2 :
    decode c230 0b0111000101000010 0 = .ok (.diaErcc .a2 .start)
    ∧ decode c230 0b0110001110000010 0 = .ok (.dibErcc .a0 .clear)
    ∧ decode c230 0b0110101011001100 0 = .ok (.doaRtc .a1 .pulse) := by decide

/-! ### A state and operands for the hypotheses of each statement, at the boundaries of their clauses -/

/-- Whether a computation completes with a result and a state that pass a test. -/
def gives {α : Type} (r : EStateM.Result Stop State α) (p : α → State → Bool) : Bool :=
  match r with
  | .ok x t => p x t
  | .error _ _ => false

theorem ok_of_gives {α : Type} {r : EStateM.Result Stop State α} {p : α → State → Bool} (h : gives r p = true) :
    ∃ x t, r = .ok x t ∧ p x t = true := by
  cases r with
  | ok x t => exact ⟨x, t, rfl, h⟩
  | error e t => simp [gives] at h

/-- Whether an instruction ends in a next state that passes a test. -/
def runs (i : Instr) (s : State) (p : State → Bool) : Bool :=
  match exec i s with
  | .next t => p t
  | _ => false

/-- The reset machine, running at location 100 octal, with words stored. -/
def tst (ws : List (Nat × Word)) : State :=
  ws.foldl (fun s p => s.physWrite p.1 p.2) ((State.reset.setRun true).setPc 0o100)

/-- The same with a stack from 1000 to 2000 octal. -/
def stk (ws : List (Nat × Word)) : State := tst ([(0o40, 0o1000), (0o41, 0o1000), (0o42, 0o2000)] ++ ws)

/-- The same without a MAP and with so many words of memory. -/
def small (n : Nat) (ws : List (Nat × Word)) : State :=
  ws.foldl (fun s p => s.physWrite p.1 p.2)
    { (State.reset.setRun true).setPc 0o100 with cfg := { Config.reset with mapKind := .none, memWords := n } }

/-- User A of the S/230 and C/330 with every protection on: blocks 0 and 1 are mapped, block 2 is write protected,
block 3 invalid. -/
def usr (ws : List (Nat × Word)) : State :=
  let t := stk ws;
  t.setMap { t.map with
    userEn := true, status := { lef := false, io := true, wp := true, ind := true, dchp := false },
    umapA := ((t.map.umapA.set 1 { wp := false, val := 0, phys := 1 }).set 2 { wp := true, val := 0, phys := 2 }).set 3
      { wp := true, val := 3, phys := 0 } }

/-- User B of the S/200 and C/300 with write protection on: block 2 is write protected, block 3 invalid. -/
def usr200 : State :=
  let t := tst [];
  { t with cfg := { t.cfg with mapKind := .map200 }, map := { t.map with
    userEn := true, lastUser := .b, ustatB := { lef := false, io := true, wp := true, ind := true, dchp := false },
    umapB := (t.map.umapB.set 2 { wp := true, val := 0, phys := 2 }).set 3 { wp := true, val := 0, phys := 127 } } }

theorem witness_DecodeOfEncode :
    (Instr.com { acs := .a3, acd := .a3, shift := .swap, carry := .complement, noLoad := true, skip := .always }).wf c230
      = true ∧ Instr.lmp200.wf c200 = true ∧ (Instr.lef .a3 { ind := true, index := .ac3, disp := 255 }).wf cLef = true
    ∧ (Instr.nio .a0 .none 0o77).wf cPlain = true := by decide

theorem witness_EncodeOfDecode :
    decode c230 0o170010 0 = .ok (.adi 3 .a2) ∧ decode c230 0o126070 0o12345
      = .ok (.elda .a1 { index := .absolute, ind := false, disp := 0o12345 }) := by decide

theorem witness_ExampleWordsDecode : c230.lef = false := rfl

/-- The last word of memory holds a two-word instruction whose second word is at location 0. -/
theorem witness_StepRunsDecodedInstruction :
    let s := (tst [(0o77777, 0o126070), (0, 0o12345)]).setPc 0o77777;
    s.undisturbed = true ∧ s.endless = .none ∧ s.run = true ∧ s.quiet = true ∧
    s.readable s.pc = true ∧ s.needsSecond (s.look s.pc) = true ∧ s.readable (s.pc + 1) = true ∧
    decode s.decodeCtx (s.look s.pc) (s.look (s.pc + 1))
      = .ok (.elda .a1 { index := .absolute, ind := false, disp := 0o12345 }) := by decide +kernel

theorem witness_StepRunsDecodedInstruction_one_word :
    let s := tst [(0o100, 0o170010)];
    s.undisturbed = true ∧ s.endless = .none ∧ s.run = true ∧ s.quiet = true ∧
    s.readable s.pc = true ∧ s.needsSecond (s.look s.pc) = false ∧
    decode s.decodeCtx (s.look s.pc) 0 = .ok (.adi 3 .a2) := by decide +kernel

/-- A running machine with interrupts on and a completed device. -/
def interrupting (ws : List (Nat × Word)) : State :=
  let t := (tst ws).setIon true;
  t.setDevices (t.devices.map fun d => if d.code = 0o10 then { d with done := true } else d)

theorem witness_EndOfInstruction :
    ((tst []).console.suspended = false ∧ (tst []).cut = none ∧ (tst []).endless = .none ∧ (tst []).dchQueue = []
      ∧ (serveChannel (tst [])).advanceHolds.canInterrupt = false
      ∧ (serveChannel (tst [])).advanceHolds.console.stopPending = false)
    ∧ (let s := applyInput (tst []) (.console .stop);
      s.console.suspended = false ∧ s.cut = none ∧ s.endless = .none
      ∧ (serveChannel s).advanceHolds.canInterrupt = false ∧ (serveChannel s).advanceHolds.console.stopPending = true)
    ∧ ((tst []).setConsole { (tst []).console with suspended := true }).console.suspended = true
    ∧ ((tst []).setEndless .execute).cut = none ∧ ((tst []).setEndless .execute).endless ≠ .none := by decide +kernel

/-- Whether a chain with auto-index updates ends at an address within a number of levels. -/
def endsAt (n : Nat) (s : State) (a e : Addr) : Bool :=
  match State.followAuto n s a with
  | some (x, _) => x == e
  | none => false

theorem some_of_endsAt {n : Nat} {s : State} {a e : Addr} (h : endsAt n s a e = true) :
    ∃ t, State.followAuto n s a = some (e, t) := by
  unfold endsAt at h
  split at h
  · rename_i x t ht
    exact ⟨t, by rw [ht, beq_iff_eq.1 h]⟩
  · cases h

theorem followAuto_self {s : State} {a : Addr} (h : a.toNat < 16) (h2 : s.look a = 0x8000 + a.setWidth 16) :
    ∀ n, State.followAuto n s a = none
  | 0 => rfl
  | n + 1 => by
    have h3 : ((0x8000 : Word) + a.setWidth 16).msb = true := by
      have : a.toNat < 16 := h
      rw [BitVec.msb_eq_decide, BitVec.toNat_add, BitVec.toNat_setWidth]
      simp only [decide_eq_true_eq]
      have : (0x8000 : Word).toNat = 32768 := rfl
      omega
    have h4 : ((0x8000 : Word) + a.setWidth 16).setWidth 15 = a := by
      apply BitVec.eq_of_toNat_eq
      rw [BitVec.toNat_setWidth, BitVec.toNat_add, BitVec.toNat_setWidth]
      have : (0x8000 : Word).toNat = 32768 := rfl
      omega
    have e1 : ¬(16 ≤ a.toNat ∧ a.toNat ≤ 23) := by omega
    have e2 : ¬(24 ≤ a.toNat ∧ a.toNat ≤ 31) := by omega
    have e3 : ¬(16 ≤ a.toNat ∧ a.toNat ≤ 31) := by omega
    simp only [State.followAuto, h2, e1, e2, e3, if_false]
    rw [if_pos h3, h4]
    exact followAuto_self h h2 n

/-- A channel request goes first; then the interrupt: at the handler at once, through one auto-increment location and an
auto-decrement one, and never. -/
theorem witness_EndOfInstruction_interrupt :
    (∀ ws ∈ [[(1, 0o2000)], [(1, 0o100027), (0o27, 0o100036), (0o37, 0o2001)]],
      let s := (interrupting ws).setDchQueue [{ code := 0o33, map := .a, addr := 0o400, input := some 5 }];
      let u := (serveChannel s).advanceHolds;
      s.console.suspended = false ∧ s.cut = none ∧ s.endless = .none ∧ u.canInterrupt = true ∧ u.quiet = true
      ∧ ∃ t, State.followAuto 3 u.interrupted 1 = some (0o2000, t))
    ∧ (let s := interrupting [(1, 0o100001)];
      let u := (serveChannel s).advanceHolds;
      s.console.suspended = false ∧ s.cut = none ∧ s.endless = .none ∧ u.canInterrupt = true ∧ u.quiet = true
      ∧ State.followAuto 34359738368 u.interrupted 1 = none) := by
  constructor
  · intro ws hws
    simp only [List.mem_cons, List.not_mem_nil, or_false] at hws
    rcases hws with rfl | rfl
    · exact ⟨by decide +kernel, by decide +kernel, by decide +kernel, by decide +kernel, by decide +kernel,
        some_of_endsAt (by decide +kernel)⟩
    · exact ⟨by decide +kernel, by decide +kernel, by decide +kernel, by decide +kernel, by decide +kernel,
        some_of_endsAt (by decide +kernel)⟩
  · exact ⟨by decide +kernel, by decide +kernel, by decide +kernel, by decide +kernel, by decide +kernel,
      followAuto_self (by decide) (by decide +kernel) _⟩

theorem witness_StepKeepsInvariant :
    (tst [(0o100, 0o170010)]).inv = true
    ∧ ∃ t, step (tst [(0o100, 0o170010)]) = .next t ∧ t.ac2 = 4 ∧ t.pc = 0o101 :=
  ⟨by decide +kernel, _, rfl, rfl, rfl⟩

/-- A user of the S/200 and C/300 with data channel protection: block 1 of the data channel map is write protected. -/
def channel (queue : List DchRequest) : State :=
  ({ usr200 with map := { usr200.map with
    dchEn := true, ustatB := { usr200.map.ustatB with dchp := true },
    dmapA := usr200.map.dmapA.set 1 { wp := true, val := 0, phys := 1 } } }).setDchQueue queue

/-- An input to the write protected block and one to the block before it, an output; two requests; a stopped processor. -/
theorem witness_DataChannel :
    (let s := channel [];
      s.cfg.mapKind = .map200 ∧ s.map.dchEn = true ∧ s.map.ustatB.dchp = true ∧ s.map.lastUser = .b
      ∧ (s.map.dmapA.toList.getD ((0o2000 : Addr).toNat / 1024) MapEntry.zero).wp = true
      ∧ (s.map.dmapA.toList.getD ((0o1777 : Addr).toNat / 1024) MapEntry.zero).wp = false
      ∧ s.ercc.events = [])
    ∧ (let r : DchRequest := { code := 0o33, map := .a, addr := 0o2000, input := some 1 };
      let q : DchRequest := { code := 0o10, map := .a, addr := 0o2000, input := none };
      let s := channel [q, r];
      s.cfg.busOrder = [0o2, 0o14] ++ r.code :: [0o20, 0o22] ++ q.code :: [0o11, 0o12, 0o13, 0o17]
      ∧ s.cfg.busOrder.Nodup ∧ s.dchQueue = [q, r] ∧ r.input = some 1 ∧ q.input = none)
    ∧ State.reset.undisturbed = true ∧ State.reset.endless = .none ∧ State.reset.run = false
    ∧ State.reset.console.oneShot = .none := by decide +kernel

/-- The power supply: on, off, with the switch at OFF and not; a restart to come. A memory error in modes 10 and 11. Each
position of ADDRESS COMPARE, with the switch in LOCK and not. -/
theorem witness_OutsideEvents :
    (let s := applyInput (applyInput (applyInput (tst []) .powerLost) (.powerSwitch .lock)) .powerRestored;
      (tst []).console.powered = true ∧ s.console.powered = true ∧ s.console.restartPending = true)
    ∧ (let s := applyInput (tst []) .powerLost;
      s.console.powered = false ∧ s.console.power ≠ .off
      ∧ (applyInput s (.powerSwitch .off)).console.powered = false
      ∧ (applyInput s (.powerSwitch .off)).console.power = .off)
    ∧ (∀ m ∈ [(2 : BitVec 2), 3],
      let e : MemoryError := { addr := 0o200, code := 0o21, delivered := some 7 };
      let s := (tst []).setErcc { (tst []).ercc with mode := m, events := [e] };
      s.comparing = .off ∧ s.cut = none ∧ s.cfg.hasErcc = true ∧ s.ercc.mode.getLsbD 1 = true ∧ s.ercc.events = [e]
      ∧ 0o200 < s.cfg.memWords ∧ e.addr = 0o200)
    ∧ (∀ p ∈ [PowerSwitch.on, .lock], ∀ c ∈ [AddrCmp.stopAddr, .stopStore, .monitor],
      let s := applyInput (applyInput (applyInput (tst []) (.switches 0o200)) (.addrCmp c)) (.powerSwitch p);
      s.cut = none ∧ s.ercc.events = [] ∧ s.console.switches.setWidth 15 = (0o200 : Addr) ∧ s.console.addrCmp = c
      ∧ s.console.power = p ∧ s.readable 0o200 = true ∧ s.writable 0o200 = true) := by decide +kernel

theorem witness_OutsideEvents_place : (tst []).translate false false 0o200 = .ok 0o200 := rfl

theorem witness_ExchangeAndHalve :
    let s := ((tst []).setAc0 7).setAc2 7;
    s.ac2.toNat ≤ s.ac0.toNat ∧ (s.setAc0 6).ac0.toNat < (s.setAc0 6).ac2.toNat := by decide

/-- The quotients -32768 of both instructions. -/
theorem witness_SignedDivision_quotient :
    (let s := ((tst []).setAc1 0o100000).setAc2 (-1);
      ∃ n q r : Int, n = s.ac0.toInt * 65536 + s.ac1.toNat ∧ n = q * s.ac2.toInt + r ∧ r.natAbs < s.ac2.toInt.natAbs
        ∧ (r = 0 ∨ (0 ≤ r ↔ 0 ≤ n)) ∧ -32768 ≤ q ∧ q ≤ 32767)
    ∧ (let s := ((tst []).setAc1 0o100000).setAc2 1;
      ∃ n q r : Int, n = s.ac1.toInt ∧ n = q * s.ac2.toInt + r ∧ r.natAbs < s.ac2.toInt.natAbs
        ∧ (r = 0 ∨ (0 ≤ r ↔ 0 ≤ n)) ∧ -32768 ≤ q ∧ q ≤ 32767) :=
  ⟨⟨32768, -32768, 0, by decide +kernel⟩, ⟨-32768, -32768, 0, by decide +kernel⟩⟩

theorem witness_SignedDivision_overflow :
    (tst []).ac2 = 0
    ∧ (let s := (tst []).setAc2 1;
      (s.ac0.toInt * 65536 + (s.setAc1 0o100000).ac1.toNat).tdiv s.ac2.toInt > 32767
      ∧ ((s.setAc0 (-1)).ac0.toInt * 65536 + (s.setAc1 0o077777).ac1.toNat).tdiv s.ac2.toInt < -32768) := by decide +kernel

theorem witness_DecimalDigits :
    (let s := ((tst []).setAc0 9).setAc1 0o11;
      (s.ac .a0).toNat % 16 ≤ 9 ∧ (s.ac .a1).toNat % 16 ≤ 9)
    ∧ 9 < (((tst []).setAc0 10).ac .a0).toNat % 16 := by decide +kernel

/-- No leading zero, three of them, and sixteen. -/
theorem witness_BitCounts :
    ∀ p ∈ [(0, 0x8000#16), (3, 0x1234#16), (16, 0x0000#16)],
      let s := (tst []).setAc0 p.2;
      p.1 ≤ 16 ∧ (∀ k, k < p.1 → (s.ac .a0).getMsbD k = false) ∧ (p.1 < 16 → (s.ac .a0).getMsbD p.1 = true) := by
  decide +kernel

theorem witness_RegisterOnlyFrame :
    registerDests (.lrb .a1 .a2) = some [.a1, .a2] ∧ registerDests .divs = some [.a0, .a1] := by decide

theorem witness_OperandAddresses :
    ∀ a ∈ [0o17, 0o20, 0o27, 0o30, 0o37, 0o40], let s := tst [(a, 0o377)];
      let m : ShortMem := { ind := true, index := .absolute, disp := BitVec.ofNat 8 a };
      s.calm = true ∧ s.map.enablePending = none ∧ m.ind = true ∧ isIndirect (s.look (s.shortBase m)) = false
      ∧ (s.shortBase m).toNat = a := by decide +kernel

/-- A chain of four levels through an auto-increment location and an auto-decrement one. -/
theorem witness_OperandAddresses_chain :
    let s := tst [(0o200, 0o100020), (0o20, 0o100027), (0o30, 0o100037), (0o36, 0o300)];
    let m : ShortMem := { ind := true, index := .absolute, disp := 0o200 };
    s.calm = true ∧ s.map.enablePending = none ∧ m.ind = true ∧ 4 ≤ 34359738368
    ∧ ∃ t, State.followAuto 4 s 0o200 = some (0o277, t) :=
  ⟨by decide +kernel, by decide +kernel, rfl, by decide, some_of_endsAt (by decide +kernel)⟩

theorem witness_ChainsEndOrNeverEnd :
    let s := tst [(0o200, 0o100201), (0o201, 0o300)];
    s.calm = true ∧ s.map.enablePending = none
    ∧ s.follow 32768 (s.extBase { index := .absolute, ind := true, disp := 0o200 }) = some 0o300 := by decide +kernel

theorem follow_self {s : State} {a : Addr} (h : isIndirect (s.look a) = true) (h2 : addrOf (s.look a) = a) :
    ∀ n, s.follow n a = none
  | 0 => rfl
  | n + 1 => by rw [State.follow, if_pos h, h2]; exact follow_self h h2 n

theorem witness_ChainsEndOrNeverEnd_never :
    let s := tst [(0o200, 0o100200)];
    s.calm = true ∧ s.map.enablePending = none
    ∧ s.follow 32768 (s.extBase { index := .absolute, ind := true, disp := 0o200 }) = none :=
  ⟨by decide +kernel, by decide +kernel, follow_self (by decide +kernel) (by decide +kernel) _⟩

theorem witness_AddressCalculationFrame :
    let s := tst [(0o20, 0o377), (0o200, 0o300)];
    s.calm = true ∧ s.map.enablePending = none ∧ Memory.wf s.mem = true
    ∧ (∃ e t, eaExt { index := .absolute, ind := true, disp := 0o200 } s = .ok e t ∧ (e == 0o300) = true)
    ∧ ∃ e t, eaShort { ind := true, index := .absolute, disp := 0o20 } s = .ok e t ∧ (e == 0o400) = true :=
  ⟨by decide +kernel, by decide +kernel, by decide +kernel, ok_of_gives (p := fun e _ => e == 0o300) (by decide +kernel),
    ok_of_gives (p := fun e _ => e == 0o400) (by decide +kernel)⟩

/-- The last installed word and the first that is not. -/
theorem witness_StoredWordReadsBack :
    let s := small 4096 [];
    Memory.wf s.mem = true ∧ s.translate false true 4095 = .ok 4095 ∧ 4095 < s.cfg.memWords
    ∧ s.translate false true 4096 = .ok 4096 ∧ s.cfg.memWords ≤ 4096 := by
  refine ⟨by decide +kernel, rfl, by decide +kernel, rfl, by decide +kernel⟩

/-- A short operand through an auto-increment location and an indirect extended one. -/
theorem witness_LoadsAndStores :
    let s := tst [(0o20, 0o377), (0o200, 0o300)];
    s.map.singlePending = false
    ∧ (∃ e u, eaShort { ind := true, index := .absolute, disp := 0o20 } s = .ok e u
      ∧ (u.quiet && u.readable e && u.writable e) = true)
    ∧ ∃ e u, eaExt { index := .absolute, ind := true, disp := 0o200 } s = .ok e u
      ∧ (u.quiet && u.readable e && u.writable e) = true :=
  ⟨by decide +kernel, ok_of_gives (by decide +kernel), ok_of_gives (by decide +kernel)⟩

/-- A MAP SINGLE CYCLE of a direct operand, and of an indirect one whose address word is in the user's block 1. -/
theorem witness_LoadsAndStores_single :
    let t := usr [(0o2000, 0o300)];
    let s := t.setMap { t.map with userEn := false, singlePending := true };
    let user := s.setMap { s.map with userEn := true };
    s.calm = true ∧ s.hasMap = true ∧ s.map.singlePending = true ∧ s.map.enablePending = none
    ∧ user.translate false false 0o2000 = .ok 1024 ∧ user.translate false true 0o2000 = .ok 1024
    ∧ (s.content 1024).msb = false ∧ 31 < (0o2000 : Addr).toNat := by
  refine ⟨by decide +kernel, by decide +kernel, by decide +kernel, by decide +kernel, rfl, rfl, by decide +kernel, by decide⟩

theorem witness_StoreFrame :
    let s := tst [(0o20, 0o377)];
    s.map.singlePending = false
    ∧ (∃ e u, eaShort { ind := true, index := .absolute, disp := 0o20 } s = .ok e u
      ∧ (u.quiet && u.readable e && Memory.wf u.mem &&
        (match u.translate false true e with | .ok pa => pa == 0o400 | .error _ => false)) = true)
    ∧ s.cfg.hasEap = true ∧ s.quiet = true ∧ Memory.wf s.mem = true ∧ s.readable (bytePtrAddr 0o401) = true
    ∧ s.translate false false (bytePtrAddr 0o401) = .ok 0o200 ∧ s.translate false true (bytePtrAddr 0o401) = .ok 0o200
    ∧ s.extBytePtr .absolute 0o401 = 0o401 :=
  ⟨by decide +kernel, ok_of_gives (p := fun e u => u.quiet && u.readable e && Memory.wf u.mem &&
      (match u.translate false true e with | .ok pa => pa == 0o400 | .error _ => false)) (by decide +kernel),
    by decide +kernel, by decide +kernel, by decide +kernel, by decide +kernel, rfl, rfl, by decide +kernel⟩

/-- Words that become 0 and do not. -/
theorem witness_JumpsAndModifySkips :
    let s := tst [(0o200, 0o177777), (0o201, 1)];
    (∃ e u, eaShort { ind := false, index := .absolute, disp := 0o200 } s = .ok e u
      ∧ (u.quiet && u.readable e && u.writable e && u.look e + 1 == 0) = true)
    ∧ ∃ e u, eaExt { index := .absolute, ind := false, disp := 0o201 } s = .ok e u
      ∧ (u.quiet && u.readable e && u.writable e && u.look e - 1 == 0 && u.look e + 1 != 0) = true :=
  ⟨ok_of_gives (by decide +kernel), ok_of_gives (by decide +kernel)⟩

theorem witness_CompareAndSkip :
    let s := (tst []).setPc 0o77777;
    Acc.a0 ≠ Acc.a1 ∧ s.quiet = true ∧ s.readable ((s.ac .a1).setWidth 15) = true
    ∧ s.readable ((s.ac .a1).setWidth 15 + 1) = true ∧ s.readable (s.pc + 1) = true ∧ s.readable (s.pc + 2) = true := by
  decide +kernel

theorem witness_ExecuteAccumulator :
    (let s := (tst []).setAc0 0o170010;
      s.canSuspend = false ∧ decode s.decodeCtx (s.ac .a0) 0 = .ok (.adi 3 .a2) ∧ s.needsSecond (s.ac .a0) = false
      ∧ s.ac .a0 = encode1 (.adi 3 .a2))
    ∧ (let s := (tst [(0o101, 0o12345)]).setAc0 0o126070;
      s.canSuspend = false ∧ s.quiet = true ∧ s.readable (s.pc + 1) = true ∧ s.needsSecond (s.ac .a0) = true
      ∧ decode s.decodeCtx (s.ac .a0) (s.look (s.pc + 1))
        = .ok (.elda .a1 { index := .absolute, ind := false, disp := 0o12345 }))
    ∧ (let s := (tst []).setAc0 (encode1 (.xct .a0));
      s.canSuspend = false ∧ s.ac .a0 = encode1 (.xct .a0))
    ∧ (interrupting []).canSuspend = true := by decide +kernel

/-- In supervisor mode, and from user mode. -/
theorem witness_SystemCall :
    ∀ s ∈ [stk [(2, 0o300)], usr [(2, 0o300)]], s.quiet = true ∧ s.systemEntered.follow 32768 2 = some 0o300
      ∧ ¬(Acc.a1 = .a0 ∧ Acc.a0 = .a0)
      ∧ (s.systemEntered.pushedBlock (s.pc + 1)).follow 32768 2 = some 0o300
      ∧ (s.systemEntered.pushedBlock (s.pc + 1)).overflowed = false := by decide +kernel

/-- The table 0 to 2 with its entries direct, 177777 octal and indirect. -/
theorem witness_CompareAndSkip_dispatch :
    ∃ e u, eaExt { index := .absolute, ind := false, disp := 0o202 }
        (tst [(0o200, 0), (0o201, 2), (0o202, 0o300), (0o203, 0o177777), (0o204, 0o100205), (0o205, 0o400)]) = .ok e u
      ∧ (u.quiet && u.readable (e - 2) && u.readable (e - 1) && (u.look (e - 2)).toInt == 0 && (u.look (e - 1)).toInt == 2
        && u.readable e && u.readable (e + 1) && u.readable (e + 2) && !isIndirect (u.look e)
        && u.look (e + 1) == 0o177777 && u.calm && u.map.enablePending == none && isIndirect (u.look (e + 2))
        && u.look (e + 2) != 0o177777 && u.follow 32768 ((u.look (e + 2)).setWidth 15) == some 0o400) = true :=
  ok_of_gives (by decide +kernel)

/-- A machine in an endless chain, in an endless EXECUTE without and with an interrupt. -/
theorem witness_EndlessAndReset :
    (∀ e ∈ [Endless.instruction, .execute], let s := (tst []).setEndless e;
      s.undisturbed = true ∧ s.canSuspend = false ∧ s.endless = e ∧ s.endless ≠ .none ∧ s.console.powered = true
      ∧ s.console.suspended = false ∧ s.console.power = .on)
    ∧ (let s := (interrupting []).setEndless .execute;
      s.undisturbed = true ∧ s.endless = .execute ∧ s.canSuspend = true) := by decide +kernel

/-- RESET inside an EXECUTE of ADI 3,2, whatever the moment. -/
theorem witness_EndlessAndReset_inside :
    let s := applyInput (applyInput (applyInput State.reset (.switches 0o170010)) (.console .execute)) .resetInside;
    s.console.powered = true ∧ s.console.suspended = false ∧ s.console.resetInside = true ∧ s.endless = .none
    ∧ s.inputs = [] ∧ s.inv = true ∧ ∃ t, step s = .next t ∧ t.console.suspended = false := by
  refine ⟨by decide +kernel, by decide +kernel, by decide +kernel, by decide +kernel, by decide +kernel, by decide +kernel, ?_⟩
  generalize hs : applyInput (applyInput (applyInput State.reset (.switches 0o170010)) (.console .execute)) .resetInside = s
  have hr : step s = abandonStep exec s := by subst hs; rfl
  have hn : ∀ n, ∃ t, wholeStep exec (((s.setConsole { s.console with resetInside := false }).setDchQueue []).setCut (some n))
      = .next t ∧ t.console.suspended = false := by
    subst hs
    intro n
    rcases n with _ | n <;> refine ⟨_, rfl, ?_⟩ <;> rfl
  clear hs
  obtain ⟨t, ht, hc⟩ := hn (momentAt s.free 0)
  obtain ⟨v, hv, h, -⟩ := abandonStep_next ht hc
  exact ⟨v, hr.trans hv, h⟩

/-- Pushes that just reach the stack limit, a POP down to 400 octal. -/
theorem witness_StackInstructions :
    (let s := tst [(0o40, 0o1774), (0o42, 0o2000)];
      s.calm = true ∧ (s.pushedAll ((accsUp .a0 .a3).map s.ac)).overflowed = false
      ∧ (s.pushed (0#1 ++ (s.pc + 2))).overflowed = false
      ∧ (s.look 0o40 + (s.setAc0 4).ac .a0).toNat ≤ (s.look 0o42).toNat)
    ∧ (let s := tst [(0o40, 0o404), (0o42, 0o2000)];
      s.calm = true ∧ (s.poppedInto (accsDown .a3 .a0)).underflowed = false
      ∧ (s.look 0o40 + 5 + 0o1367).toNat ≤ (s.look 0o42).toNat) := by decide +kernel

theorem witness_StackFaults :
    (let s := (tst [(0o40, 0o1775), (0o42, 0o2000), (0o43, 0o300)]).setAc0 4;
      let t := s.pushedAll ((accsUp .a0 .a3).map s.ac);
      s.calm = true ∧ t.overflowed = true ∧ (t.stackFaulted (s.pc + 1)).follow 32768 0o43 = some 0o300
      ∧ (s.look 0o42).toNat < (s.look 0o40 + s.ac .a0).toNat ∧ (s.look 0o42).toNat < (s.look 0o40 + 5 + 0).toNat
      ∧ (s.stackFaulted s.pc).follow 32768 0o43 = some 0o300)
    ∧ (let s := tst [(0o40, 0o2000), (0o42, 0o2000), (0o43, 0o300)];
      let r := s.pushed (0#1 ++ (s.pc + 2));
      s.calm = true ∧ r.overflowed = true ∧ (r.stackFaulted (s.pc + 1)).follow 32768 0o43 = some 0o300)
    ∧ (let s := tst [(0o40, 0o400), (0o42, 0o2000), (0o43, 0o300)];
      let p := s.poppedInto (accsDown .a0 .a0);
      let q := p.put 0o40 (p.look 0o42);
      s.calm = true ∧ p.underflowed = true ∧ (q.stackFaulted (s.pc + 1)).follow 32768 0o43 = some 0o300) := by
  decide +kernel

/-- The lowest stack pointer in the smallest memory, and the highest one. -/
theorem witness_ReturnBlocks :
    ∀ s ∈ [small 48 [(0o40, 35), (0o42, 40)], small 32768 [(0o40, 32762)]],
      s.calm = true ∧ s.hasMap = false ∧ 48 ≤ s.cfg.memWords ∧ Memory.wf s.mem = true ∧ 35 ≤ (s.look 0o40).toNat
      ∧ (s.look 0o40).toNat + 5 < 32768 ∧ (s.look 0o40).toNat + 5 < s.cfg.memWords := by decide +kernel

theorem witness_CallsAndReturns :
    let s := stk [(0o773, 1), (0o774, 2), (0o775, 3), (0o776, 4), (0o777, 5), (0o1000, 0o100300)];
    s.calm = true
    ∧ (∃ e u, eaExt { index := .absolute, ind := false, disp := 0o500 } (s.pushed (0#1 ++ (s.pc + 2))) = .ok e u
      ∧ (u.calm && !u.overflowed) = true)
    ∧ s.popped.underflowed = false ∧ s.poppedBlock.underflowed = false
    ∧ (let t := (s.put 0o40 (s.look 0o41)).poppedBlock;
      (t.put 0o41 t.ac3).underflowed = false) :=
  ⟨by decide +kernel, ok_of_gives (by decide +kernel), by decide +kernel, by decide +kernel, by decide +kernel⟩

theorem witness_ByteAndBitInstructions :
    (let s := (tst []).setAc0 0o177777;
      s.quiet = true ∧ s.cfg.hasEap = true ∧ s.readable (BitVec.ofNat 15 ((s.ac .a0).toNat / 2)) = true
      ∧ s.writable (BitVec.ofNat 15 ((s.ac .a0).toNat / 2)) = true)
    ∧ (let s := (tst [(0o200, 0o300)]).setAc0 0o100200;
      s.quiet = true ∧ (s.ac .a0).msb = true ∧ s.calm = true ∧ s.map.enablePending = none
      ∧ s.follow 32768 ((s.ac .a0).setWidth 15) = some 0o300 ∧ s.readable 0o300 = true ∧ s.writable 0o300 = true)
    ∧ (let s := (tst []).setAc1 0o177777;
      s.quiet = true ∧ (0 : Word).msb = false ∧ (0 : Addr) = (0 : Word).setWidth 15
      ∧ s.readable (BitVec.ofNat 15 ((s.ac .a1).toNat / 16)) = true
      ∧ s.writable (BitVec.ofNat 15 ((s.ac .a1).toNat / 16)) = true) := by decide +kernel

/-- The counts 0, 1, 100000 and 100001 octal, direct and indirect addresses; an interrupted move of two words. -/
theorem witness_BlockMoveInstructions :
    (let s := ((tst [(0o200, 0o300)]).setAc2 0o100200).setAc3 0o400;
      s.calm = true ∧ s.map.enablePending = none ∧ s.canSuspend = false ∧ s.ac1 = 0
      ∧ 32768 < (s.setAc1 0o100001).ac1.toNat ∧ 0 < (s.setAc1 1).ac1.toNat ∧ (s.setAc1 0o100000).ac1.toNat ≤ 32768
      ∧ s.ac2.msb = true ∧ s.follow 32768 (s.ac2.setWidth 15) = some 0o300 ∧ s.ac3.msb = false
      ∧ s.ac3 = 0#1 ++ (0o400 : Addr))
    ∧ (let s := (interrupting []).setAc1 2;
      s.calm = true ∧ s.canSuspend = true ∧ s.ac2.msb = false ∧ s.ac3.msb = false ∧ 1 < s.ac1.toNat
      ∧ s.ac1.toNat ≤ 32768) := by decide +kernel

/-- Entries 0 and 37 octal of XOP, 40 and 57 octal of XOP1, direct and indirect. -/
theorem witness_ExtendedOperations :
    let s := stk [(0o44, 0o500), (0o500, 0o300), (0o537, 0o100501), (0o501, 0o400), (0o540, 0o300), (0o557, 0o300)];
    let b := s.pushedBlock (s.pc + 1);
    let sp := b.look 0o40;
    let t := (b.setAc2 (sp - 4 + BitVec.ofNat 16 (accNat .a0))).setAc3 (sp - 4 + BitVec.ofNat 16 (accNat .a3));
    let word (k : Nat) : Word := t.look ((t.look 0o44).setWidth 15 + BitVec.ofNat 15 k);
    s.calm = true ∧ t.overflowed = false ∧ (word 0).msb = false ∧ (word 0).setWidth 15 = (0o300 : Addr)
    ∧ (word 31).msb = true ∧ t.map.enablePending = none
    ∧ t.follow 32768 ((word 31).setWidth 15) = some 0o400 ∧ s.cfg.hasWcs = false
    ∧ (word 32).msb = false ∧ (word 32).setWidth 15 = (0o300 : Addr) ∧ (word 47).setWidth 15 = (0o300 : Addr) := by
  decide +kernel

theorem witness_ExtendedOperations_store :
    let s := { stk [] with cfg := { Config.reset with hasWcs := true } };
    let b := s.pushedBlock (s.pc + 1);
    let sp := b.look 0o40;
    s.calm = true ∧ s.cfg.hasWcs = true ∧ s.cfg.wcsEffects = false
    ∧ { s with cfg := { s.cfg with wcsEffects := true } }.cfg.wcsEffects = true
    ∧ ((b.setAc2 (sp - 4 + BitVec.ofNat 16 (accNat .a0))).setAc3 (sp - 4 + BitVec.ofNat 16 (accNat .a3))).overflowed = false
    := by decide +kernel

theorem witness_FloatLoadsAndStores :
    (tst []).fpReady = true
    ∧ ∃ e u, eaExt { index := .absolute, ind := false, disp := 0o77776 } (tst []) = .ok e u
      ∧ (u.quiet && u.readableWords e 4 && u.writableWords e 4 && u.readableWords e 2 && u.writableWords e 2) = true :=
  ⟨by decide +kernel, ok_of_gives (by decide +kernel)⟩

/-- Operands in memory with and without a zero mantissa. -/
theorem witness_FloatArithmetic :
    ∀ a ∈ [(0o200 : Addr), 0o300], (tst [(0o300, 0x4110)]).fpReady = true
    ∧ ∃ e u, eaExt { index := .absolute, ind := false, disp := a } (tst [(0o300, 0x4110)]) = .ok e u
      ∧ (u.quiet && u.readableWords e 4 && u.readableWords e 2
        && (decide (fpMan (u.look e ++ u.look (e + 1) ++ 0#32) = 0) == decide (a = 0o200))) = true := by
  intro a ha
  simp only [List.mem_cons, List.not_mem_nil, or_false] at ha
  rcases ha with rfl | rfl
  · exact ⟨by decide +kernel, ok_of_gives (by decide +kernel)⟩
  · exact ⟨by decide +kernel, ok_of_gives (by decide +kernel)⟩

/-- 1.0 in both places, and -1.0. -/
theorem witness_FloatArithmeticByValue :
    let a : Quad := 0x4110000000000000;
    let b : Quad := 0xC110000000000000;
    fpMan a * fpMan b ≠ 0 ∧ (floatMul a b false).ovf = false ∧ (floatMul a b false).unf = false
    ∧ fpNormalized a = true ∧ fpNormalized b = true ∧ (floatDiv a b false).ovf = false
    ∧ (floatDiv a b false).unf = false ∧ fpExp a = fpExp b ∧ a.msb ≠ b.msb ∧ (floatAdd a b false).unf = false := by
  decide +kernel

/-- Exponents 13 and 14 apart, and a sum of two mantissas that overflows. -/
theorem witness_FloatArithmeticByValue_unequal :
    let a : Quad := 0x41F0000000000000;
    let b : Quad := 0x4120000000000000;
    let c : Quad := 0xB4F0000000000000;
    fpExp b ≤ fpExp a ∧ fpExp a < fpExp b + 14 ∧ (floatAdd a b false).ovf = false ∧ (floatAdd a b false).unf = false
    ∧ fpExp c ≤ fpExp a ∧ fpExp a < fpExp c + 14 ∧ (floatAdd a c false).ovf = false ∧ (floatAdd a c false).unf = false
    ∧ fpExp (0x33F0000000000000 : Quad) + 14 ≤ fpExp a := by
  decide +kernel

theorem witness_FloatResultsNormalized :
    (fpNormalized 0x0010000000000000 = true ∨ (0x0010000000000000 : Quad) = 0)
    ∧ (fpNormalized 0x7FFFFFFFFFFFFFFF = true ∨ (0x7FFFFFFFFFFFFFFF : Quad) = 0) ∧ (0x7FFFFFFFFFFFFFFF : Quad) ≠ 0 := by
  decide

theorem witness_FloatConversions :
    (tst []).fpReady = true
    ∧ ∃ e u, eaExt { index := .absolute, ind := false, disp := 0o77777 } (tst []) = .ok e u
      ∧ (u.quiet && u.readableWords e 2 && u.writableWords e 2) = true :=
  ⟨by decide +kernel, ok_of_gives (by decide +kernel)⟩

theorem witness_IntegersConvertExactly :
    ((2 : Int) ^ 24 - 1).natAbs < (if true then 2 ^ 24 else 2 ^ 56)
    ∧ (-((2 : Int) ^ 56 - 1)).natAbs < (if false then 2 ^ 24 else 2 ^ 56) := by decide +kernel

theorem witness_FloatSingleOperand :
    let s := (tst []).setFpac0 0x4110000000000000;
    s.fpReady = true ∧ s.cfg.hasEap = true ∧ (s.ac0.toNat / 256) % 128 ≠ fpExp (s.fpac .a0)
    ∧ ((s.setAc0 0x4100).ac0.toNat / 256) % 128 = fpExp ((s.setAc0 0x4100).fpac .a0) := by decide +kernel

/-- A floating point block that just reaches the limit, and one that comes down to 400 octal. -/
theorem witness_FloatStatusSkipsAndStack :
    (let s := tst [(0o40, 0o1756), (0o42, 0o2000)];
      s.fpReady = true ∧ s.calm = true ∧ s.cfg.hasFpu = true ∧ (s.pushedTogether s.floatBlock).overflowed = false)
    ∧ (let s := tst [(0o40, 0o422), (0o42, 0o2000)];
      s.calm = true ∧ s.cfg.hasFpu = true ∧ (s.put 0o40 (s.look 0o40 - 18)).underflowed = false) := by decide +kernel

theorem witness_FloatTrapAndMissingFeatures :
    (let s := (stk [(0o45, 0o300)]).setFpsr 0x84000000;
      let u := s.setFpsr 0x0C000000;
      s.calm = true ∧ checkedFloat .fns = true ∧ s.cfg.hasFpu = true ∧ s.cfg.hasEap = true ∧ u.fpsr.getMsbD 5 = true
      ∧ (u.fpsr.getMsbD 1 || u.fpsr.getMsbD 2 || u.fpsr.getMsbD 3 || u.fpsr.getMsbD 4) = true
      ∧ (let t := (u.setFpsr (u.fpsr &&& 0xFBFFFFFF)).pushedBlock u.pc;
        t.follow 32768 0o45 = some 0o300 ∧ t.overflowed = false))
    ∧ (let s := { tst [] with cfg := { Config.reset with hasFpu := false, hasEap := false } };
      s.cfg.hasFpu = false ∧ s.cfg.hasEap = false ∧ s.cfg.unassignedOp = false
      ∧ { s with cfg := { s.cfg with unassignedOp := true } }.cfg.unassignedOp = true ∧ Instr.edit ∈ [Instr.ldix, .stix, .cmv, .cmp, .ctr, .cmt, .edit, .lsn])
    := by decide +kernel

/-- Strings at 400 and 410 octal (byte pointers 1000 and 1020 octal) that differ in their second character. -/
theorem witness_StringInstructions_compare :
    let s := { tst [(0o400, 0x4142), (0o410, 0x4143)] with ac0 := 2, ac1 := 2, ac2 := 0o1020, ac3 := 0o1000 };
    let at' (n : Nat) : State := State.pastPair^[n] s;
    s.calm = true ∧ s.cfg.hasEap = true ∧ 1 < max s.ac1.toInt.natAbs s.ac0.toInt.natAbs
    ∧ (∀ j, j < 1 → (at' j).sourceChar = (at' j).targetChar)
    ∧ (at' 1).sourceChar.toNat < (at' 1).targetChar.toNat := by decide +kernel

/-- Equal strings, the shorter one extended with a space; and the other order. -/
theorem witness_StringInstructions_equal :
    (let s := { tst [(0o400, 0x4120), (0o410, 0x4143)] with ac0 := 1, ac1 := 2, ac2 := 0o1020, ac3 := 0o1000 };
      let at' (n : Nat) : State := State.pastPair^[n] s;
      s.calm = true ∧ s.cfg.hasEap = true ∧ 2 = max s.ac1.toInt.natAbs s.ac0.toInt.natAbs
      ∧ (∀ j, j < 2 → (at' j).sourceChar = (at' j).targetChar))
    ∧ (let s := { tst [(0o400, 0x4220), (0o410, 0x4143)] with ac0 := 2, ac1 := 2, ac2 := 0o1020, ac3 := 0o1000 };
      s.calm = true ∧ 0 < max s.ac1.toInt.natAbs s.ac0.toInt.natAbs ∧ s.targetChar.toNat < s.sourceChar.toNat) := by
  decide +kernel

/-- The table at word 0, byte pointer 0, gives every character 0 but the character 101 octal: 1 or 2. -/
theorem witness_StringInstructions_table :
    let s := { tst [(0o400, 0x4142), (0o410, 0x4142), (0o40, 0x0001)] with ac1 := 2, ac2 := 0o1020, ac3 := 0o1000 };
    let t := s.setAc0 (0#1 ++ (0 : Addr));
    let x (u : State) : Byte := u.translated (s.look 0) (u.lookByte u.ac3);
    let y (u : State) : Byte := u.translated (s.look 0) (u.lookByte u.ac2);
    s.calm = true ∧ s.cfg.hasEap = true ∧ s.map.enablePending = none ∧ s.ac0.msb = false ∧ s.ac0 = 0#1 ++ (0 : Addr)
    ∧ s.ac1.msb = false ∧ (s.setAc1 (-2)).ac1.msb = true
    ∧ (∀ j, j < 2 → x (State.pastEqual^[j] t) = y (State.pastEqual^[j] t))
    ∧ (let u := s.setAc2 0o1021;
      0 < u.ac1.toInt.natAbs ∧ (y u).toNat < (x u).toNat)
    ∧ (let u := s.setAc3 0o1001;
      0 < u.ac1.toInt.natAbs ∧ (x u).toNat < (y u).toNat) := by decide +kernel

/-- CMT up to the end, and up to the delimiter 102 octal whose bit is bit 2 of word 304 octal. -/
theorem witness_StringInstructions_until :
    (let s := { tst [(0o400, 0x4142)] with ac0 := 0o300, ac1 := 2, ac2 := 0o1020, ac3 := 0o1000 };
      s.calm = true ∧ s.ac0 = 0#1 ++ (0o300 : Addr) ∧ 2 = s.ac1.toInt.natAbs
      ∧ ∀ j, j < 2 → (State.movedUntil^[j] s).stopsAt 0o300 = false)
    ∧ (let s := { tst [(0o400, 0x4142), (0o304, 0x2000)] with ac0 := 0o300, ac1 := 2, ac2 := 0o1020, ac3 := 0o1000 };
      s.calm = true ∧ s.ac0 = 0#1 ++ (0o300 : Addr) ∧ 1 ≤ s.ac1.toInt.natAbs
      ∧ (∀ j, j < 1 → (State.movedUntil^[j] s).stopsAt 0o300 = false)
      ∧ (State.movedUntil^[1] s).stopsAt 0o300 = true) := by decide +kernel

/-- A decimal field was decoded to a number, without touching the state. -/
theorem decoded_of {a : Attribute} {p : Word} {s : State} {x : Except DecimalError Decimal}
    (h : gives (decodeDecimal a p s) (fun y t => (match y, x with
      | .ok d, .ok e => decide (d = e)
      | .error d, .error e => decide (d = e)
      | _, _ => false) && decide (t = s)) = true) : decodeDecimal a p s = .ok x s := by
  obtain ⟨y, t, hr, h⟩ := ok_of_gives h
  simp only [Bool.and_eq_true, decide_eq_true_eq] at h
  obtain ⟨h, rfl⟩ := h
  rw [hr]
  cases y <;> cases x <;> simp_all

/-- The machine with a data type and size in AC1 and a field at 400 octal. -/
def field (type size : Nat) (ws : List (Nat × Word)) : State :=
  { stk ((0o46, 0o300) :: ws) with ac1 := BitVec.ofNat 16 (32 * type + size), ac3 := 0o1000 }

/-- Unsigned "42", minus 4 in packed decimal. -/
theorem witness_DecimalLoadsAndStores_decimal :
    (let s := field 4 1 [(0o400, 0x3432)];
      s.calm = true ∧ s.cfg.hasEap = true
      ∧ decodeDecimal (attributeOf s.ac1) s.ac3 s = .ok (.ok { neg := false, digits := [4, 2] }) s
      ∧ (attributeOf s.ac1).type ≤ 5 ∧ decimalValue [4, 2] < 10 ^ 16
      ∧ fpMagnitude (s.fpac .a0) ≤ 10 ^ 16 * 16 ^ 78)
    ∧ (let s := field 5 0 [(0o400, 0x4D00)];
      s.calm = true ∧ s.cfg.hasEap = true
      ∧ decodeDecimal (attributeOf s.ac1) s.ac3 s = .ok (.ok { neg := true, digits := [4] }) s
      ∧ (attributeOf s.ac1).type ≤ 5) :=
  ⟨⟨by decide +kernel, by decide +kernel, decoded_of (by decide +kernel), by decide +kernel, by decide +kernel,
    by decide +kernel⟩, by decide +kernel, by decide +kernel, decoded_of (by decide +kernel), by decide +kernel⟩

/-- The largest number STI accepts, 10^16, and the binary types. -/
theorem witness_DecimalLoadsAndStores_other :
    (let s := (field 6 7 [(0o400, 0x00FF), (0o401, 0xFFFF), (0o402, 0xFFFF), (0o403, 0xFFFF)]).setFpac0
        (floatOfInt (10 ^ 16) false).value;
      s.calm = true ∧ s.cfg.hasEap = true ∧ (attributeOf s.ac1).type = 6
      ∧ (bytesInt (s.lookBytes s.ac3 ((attributeOf s.ac1).size + 1))).natAbs < 2 ^ 56
      ∧ fpMagnitude (s.fpac .a0) ≤ 10 ^ 16 * 16 ^ 78)
    ∧ (let s := field 7 8 [];
      s.calm = true ∧ s.cfg.hasEap = true ∧ (attributeOf s.ac1).type = 7 ∧ (attributeOf s.ac1).size ≤ 8
      ∧ fpMagnitude (s.fpac .a0) ≤ 10 ^ 16 * 16 ^ 78) := by decide +kernel

theorem witness_DecimalFieldRoundTrip :
    let s := field 0 1 [(0o400, 0x347D)];
    s.calm = true ∧ (attributeOf s.ac1).type ≤ 5 ∧ [4, 0].length = fieldDigits (attributeOf s.ac1)
    ∧ (∀ d ∈ [4, 0], d ≤ 9)
    ∧ s.lookBytes s.ac3 (fieldBytes (attributeOf s.ac1)) = encodeField true (fieldRoles (attributeOf s.ac1)) [4, 0] := by
  decide +kernel

/-- The operation codes of EDIT in the reset configuration. -/
def code (o : EditOp) : Word := (List.range 256).foldr
  (fun n w => if editOpOf Config.reset.editOpcodes EditOp.all (BitVec.ofNat 8 n) = some o then BitVec.ofNat 16 n else w) 0

/-- The indicators EDIT begins with. -/
def editStart (s : State) : Edit where
  attr := attributeOf s.ac1
  source := s.ac3
  p := s.ac0
  si := s.ac3
  di := s.ac2
  t := false
  s := false
  low := false
  outside := false

/-- DINC "*", DEND on an unsigned digit. -/
theorem witness_EditInstruction :
    let s := { field 4 0 [(0o400, 0x3400), (0o500, code .dinc * 256 + 0x2A), (0o501, code .dend * 256)] with
      ac0 := 0o1200, ac2 := 0o1400 };
    s.calm = true ∧ s.cfg.hasEap = true ∧ s.ac0 ≠ 0o177777 ∧ (attributeOf s.ac1).type = 4
    ∧ editOpOf s.cfg.editOpcodes EditOp.all (s.lookByte s.ac0) = some .dinc
    ∧ editOpOf s.cfg.editOpcodes EditOp.all ((s.putByte s.ac2 (s.lookByte (s.ac0 + 1))).lookByte (s.ac0 + 2)) = some .dend
    ∧ (∃ neg t, editSign (attributeOf s.ac1) s.ac3 s = .ok neg t
      ∧ ((match neg with | .ok n => !n | .error _ => false) && decide (t = s)) = true)
    ∧ ∃ e t, editLoop editFuel (editStart s) s = .ok e t
      ∧ (e.p == 0o1203 && e.di == 0o1401 && t.lookByte 0o1400 == 0x2A) = true :=
  ⟨by decide +kernel, by decide +kernel, by decide +kernel, by decide +kernel, by decide +kernel, by decide +kernel,
    ok_of_gives (by decide +kernel), ok_of_gives (by decide +kernel)⟩

/-- Digits 4 and 0 for the digit moves. -/
theorem witness_EditOperations :
    ∀ w ∈ [0x3400#16, 0x3000#16],
      let s := { field 4 0 [(0o400, w), (0o500, 0x0001), (0o501, 0x2A00)] with ac0 := 0o1200, ac2 := 0o1400 };
      let e := editStart s;
      s.calm = true ∧ s.lookByte (e.p + 1 + 0) = 1
      ∧ ∃ r u, e.nextDigit s = .ok r u
        ∧ (u.calm && r.2.di == e.di && r.2.t == e.t && r.2.s == e.s && r.2.p == e.p && r.1 == hiByte w) = true := by
  intro w hw
  simp only [List.mem_cons, List.not_mem_nil, or_false] at hw
  rcases hw with rfl | rfl
  · exact ⟨by decide +kernel, by decide +kernel, ok_of_gives (by decide +kernel)⟩
  · exact ⟨by decide +kernel, by decide +kernel, ok_of_gives (by decide +kernel)⟩

/-- The character moves: letters, and a character that is none; a packed field; the source left. -/
theorem witness_EditOperations_characters :
    (let s := { field 4 1 [(0o400, 0x4135), (0o500, 0x0002)] with ac0 := 0o1200, ac2 := 0o1400 };
      let e := editStart s;
      s.calm = true ∧ e.attr.type ≠ 5 ∧ s.repeats (s.lookByte (e.p + 1 + 0)) = 2
      ∧ (∀ k, k < 1 → isAlphabetic ((s.copied e.si e.di k).lookByte (e.si + BitVec.ofNat 16 k)) = true)
      ∧ isAlphabetic ((s.copied e.si e.di 1).lookByte (e.si + 1)) = false ∧ { e with outside := true }.outside = true)
    ∧ (editStart (field 5 1 [])).attr.type = 5 := by decide +kernel

/-- One digit moved by DMVN. -/
theorem witness_EditOperations_digits :
    let s := { field 4 0 [(0o400, 0x3400), (0o500, 0x0001)] with ac0 := 0o1200, ac2 := 0o1400 };
    let e := editStart s;
    s.calm = true ∧ s.repeats (s.lookByte (e.p + 1 + 0)) = 1 ∧ ∃ x u, digitsMoved (fun y c => (y, [c])) 1 e s x u := by
  refine ⟨by decide +kernel, by decide +kernel, ?_⟩
  obtain ⟨r, u, hr, hu⟩ := ok_of_gives (p := fun _ u => u.calm)
    (r := (editStart { field 4 0 [(0o400, 0x3400), (0o500, 0x0001)] with ac0 := 0o1200, ac2 := 0o1400 }).nextDigit
      { field 4 0 [(0o400, 0x3400), (0o500, 0x0001)] with ac0 := 0o1200, ac2 := 0o1400 }) (by decide +kernel)
  exact ⟨_, _, r.1, r.2, u, hr, hu, rfl, rfl⟩

/-- An invalid digit. -/
theorem witness_CommercialFaults_invalid :
    let s := field 4 0 [(0o400, 0x4100)];
    s.calm = true ∧ s.cfg.hasEap = true ∧ (attributeOf s.ac1).type ≤ 5
    ∧ decodeDecimal (attributeOf s.ac1) s.ac3 s = .ok (.error { code := 3, next := 0o1001 }) s
    ∧ (let u := (((s.setAc2 s.ac3).setAc3 0o1001).setAc1 3).pushedBlock s.pc;
      u.follow 32768 0o46 = some 0o300 ∧ u.overflowed = false) :=
  ⟨by decide +kernel, by decide +kernel, by decide +kernel, decoded_of (by decide +kernel), by decide +kernel⟩

/-- The number 10^16, and the data types 6 and 7. -/
theorem witness_CommercialFaults_range :
    (let s := field 4 16 [(0o400, 0x3130), (0o401, 0x3030), (0o402, 0x3030), (0o403, 0x3030), (0o404, 0x3030),
        (0o405, 0x3030), (0o406, 0x3030), (0o407, 0x3030), (0o410, 0x3000)];
      s.calm = true ∧ s.cfg.hasEap = true ∧ (attributeOf s.ac1).type ≤ 5
      ∧ decodeDecimal (attributeOf s.ac1) s.ac3 s = .ok (.ok { neg := false, digits := 1 :: List.replicate 16 0 }) s
      ∧ 10 ^ 16 ≤ decimalValue (1 :: List.replicate 16 0)
      ∧ (let u := (((s.setAc2 s.ac3).setAc3 (s.ac3 + 17)).setAc1 4).pushedBlock s.pc
        u.follow 32768 0o46 = some 0o300 ∧ u.overflowed = false)) :=
  ⟨by decide +kernel, by decide +kernel, by decide +kernel, decoded_of (by decide +kernel), by decide +kernel,
    by decide +kernel⟩

theorem witness_CommercialFaults_type :
    ∀ s ∈ [field 6 0 [], field 7 0 []], s.calm = true ∧ s.cfg.hasEap = true ∧ 6 ≤ (attributeOf s.ac1).type
      ∧ s.ac0 ≠ 0o177777 ∧ ((s.setAc1 1).pushedBlock s.pc).follow 32768 0o46 = some 0o300
      ∧ ((s.setAc1 1).pushedBlock s.pc).overflowed = false := by decide +kernel

/-- The integer 2^56 in eight bytes; a floating point field of ten bytes; a number just above 10^16 for STI. -/
theorem witness_CommercialFaults_binary :
    (let s := field 6 7 [(0o400, 0x0100)];
      let u := (s.setAc2 s.ac3).setAc3 (s.ac3 + BitVec.ofNat 16 (fieldBytes (attributeOf s.ac1)));
      s.calm = true ∧ s.cfg.hasEap = true ∧ (attributeOf s.ac1).type = 6
      ∧ (bytesInt (s.lookBytes s.ac3 ((attributeOf s.ac1).size + 1))).natAbs = 2 ^ 56
      ∧ ((u.setAc1 4).pushedBlock u.pc).follow 32768 0o46 = some 0o300 ∧ ((u.setAc1 4).pushedBlock u.pc).overflowed = false)
    ∧ (let s := field 7 9 [];
      let u := (s.setAc2 s.ac3).setAc3 s.ac3;
      s.calm = true ∧ s.cfg.hasEap = true ∧ (attributeOf s.ac1).type = 7 ∧ (attributeOf s.ac1).size = 9
      ∧ ((u.setAc1 1).pushedBlock u.pc).follow 32768 0o46 = some 0o300 ∧ ((u.setAc1 1).pushedBlock u.pc).overflowed = false)
    ∧ (let s := (field 4 1 []).setFpac0 0x4E2386F26FC10001;
      let w := State.spoiled (fieldBytes (attributeOf s.ac1)) s.ac3 s;
      s.calm = true ∧ s.cfg.hasEap = true ∧ 10 ^ 16 * 16 ^ 78 < fpMagnitude (s.fpac .a0)
      ∧ w.look 0o46 = 0o300 ∧ w.look 0o40 + 5 ≤ w.look 0o42) := by decide +kernel

theorem witness_DeviceTransfers :
    (∀ d ∈ [(0o10 : BitVec 6), 0o50], (tst []).ioProtected d = false ∧ (tst []).unitAt d = .peripheral ∧ d ≠ 0o77)
    ∧ (tst []).ioProtected 1 = false ∧ (tst []).cfg.hasWcs = false ∧ (tst []).ioProtected 2 = false
    ∧ (tst []).cfg.hasErcc = true ∧ (tst []).ioProtected 0o14 = false ∧ (tst []).cfg.hasRtc = true
    ∧ (let s := { tst [] with cfg := { Config.reset with hasWcs := true } };
      s.ioProtected 1 = false ∧ s.cfg.hasWcs = true)
    ∧ (tst []).ioProtected 3 = false ∧ (tst []).cfg.mapKind ≠ .none := by decide +kernel

theorem witness_ProcessorDevice :
    (tst []).ioProtected 0o77 = false
    ∧ (∀ x : BitVec 6, (x = 2 → (tst []).erccReq = false) ∧ (x = 0o14 → (tst []).rtcReq = false) ∧
        ∀ d ∈ (tst []).devices, d.code = x → (tst []).deviceReq d = false)
    ∧ (let s := interrupting [];
      s.cfg.busOrder = [0o2, 0o14, 0o33, 0o20, 0o22] ++ (0o10 : BitVec 6) :: [0o11, 0o12, 0o13, 0o17]
      ∧ (∀ x ∈ [(0o2 : BitVec 6), 0o14, 0o33, 0o20, 0o22], (x = 2 → s.erccReq = false) ∧ (x = 0o14 → s.rtcReq = false) ∧
        ∀ d ∈ s.devices, d.code = x → s.deviceReq d = false)
      ∧ s.devices.find? (fun x => x.code == 0o10 && s.deviceReq x)
        = some { Device.idle 0o10 (some 14) with done := true }) := by decide +kernel

/-- Mode A (a direct entry); with a device control table; with the stack change and the return block. -/
theorem witness_VectorInstruction :
    (let s := tst [(0o600, 0o300)];
      s.calm = true ∧ s.ioProtected 0o77 = false ∧ (s.look (0o600 + s.ack.setWidth 15)).msb = false)
    ∧ (let s := stk [(0o600, 0o100700), (0o700, 0o100300), (4, 0o1400), (6, 0o2000)];
      s.calm = true ∧ s.ioProtected 0o77 = false ∧ (s.look (0o600 + s.ack.setWidth 15)).msb = true
      ∧ ∀ change : Bool, let t := if change then s.stackChanged else s;
        let u := t.pushedBlock ((t.look 0).setWidth 15);
        let v := u.pushed (u.look 5);
        let m := v.look 0o701 ||| v.look 5;
        (t.look 0o700).msb = true
        ∧ (((((v.put 5 m).setAc0 m).setAc2 (0#1 ++ (0o700 : Addr))).setMask m).interruptsOn.setPc 0o300).overflowed = false)
    := by decide +kernel

theorem witness_MapTranslation :
    (tst []).userMode = false
    ∧ (let s := usr [];
      s.map.userEn = true ∧ s.cfg.mapKind = .map230 ∧ User.a = s.map.ab ∧ true = s.map.status.wp)
    ∧ (usr200.map.userEn = true ∧ usr200.cfg.mapKind = .map200 ∧ User.b = usr200.map.lastUser
      ∧ true = usr200.map.ustatB.wp) := by decide +kernel

theorem witness_MapDevice230 :
    (tst []).ioProtected 3 = false ∧ (tst []).map.sel = 0
    ∧ ((0 : BitVec 3), (tst []).map.umapA) ∈ [(0, (tst []).map.umapA)]
    ∧ ((tst []).setMap { (tst []).map with sel := 1 }).map.sel = 1 := by decide +kernel

/-- The four values of bits 6 and 7 of the accumulator. -/
theorem witness_MapDevice200 :
    (usr200.setMap { usr200.map with userEn := false }).ioProtected 3 = false ∧
    ∀ v ∈ [(0, 0x0000#16), (1, 0x0100), (2, 0x0200), (3, 0x0300)],
      (((tst []).setAc0 v.2).ac .a0).extractLsb' 8 2 = BitVec.ofNat 2 v.1 := by decide +kernel

theorem witness_LoadMap :
    (let s := usr [];
      s.userMode = true ∧ s.enables.io = true)
    ∧ (let s := tst [];
      s.ac1 = 0 ∧ 32768 < (s.setAc1 0o100001).ac1.toNat)
    ∧ (let s := ((tst [(0o200, 0o300)]).setAc2 0o100200).setAc1 0o100000;
      s.calm = true ∧ s.map.enablePending = none ∧ s.canSuspend = false ∧ 0 < s.ac1.toNat ∧ s.ac1.toNat ≤ 32768
      ∧ s.ac2.msb = true ∧ s.follow 32768 (s.ac2.setWidth 15) = some 0o300)
    ∧ (let s := (interrupting []).setAc1 2;
      s.calm = true ∧ s.ac2.msb = false ∧ 1 < s.ac1.toNat ∧ s.ac1.toNat ≤ 32768
      ∧ (State.loadedWord MapUnit.load200 s).canSuspend = true
      ∧ (State.loadedWord MapUnit.load230 s).canSuspend = true) := by decide +kernel

/-- A user's load from the invalid block 3 and store to the write protected block 2. -/
theorem witness_ProtectionFaults_reference :
    let s := usr [(3, 0o300)];
    let f (v : Violation) : State := s.faultRecorded
      { single := false, wp := v == .write, valid := false, ind := false, io := false, pcUndef := false };
    s.quiet = true ∧ s.userMode = true
    ∧ (match s.translate false false (s.extBase { index := .absolute, ind := false, disp := 0o6000 }) with
      | .error .validity => true | _ => false) = true
    ∧ (match s.translate false true (s.extBase { index := .absolute, ind := false, disp := 0o4000 }) with
      | .error .write => true | _ => false) = true
    ∧ ∀ v ∈ [Violation.validity, .write], (f v).quiet = true ∧ (f v).userMode = false
      ∧ (f v).look 3 = 0o300 ∧ (f v).look 0o40 + 5 ≤ (f v).look 0o42 := by decide +kernel

/-- Chains of fourteen and of more address words. -/
theorem witness_ProtectionFaults_indirect :
    (let s := usr ((0o215, 0o300) :: (List.range 13).map fun k => (0o200 + k, 0o100201 + BitVec.ofNat 16 k));
      let word (k : Nat) : Addr := s.chainAddr 0o200 k;
      s.quiet = true ∧ s.userMode = true ∧ s.enables.ind = true ∧ s.map.enablePending = none
      ∧ (∀ k, k < 14 → s.readable (word k) = true) ∧ (∀ k, k < 13 → isIndirect (s.look (word k)) = true)
      ∧ isIndirect (s.look (word 13)) = false)
    ∧ (let s := usr [(0o200, 0o100200), (3, 0o300)];
      let word (k : Nat) : Addr := s.chainAddr 0o200 k;
      let f := s.faultRecorded
        { single := false, wp := false, valid := false, ind := true, io := false, pcUndef := false };
      s.quiet = true ∧ s.userMode = true ∧ s.enables.ind = true ∧ s.map.enablePending = none
      ∧ (∀ k, k < 14 → s.readable (word k) = true ∧ isIndirect (s.look (word k)) = true)
      ∧ f.look 3 = 0o300 ∧ f.look 0o40 + 5 ≤ f.look 0o42) := by decide +kernel

/-- Blocks whose first and whose last word is refused. -/
theorem witness_ProtectionFaults_block :
    (∀ p ∈ [(0, 0o3777#16), (17, 0o3756)],
      let s := usr [(3, 0o300), (0o40, p.2), (0o42, 0o7000)];
      let w (j : Nat) : Addr := (p.2 + 1 + BitVec.ofNat 16 j).setWidth 15;
      let u := ((s.storedAbove p.2 (s.floatBlock.take p.1)).faultRecorded
        { single := false, wp := true, valid := false, ind := false, io := false, pcUndef := false });
      s.quiet = true ∧ s.userMode = true ∧ s.cfg.hasFpu = true ∧ s.readable 0o40 = true ∧ s.look 0o40 = p.2
      ∧ (∀ j, j < p.1 → s.writable (w j) = true)
      ∧ (match s.translate false true (w p.1) with | .error .write => true | _ => false) = true
      ∧ u.quiet = true ∧ u.userMode = false ∧ u.look 3 = 0o300 ∧ u.look 0o40 + 5 ≤ u.look 0o42)
    ∧ (∀ p ∈ [(0, 0o7777#16), (17, 0o10020)],
      let s := usr [(3, 0o300), (0o40, p.2), (0o42, 0o20000)];
      let r (j : Nat) : Addr := (p.2 - BitVec.ofNat 16 j).setWidth 15;
      let u := s.faultRecorded
        { single := false, wp := false, valid := false, ind := false, io := false, pcUndef := false };
      s.quiet = true ∧ s.userMode = true ∧ s.cfg.hasFpu = true ∧ s.readable 0o40 = true ∧ s.look 0o40 = p.2
      ∧ (∀ j, j < p.1 → s.readable (r j) = true)
      ∧ (match s.translate false false (r p.1) with | .error .validity => true | _ => false) = true
      ∧ u.quiet = true ∧ u.userMode = false ∧ u.look 3 = 0o300 ∧ u.look 0o40 + 5 ≤ u.look 0o42) := by decide +kernel

/-- A user's I/O instructions under I/O protection. -/
theorem witness_ProtectionFaults_io :
    let s := usr [(3, 0o300)];
    let u := (s.faultRecorded
      { single := false, wp := false, valid := false, ind := false, io := true, pcUndef := false }).pushedBlock (s.pc + 1);
    s.quiet = true ∧ s.userMode = true ∧ s.ioProtected 0o10 = true ∧ s.ioProtected 0o77 = true
    ∧ (∀ d ∈ [(1 : BitVec 6), 2, 3, 0o14], s.ioProtected d = true)
    ∧ u.follow 32768 3 = some 0o300 ∧ u.overflowed = false := by decide +kernel

theorem witness_ConsoleFunctions :
    (tst []).console.powered = true ∧ (tst []).console.suspended = false ∧ (tst []).console.power = .on
    ∧ (tst []).run = true ∧ State.reset.console.powered = true ∧ State.reset.console.suspended = false
    ∧ State.reset.run = false ∧ State.reset.calm = true ∧ State.reset.console.power = .on
    ∧ (applyInput (tst []) (.powerSwitch .lock)).console.power = .lock
    ∧ (applyInput (tst []) (.powerSwitch .lock)).console.powered = true
    ∧ Memory.wf State.reset.mem = true ∧ 32 ≤ State.reset.cfg.memWords := by decide +kernel

/-- The stopped machine with a word at location 100 octal and 12345 octal after it, asked for something. -/
def asked (f : ConsoleFn) (w : Word) : State :=
  applyInput (applyInput ((tst [(0o100, w), (0o101, 0o12345)]).setRun false) (.switches w)) (.console f)

/-- ADI 3,2 and a two-word ELDA, from memory and from the switches; LEF of a user in LEF mode, and through XCT 0 and XCT 1; a
micro-instruction step. -/
theorem witness_ConsoleFunctions_one :
    (∀ f ∈ [ConsoleFn.instructionStep, .execute], ∀ p ∈ [(0o170010#16, 0#16, Instr.adi 3 .a2),
        (0o126070, 0o12345, .elda .a1 { index := .absolute, ind := false, disp := 0o12345 })],
      let s := asked f p.1;
      s.undisturbed = true ∧ s.endless = .none ∧ s.run = false ∧ s.quiet = true
      ∧ (s.console.oneShot = .step ∧ s.readable s.pc = true ∧ p.1 = s.look s.pc ∨ s.console.oneShot = .execute p.1)
      ∧ (if s.needsSecond p.1 then s.readable (s.pc + 1) = true ∧ p.2.1 = s.look (s.pc + 1) else p.2.1 = 0)
      ∧ decode s.decodeCtx p.1 p.2.1 = .ok p.2.2
      ∧ runs p.2.2 (s.setConsole { s.console with oneShot := .none }) (fun u =>
        !u.console.suspended && u.endless == .none && u.cut.isNone) = true)
    ∧ (let t := asked .execute 0o061000;
      let s := t.setMap { t.map with userEn := true, status := { t.map.status with lef := true } };
      s.undisturbed = true ∧ s.endless = .none ∧ s.run = false ∧ s.quiet = true
      ∧ s.console.oneShot = .execute 0o061000 ∧ s.needsSecond 0o061000 = false
      ∧ decode s.decodeCtx 0o061000 0 = .ok (.lef .a0 { ind := false, index := .ac2, disp := 0 }))
    ∧ (∀ p ∈ [(Acc.a0, 0o061000#16), (.a1, encode1 (.xct .a0))],
      let t := asked .execute (encode1 (.xct p.1));
      let s := ((t.setMap { t.map with userEn := true, status := { t.map.status with lef := true } }).setAc0 0o061000).setAc p.1 p.2;
      s.undisturbed = true ∧ s.endless = .none ∧ s.run = false ∧ s.quiet = true
      ∧ s.console.oneShot = .execute (encode1 (.xct p.1)) ∧ s.needsSecond (encode1 (.xct p.1)) = false
      ∧ decode s.decodeCtx (encode1 (.xct p.1)) 0 = .ok (.xct p.1)
      ∧ decode s.decodeCtx (s.xctWord 4 p.1) 0 = .ok (.lef .a0 { ind := false, index := .ac2, disp := 0 }))
    ∧ (let s := asked .microStep 0;
      s.undisturbed = true ∧ s.endless = .none ∧ s.run = false ∧ s.console.oneShot = .microStep) := by decide +kernel

/-! ### Single steps on the spec's own examples

Each expected result is the one the named rule's example states. -/

/-- A machine about to execute code at an address, with accumulators and data. -/
def prog (pc : Nat) (acs : List Word) (code : List Word) (data : List (Nat × Word)) : State :=
  let t := tst (data ++ code.zipIdx.map fun p => (pc + p.2, p.1));
  { t with pc := BitVec.ofNat 15 pc, ac0 := acs.getD 0 0, ac1 := acs.getD 1 0, ac2 := acs.getD 2 0, ac3 := acs.getD 3 0 }

/-- The step ends in a next state that passes a test. -/
def after (s : State) (p : State → Bool) : Bool :=
  match step s with
  | .next t => p t
  | _ => false

/-- The four accumulators. -/
def accs (t : State) : List Word := [t.ac0, t.ac1, t.ac2, t.ac3]

/-- R142. -/
theorem test_add : after (prog 0o100 [0, 3, 4] [0o133000] []) (fun t =>
    t.ac2 == 7 && !t.carry && t.pc == 0o101) = true := by decide +kernel

/-- R143: 5 from 3. -/
theorem test_sub_borrow : after (prog 0o100 [5, 3] [0o106400] []) (fun t =>
    t.ac1 == 0o177776 && !t.carry && t.ac0 == 5) = true := by decide +kernel

/-- R144. -/
theorem test_neg : after (prog 0o100 [0, 1] [0o124400] []) (fun t => t.ac1 == 0o177777 && !t.carry) = true := by
  decide +kernel

/-- R145 and its carry: ADC 2,0. -/
theorem test_adc : after (prog 0o100 [5, 0, 1] [0o142000] []) (fun t => t.ac0 == 3 && t.carry) = true := by decide +kernel

/-- R146: MOVL# 3,3,SZC with AC3 = 1 skips and loads nothing; MOVZR 1,1; MOVS 1,1. -/
theorem test_mov :
    after (prog 0o100 [0, 0, 0, 1] [0o175112] []) (fun t => t.pc == 0o102 && t.ac3 == 1) = true
    ∧ after (prog 0o100 [0, 3] [0o125220] []) (fun t => t.ac1 == 1 && t.carry) = true
    ∧ after (prog 0o100 [0, 0o030465] [0o125300] []) (fun t => t.ac1 == 0o032461) = true := by decide +kernel

/-- Appendix H: COM# 1,1,SZR skips for -1 only. -/
theorem test_com_test_for_minus_one :
    after (prog 0o100 [0, 0o177777] [0o124014] []) (fun t => t.pc == 0o102 && t.ac1 == 0o177777) = true := by
  decide +kernel

theorem test_and : after (prog 0o100 [0, 0o377, 0o123456] [0o133400] []) (fun t => t.ac2 == 0o56) = true := by
  decide +kernel

/-- LDA 0,5,2; STA 1,-1,3; the auto-increment of LDA 0,@20 (R77). -/
theorem test_load_store :
    after (prog 0o100 [0, 0, 0o1000] [0o021005] [(0o1005, 0o123456)]) (fun t => t.ac0 == 0o123456) = true
    ∧ after (prog 0o100 [0, 7, 0, 0o100] [0o045777] []) (fun t => t.look 0o77 == 7) = true
    ∧ after (prog 0o100 [] [0o022020] [(0o20, 0o377), (0o400, 5)]) (fun t => t.ac0 == 5 && t.look 0o20 == 0o400) = true := by
  decide +kernel

/-- C15: an auto-increment location with 177777 octal goes on at location 0. -/
theorem test_auto_increment_wrap :
    after (prog 0o100 [] [0o022020] [(0o20, 0o177777), (0, 0o300), (0o300, 5)]) (fun t =>
      t.ac0 == 5 && t.look 0o20 == 0) = true := by decide +kernel

/-- ESTA 3,-2,2; ELEF 0,.+5 at 100 octal. -/
theorem test_extended_addresses :
    after (prog 0o100 [0, 0, 0o40000, 0o12] [0o157070, 0o077776] []) (fun t => t.look 0o37776 == 0o12 && t.pc == 0o102)
      = true
    ∧ after (prog 0o100 [] [0o162470, 4] []) (fun t => t.ac0 == 0o105) = true := by decide +kernel

theorem test_immediates :
    after (prog 0o100 [0, 0o10] [0o167770, 0o177775] []) (fun t => t.ac1 == 5 && t.pc == 0o102) = true
    ∧ after (prog 0o100 [0, 0o123456] [0o147770, 0o377] []) (fun t => t.ac1 == 0o56) = true
    ∧ after (prog 0o100 [7] [0o103770, 0o30060] []) (fun t => t.ac0 == 0o30067) = true
    ∧ after (prog 0o100 [0, 0, 1] [0o133770, 0o100000] []) (fun t => t.ac2 == 0o100001) = true := by
  decide +kernel

/-- XCH 0,1; HLV 2 of -5. -/
theorem test_exchange_halve :
    after (prog 0o100 [1, 2] [0o104710] []) (fun t => t.ac0 == 2 && t.ac1 == 1) = true
    ∧ after (prog 0o100 [0, 0, 0o177773] [0o153370] []) (fun t => t.ac2 == 0o177776) = true := by decide +kernel

theorem test_multiply :
    after (prog 0o100 [0o177777, 0o177777, 0o177777] [0o143710] []) (fun t => t.ac0 == 0o177777 && t.ac1 == 0) = true
    ∧ after (prog 0o100 [0, 0o177776, 3] [0o147710] []) (fun t => t.ac0 == 0o177777 && t.ac1 == 0o177772) = true := by
  decide +kernel

theorem test_divide :
    after (prog 0o100 [0, 0o17, 4] [0o153710] []) (fun t => t.ac1 == 3 && t.ac0 == 3 && !t.carry) = true
    ∧ after (prog 0o100 [4, 1, 4] [0o153710] []) (fun t => accs t == [4, 1, 4, 0] && t.carry) = true := by decide +kernel

/-- DIVS of -7 by 2, of 7 by -2; DIVX of -10 by 3. -/
theorem test_divide_signed :
    after (prog 0o100 [0o177777, 0o177771, 2] [0o157710] []) (fun t => t.ac1 == 0o177775 && t.ac0 == 0o177777) = true
    ∧ after (prog 0o100 [0, 7, 0o177776] [0o157710] []) (fun t => t.ac1 == 0o177775 && t.ac0 == 1) = true
    ∧ after (prog 0o100 [0, 0o177766, 3] [0o137710] []) (fun t => t.ac1 == 0o177775 && t.ac0 == 0o177777) = true := by
  decide +kernel

/-- LSH 2,0 by -3; DLSH 2,0 by 1; HXL 2,1; HXR 1,1; DHXL 4,3; DHXR 1,0. -/
theorem test_shifts :
    after (prog 0o100 [0o123, 0, 0o375] [0o141210] []) (fun t => t.ac0 == 0o12) = true
    ∧ after (prog 0o100 [1, 0o100000, 1] [0o141310] []) (fun t => t.ac0 == 3 && t.ac1 == 0) = true
    ∧ after (prog 0o100 [0, 0o123] [0o125410] []) (fun t => t.ac1 == 0o51400) = true
    ∧ after (prog 0o100 [0, 0o123456] [0o105510] []) (fun t => t.ac1 == 0o5162) = true
    ∧ after (prog 0o100 [0o123456, 0, 0, 1] [0o175610] []) (fun t => t.ac3 == 0o123456 && t.ac0 == 0) = true
    ∧ after (prog 0o100 [0o17, 0] [0o101710] []) (fun t => t.ac0 == 0 && t.ac1 == 0o170000) = true := by decide +kernel

/-- LDB 3,1; STB 3,1; ELDB 0,3,2; ESTB 1,2,1. -/
theorem test_bytes :
    after (prog 0o100 [0, 0, 0, 0o1003] [0o166710] [(0o401, 0o40502)]) (fun t => t.ac1 == 0o102) = true
    ∧ after (prog 0o100 [0, 0o123460, 0, 0o1002] [0o167010] [(0o401, 0o40502)]) (fun t => t.look 0o401 == 0o30102) = true
    ∧ after (prog 0o100 [0, 0, 0o400] [0o103170, 3] [(0o401, 0o40502)]) (fun t => t.ac0 == 0o102) = true
    ∧ after (prog 0o100 [0, 0o377] [0o126570, 2] []) (fun t => t.look 0o102 == 0o177400) = true := by decide +kernel

/-- BTO 2,3; BTZ 2,3; SZB 1,1; SNB 0,1; SZBO 2,3. -/
theorem test_bits :
    after (prog 0o1000 [0, 0, 0o100, 0o25] [0o156010] []) (fun t => t.look 0o101 == 0o2000) = true
    ∧ after (prog 0o1000 [0, 0, 0o100, 0o25] [0o156110] [(0o101, 0o177777)]) (fun t => t.look 0o101 == 0o175777) = true
    ∧ after (prog 0o1000 [0, 0o437] [0o126210] []) (fun t => t.pc == 0o1002) = true
    ∧ after (prog 0o1000 [0o100, 0o25] [0o106770] [(0o101, 0o2000)]) (fun t => t.pc == 0o1002) = true
    ∧ after (prog 0o1000 [0, 0, 0o100, 0o25] [0o156310] []) (fun t => t.look 0o101 == 0o2000 && t.pc == 0o1002) = true := by
  decide +kernel

/-- LOB 1,2; LRB 1,2; LRB 1,1; COB 1,1. -/
theorem test_bit_counts :
    after (prog 0o100 [0, 0o400] [0o132410] []) (fun t => t.ac2 == 7) = true
    ∧ after (prog 0o100 [0, 0o500, 1] [0o132510] []) (fun t => t.ac2 == 0o10 && t.ac1 == 0o100) = true
    ∧ after (prog 0o100 [0, 0o500] [0o126510] []) (fun t => t.ac1 == 0o100) = true
    ∧ after (prog 0o100 [0, 7] [0o126610] []) (fun t => t.ac1 == 0o12) = true := by decide +kernel

/-- BLM with overlapping fields. -/
theorem test_block_move :
    after (prog 0o100 [0, 3, 0o1000, 0o1001] [0o133710] [(0o1000, 7)]) (fun t =>
      t.look 0o1001 == 7 && t.look 0o1003 == 7 && t.look 0o1004 == 0 && accs t == [0, 0, 0o1003, 0o1004]) = true := by
  decide +kernel

/-- PSH 1,2; POP 2,1; PSHR; MSP 1. -/
theorem test_stack :
    after (prog 0o100 [0, 0o11, 0o22] [0o133110] [(0o40, 0o400), (0o42, 0o500)]) (fun t =>
      t.look 0o401 == 0o11 && t.look 0o402 == 0o22 && t.look 0o40 == 0o402) = true
    ∧ after (prog 0o100 [] [0o147210] [(0o40, 0o402), (0o42, 0o500), (0o401, 0o11), (0o402, 0o22)]) (fun t =>
      t.ac1 == 0o11 && t.ac2 == 0o22 && t.look 0o40 == 0o400) = true
    ∧ after (prog 0o1000 [] [0o103710] [(0o40, 0o400), (0o42, 0o500)]) (fun t =>
      t.look 0o401 == 0o1002 && t.pc == 0o1001) = true
    ∧ after (prog 0o100 [0, 0o177774] [0o107370] [(0o40, 0o410), (0o42, 0o436)]) (fun t => t.look 0o40 == 0o404) = true := by
  decide +kernel

/-- MSP 1 with AC1 = 40 octal faults before it acts. -/
theorem test_stack_fault :
    after (prog 0o100 [0, 0o40] [0o107370] [(0o40, 0o410), (0o42, 0o436), (0o43, 0o2000)]) (fun t =>
      t.pc == 0o2000 && t.look 0o415 == 0o100 && t.look 0o40 == 0o415 && t.look 0o42 == 0o100436) = true := by
  decide +kernel

/-- R241: SAVE 6. -/
theorem test_save :
    after { prog 0o2000 [1, 2, 3, 0o1235] [0o163710, 6] [(0o40, 0o400), (0o41, 0o400), (0o42, 0o500)] with carry := true }
      (fun t => t.look 0o401 == 1 && t.look 0o404 == 0o400 && t.look 0o405 == 0o101235 && t.look 0o41 == 0o405
        && t.ac3 == 0o405 && t.look 0o40 == 0o413) = true := by decide +kernel

/-- R278, R279: RTN after that SAVE; RSTR. -/
theorem test_returns :
    after (prog 0o2002 [] [0o127710] [(0o40, 0o413), (0o41, 0o405), (0o42, 0o500), (0o401, 1), (0o402, 2), (0o403, 3),
      (0o404, 0o400), (0o405, 0o101235)]) (fun t =>
        t.carry && t.pc == 0o1235 && accs t == [1, 2, 3, 0o400] && t.look 0o41 == 0o400 && t.look 0o40 == 0o400) = true
    ∧ after (prog 0o100 [] [0o167710] [(0o40, 0o611), (0o601, 0o420), (0o602, 0o400), (0o603, 0o500), (0o604, 0o2000),
      (0o605, 1), (0o606, 2), (0o607, 3), (0o610, 4), (0o611, 0o101234)]) (fun t =>
        t.carry && t.pc == 0o1234 && accs t == [1, 2, 3, 4] && t.look 0o43 == 0o2000 && t.look 0o42 == 0o500
        && t.look 0o41 == 0o400 && t.look 0o40 == 0o420) = true := by decide +kernel

/-- JMP @20; JSR @5,2; ISZ 50; DSZ. -/
theorem test_flow :
    after (prog 0o100 [] [0o2020] [(0o20, 0o777)]) (fun t => t.pc == 0o1000 && t.look 0o20 == 0o1000) = true
    ∧ after (prog 0o500 [0, 0, 0o1000] [0o7005] [(0o1005, 0o2000)]) (fun t => t.ac3 == 0o501 && t.pc == 0o2000) = true
    ∧ after (prog 0o100 [] [0o10050] [(0o50, 0o177777)]) (fun t => t.look 0o50 == 0 && t.pc == 0o102) = true
    ∧ after (prog 0o100 [] [0o102470, 2] []) (fun t => t.pc == 0o103) = true := by decide +kernel

/-- SGT, SGE, CLM. -/
theorem test_compare :
    after (prog 0o100 [0, 1, 0o177777] [0o131010] []) (fun t => t.pc == 0o102) = true
    ∧ after (prog 0o100 [0, 0o100000, 0o77777] [0o131110] []) (fun t => t.pc == 0o101) = true
    ∧ after (prog 0o100 [0, 5] [0o126370, 1, 0o12] []) (fun t => t.pc == 0o104) = true
    ∧ after (prog 0o100 [0, 0o13] [0o126370, 1, 0o12] []) (fun t => t.pc == 0o103) = true := by decide +kernel

/-- XCT 2 of ADD 1,2; XCT 0 of JMP .+2. -/
theorem test_xct :
    after (prog 0o100 [0, 5, 0o133000] [0o133370] []) (fun t => t.ac2 == 0o133005 && t.pc == 0o101) = true
    ∧ after (prog 0o1000 [0o402] [0o123370] []) (fun t => t.pc == 0o1002) = true := by decide +kernel

/-- SCL at 1000 octal; XOP 1,0,3. -/
theorem test_system_call_xop :
    after { prog 0o1000 [1, 2, 3, 4] [0o127510] [(0o40, 0o400), (0o42, 0o1000), (2, 0o3000)] with carry := true }
      (fun t => t.look 0o401 == 1 && t.look 0o404 == 4 && t.look 0o405 == 0o101001 && t.look 0o40 == 0o405
        && t.pc == 0o3000) = true
    ∧ after (prog 0o1000 [0o10, 0o20, 0o30, 0o40] [0o120330] [(0o40, 0o400), (0o42, 0o1000), (0o44, 0o2000),
        (0o2003, 0o3000)])
      (fun t => t.look 0o404 == 0o40 && t.look 0o405 == 0o1001 && t.ac2 == 0o402 && t.ac3 == 0o401 && t.pc == 0o3000)
      = true := by decide +kernel

/-- DSPA 1,TBL with a direct entry, 177777 octal, an indirect entry and a number outside. -/
theorem test_dispatch :
    let s (n : Word) : State := prog 0o1000 [0, n] [0o146170, 0o2002] [(0o2000, 1), (0o2001, 3), (0o2002, 0o3000),
      (0o2003, 0o177777), (0o2004, 0o103100), (0o3100, 0o4000)];
    after (s 1) (fun t => t.pc == 0o3000) = true ∧ after (s 2) (fun t => t.pc == 0o1002) = true
    ∧ after (s 3) (fun t => t.pc == 0o4000) = true ∧ after (s 4) (fun t => t.pc == 0o1002) = true := by decide +kernel

/-- LMP on the S/230: block 1 of user A at physical block 5, write protected. -/
theorem test_lmp :
    after { prog 0o100 [0, 1, 0o1000] [0o113410] [(0o1000, 0o102005)] with map := { MapUnit.reset with sel := 0 } }
      (fun t => t.map.umapA[1] == { wp := true, val := 0, phys := 5 } && t.ac1 == 0 && t.ac2 == 0o1001) = true := by
  decide +kernel

/-- DOB 1,MAP. -/
theorem test_map_device :
    after (prog 0o100 [0, 0o105] [0o66003] []) (fun t => t.map.sup31 == 0o105 && t.translate false false 0o76000
      matches .ok 0o212000) = true := by decide +kernel

/-- R382: FLAS of 1, -1, 077777, 100000, 400 octal and 0. -/
theorem test_flas :
    (floatOfInt 1 true).value = 0x4110000000000000
    ∧ (floatOfInt (-1) true).value = 0xC110000000000000
    ∧ (floatOfInt 32767 true).value = 0x447FFF0000000000
    ∧ (floatOfInt (-32768) true).value = 0xC480000000000000
    ∧ (floatOfInt 256 true).value = 0x4310000000000000
    ∧ (floatOfInt 0 true).value = 0 := by decide +kernel

/-- FFAS of the examples: the word, and MOF in FPSR bits 0 and 4. -/
def ffasGives (x : Quad) (w : Word) (mof : Bool) : Bool :=
  runs (.ffas .a1 .a0) ((tst []).setFpac0 x) (fun t => t.ac1 == w && t.fpsr.getMsbD 4 == mof && t.fpsr.getMsbD 0 == mof)

theorem test_ffas :
    ffasGives 0x41F8000000000000 0o17 false = true
    ∧ ffasGives 0xC080000000000000 0 false = true
    ∧ ffasGives 0xC480000000000000 0o100000 true = true
    ∧ ffasGives 0x4480000000000000 0 true = true
    ∧ ffasGives 0x449C400000000000 0o16100 true = true
    ∧ ffasGives 0xC49C400000000000 0o161700 true = true := by decide +kernel

/-- FAS: the low halves of both operands take part. FSD: 1 - 1, 1 - 2, an underflow. -/
theorem test_float_add_subtract :
    (floatAdd 0x41100000FFFFFFFF 0x4110000000000001 true).value = 0x4120000100000000
    ∧ (floatSub 0x4110000000000000 0x4110000000000000 false).value = 0
    ∧ (floatSub 0x4110000000000000 0x4120000000000000 false).value = 0xC110000000000000
    ∧ (floatSub 0x0010000000000000 0x000F000000000000 false).value = 0x7F10000000000000
    ∧ (floatSub 0x0010000000000000 0x000F000000000000 false).unf = true := by decide +kernel

/-- FMS ignores the low half of its destination's or source's operand as the example says; FMD by the examples. -/
theorem test_float_multiply :
    (floatMul 0x4120000000000000 0x4130000000000000 false).value = 0x4160000000000000
    ∧ (floatMul 0x4080000000000000 0x4080000000000000 false).value = 0x4040000000000000
    ∧ (floatMul 0x41200000FFFFFFFF 0x41300000FFFFFFFF true).value = 0x4160000200000000
    ∧ (floatMul 0x7F20000000000000 0x4120000000000000 false).value = 0x7F40000000000000
    ∧ (floatMul 0x7F20000000000000 0x4120000000000000 false).ovf = false
    ∧ (floatMul 0x7F80000000000000 0x7F80000000000000 false).value = 0x3E40000000000000
    ∧ (floatMul 0x7F80000000000000 0x7F80000000000000 false).ovf = true := by decide +kernel

/-- FDS, FDD by the examples. -/
theorem test_float_divide :
    (floatDiv 0x4110000000000000 0x4130000000000000 true).value = 0x4055555500000000
    ∧ (floatDiv 0x4160000000000000 0x4130000000000000 false).value = 0x4120000000000000
    ∧ (floatDiv 0x4110000000000000 0x4130000000000000 false).value = 0x4055555555555555
    ∧ (floatDiv 0x7F10000000000000 0x0110000000000000 false).value = 0x3F10000000000000
    ∧ (floatDiv 0x7F10000000000000 0x0110000000000000 false).ovf = true
    ∧ (floatDiv 0x0110000000000000 0x7F10000000000000 false).value = 0x4310000000000000
    ∧ (floatDiv 0x0110000000000000 0x7F10000000000000 false).unf = true := by decide +kernel

/-- FCMP 0,1 of 2.0 and 1.0; FHLV of 3; FINT of 255.9375; FSCAL down with MOF; FEXP 2; FRH 1. -/
theorem test_float_single :
    runs (.fcmp .a0 .a1) { tst [] with fpac0 := 0x4120000000000000, fpac1 := 0x4110000000000000 } (fun t =>
      !t.fpsr.getMsbD 6 && t.fpsr.getMsbD 7) = true
    ∧ runs (.fhlv .a1) ((tst []).setFpac1 0x4130000000000000) (fun t => t.fpac1 == 0x4118000000000000) = true
    ∧ runs (.fint .a0) ((tst []).setFpac0 0x42FFF00000000000) (fun t => t.fpac0 == 0x42FF000000000000) = true
    ∧ runs (.fscal .a0) ({ tst [] with ac0 := 0o40400, fpac0 := 0x4200100000000000 }) (fun t =>
      t.fpac0 == 0x4101000000000000 && t.fpsr.getMsbD 4) = true
    ∧ runs (.fexp .a2) ({ tst [] with ac0 := 0o177777, fpac2 := 0xC112340000000000 }) (fun t =>
      t.fpac2 == 0xFF12340000000000) = true
    ∧ runs (.frh .a1) ((tst []).setFpac1 0xC110000000000000) (fun t => t.ac0 == 0o140420) = true := by decide +kernel

/-- FDD at 1234 octal divided by zero, then what FSST would store: ANY and DVZ, FPPC. -/
theorem test_float_divide_by_zero :
    runs (.fdd .a1 .a0) ((tst []).setPc 0o1234) (fun t => t.fpsr == 0o110000#16 ++ 0o1234#16) = true := by decide +kernel

/-- LDI 0 of "-123" with a leading sign; STI 1 of -123 packed. -/
theorem test_decimal :
    runs (.ldi .a0) (field 3 3 [(0o400, 0x2D31), (0o401, 0x3233)]) (fun t =>
      t.fpac0 == 0xC27B000000000000 && t.fpsr.getMsbD 7 && t.ac2 == 0o1000) = true
    ∧ runs (.sti .a1) ((field 5 5 []).setFpac1 0xC27B000000000000) (fun t =>
      t.look 0o400 == 0x0012 && t.look 0o401 == 0x3D00 && !t.carry && t.ac2 == 0o1000 && t.ac3 == 0o1003) = true := by
  decide +kernel

/-- LDIX of a 12-digit number; LSN of a negative zero. -/
theorem test_decimal_extended :
    runs .ldix (field 3 12 [(0o400, 0x2B31), (0o401, 0x3233), (0o402, 0x3435), (0o403, 0x3637), (0o404, 0x3839),
      (0o405, 0x3031), (0o406, 0x3200)]) (fun t =>
        t.fpac0 == 0 && t.fpac1 == 0 && t.fpac2 == 0x434D200000000000 && t.fpac3 == 0x4736288140000000) = true
    ∧ runs .lsn (field 2 2 [(0o400, 0x3020), (0o401, 0x2D00)]) (fun t => t.ac1 == 0o177776) = true := by decide +kernel

/-- CMV of "ABC" to five characters and to two; CMP of "AC" and "AB". -/
theorem test_strings :
    runs .cmv { tst [(0o400, 0x4142), (0o401, 0x4300)] with ac0 := 5, ac1 := 3, ac2 := 0o1020, ac3 := 0o1000 } (fun t =>
      t.look 0o410 == 0x4142 && t.look 0o411 == 0x4320 && t.look 0o412 == 0x2000 && !t.carry
        && accs t == [0, 0, 0o1025, 0o1003]) = true
    ∧ runs .cmv { tst [(0o400, 0x4142), (0o401, 0x4300)] with ac0 := 2, ac1 := 3, ac2 := 0o1020, ac3 := 0o1000 } (fun t =>
      t.look 0o410 == 0x4142 && t.carry && t.ac1 == 1) = true
    ∧ runs .cmp { tst [(0o400, 0x4143), (0o410, 0x4142)] with ac0 := 2, ac1 := 2, ac2 := 0o1020, ac3 := 0o1000 } (fun t =>
      accs t == [1, 1, 0o1021, 0o1001]) = true := by decide +kernel

/-- NIOS TTI starts device 10 octal; SKPDN TTI skips on Done; INTA answers with the code of the TTI. -/
theorem test_devices :
    after (prog 0o100 [] [0o60110] []) (fun t => t.devices.any fun d => d.code == 0o10 && d.busy && !d.done) = true
    ∧ after (prog 0o100 [] [0o63610] []) (fun t => t.pc == 0o101) = true
    ∧ runs (.skp .a0 .dn 0o10) (interrupting []) (fun t => t.pc == 0o102) = true
    ∧ runs (.inta .a1 .none) (interrupting []) (fun t => t.ac1 == 0o10) = true := by decide +kernel

/-- HALTA 2 (073077) stops the processor with AC2 in the data lights; DOAS 0,RTC starts the clock. -/
theorem test_halt_clock :
    after (prog 0o100 [0, 0, 5] [0o73077] []) (fun t => !t.run && t.pc == 0o101 && t.console.dataLights == 5) = true
    ∧ after (prog 0o100 [3] [0o61114] []) (fun t => t.rtc.freq == 3 && t.rtc.busy) = true := by decide +kernel

/-- An interrupt: PC to location 0, the jump through location 1, interrupts off. -/
theorem test_interrupt :
    (match endStep (.next ((interrupting [(1, 0o2000)]).setPc 0o77)) with
      | .next t => t.look 0 == 0o77 && t.pc == 0o2000 && !t.ion
      | _ => false) = true := by decide +kernel

/-- R272: STOP does not end an EXECUTE of itself, an interrupt does, with PC on it. -/
theorem test_endless_execute :
    after (applyInput ((tst []).setEndless .execute) (.console .stop)) (fun t => t.run && t.endless == .execute) = true
    ∧ after ((interrupting [(1, 0o2000)]).setEndless .execute) (fun t =>
      t.endless == .none && t.look 0 == 0o100 && t.pc == 0o2000) = true := by decide +kernel

/-- R612: in LOCK, STOP/ADDR suspends nothing. -/
theorem test_compare_in_lock :
    let s := applyInput (applyInput (tst [(0o100, 0o170010)]) (.switches 0o100)) (.addrCmp .stopAddr);
    after s (fun t => t.console.suspended && t.ac2 == 0) = true
    ∧ after (applyInput s (.powerSwitch .lock)) (fun t => !t.console.suspended && t.ac2 == 4) = true := by
  refine ⟨?_, by decide +kernel⟩
  rfl

/-- R609: INSTRUCTION STEP executes one instruction before the START that follows it. -/
theorem test_step_then_start :
    after (((tst [(0o100, 0o170010), (0, 0o170010)]).setRun false).setInputs [[.console .instructionStep, .console .start]])
      (fun t => t.ac2 == 4 && t.inputs == [[.console .start]] && !t.run) = true := by decide +kernel

/-- R609, U14: EXECUTE of an XCT of a LEF word in LEF mode is refused. -/
theorem test_console_xct_lef :
    let t := asked .execute (encode1 (.xct .a0));
    let s := (t.setMap { t.map with userEn := true, status := { t.map.status with lef := true } }).setAc0 0o061000;
    (match step s with | .refused .consoleLef => true | _ => false) = true := by decide +kernel

/-- R321: a fault of another instruction leaves MAP SINGLE CYCLE pending. -/
theorem test_single_cycle_kept :
    let t := usr [(3, 0o3000)];
    runs (.nio .a0 .start 0o10) (t.setMap { t.map with singlePending := true }) (fun t =>
      t.map.singlePending && t.pc == 0o3000) = true := by decide +kernel

/-- A user's I/O instruction under I/O protection: recorded, user mode left, the block holds the next instruction's
address, the jump goes through location 3. -/
theorem test_protection_fault :
    runs (.nio .a0 .start 0o10) (usr [(3, 0o3000)]) (fun t =>
      !t.map.userEn && t.map.fault.io && t.pc == 0o3000 && t.look 0o1005 == 0o101) = true := by decide +kernel

/-- R402, R570: FPOP abandoned at its third word (by ADDRESS COMPARE) has not updated the stack pointer. -/
theorem test_fpop_abandoned :
    let s := stk [];
    runs .fpop (s.setConsole { s.console with addrCmp := .stopAddr, switches := 0o776 }) (fun t =>
      t.console.suspended && t.look 0o40 == 0o1000) = true := by decide +kernel

/-- Two words placed by the host are fetched and executed by the next step. -/
theorem test_withFetchWord :
    after (State.reset.withFetchWord 32 (0o167770 + 65536 * 5)) (fun t => t.ac1 == 5 && t.pc == 2) = true
    ∧ decodeTableWord 16 0o170010 = some (.adi 3 .a2) := by decide +kernel

end Sys2Proof.Tests
end

section
/-! SUPPORT. XCH, HLV, MUL, MULS and DIV (40_fixed_point.md R157, R158, R160 to R162): their words in tables A and C, the
accumulator pair as two numbers, halving as negate, shift, negate. -/

namespace Sys2Proof.Proofs.FixedPoint

open Sys2Proof Sys2Proof.Machine

/-! ### The words of tables A and C (30_encoding.md R106, R107) -/

@[simp] theorem accOfBits_accBits (a : Acc) : accOfBits (accBits a) = a := by cases a <;> rfl

theorem fld_toNat (w : Word) (a n : Nat) : (fld w a n).toNat = w.toNat / 2 ^ (16 - (a + n)) % 2 ^ n := by
  rw [fld, BitVec.extractLsb'_toNat, Nat.shiftRight_eq_div_pow]

theorem toNat_append_eq_add {m n : Nat} (x : BitVec m) (y : BitVec n) :
    (x ++ y).toNat = x.toNat * 2 ^ n + y.toNat := by
  rw [BitVec.toNat_append, ← Nat.shiftLeft_add_eq_or_of_lt y.isLt, Nat.shiftLeft_eq]

/-- A word that begins with 1 and ends in 1000 is in the extension space (30_encoding.md R106). -/
theorem decode_extension {w : Word} (hbit : 32768 ≤ w.toNat) (htail : fld w 12 4 = 8) (c : DecodeCtx) (w2 : Word) :
    decode c w w2 = decodeExtension c w w2 := by
  have hhead : 4 ≤ (fld w 0 3).toNat := by
    rw [fld_toNat]
    omega
  unfold decode
  split
  case h_5 => rw [if_pos htail]
  all_goals omega

section TableWords

variable (c : DecodeCtx) (w2 : Word) (x y : BitVec 2) (sel : BitVec 5)

theorem tableAWord_toNat :
    (tableAWord x y sel).toNat = 32768 + x.toNat * 8192 + y.toNat * 2048 + sel.toNat * 64 + 8 := by
  simp only [tableAWord, toNat_append_eq_add, BitVec.toNat_ofNat]
  omega

theorem tableCWord_toNat (ix k : BitVec 2) :
    (tableCWord x y ix k).toNat =
      32768 + x.toNat * 8192 + y.toNat * 2048 + 1024 + ix.toNat * 256 + k.toNat * 64 + 56 := by
  simp only [tableCWord, toNat_append_eq_add, BitVec.toNat_ofNat]
  omega

/-- The fields of a word of table A. -/
theorem fld_tableAWord :
    fld (tableAWord x y sel) 12 4 = 8#4 ∧ fld (tableAWord x y sel) 10 2 = 0#2 ∧ fld (tableAWord x y sel) 1 2 = x
      ∧ fld (tableAWord x y sel) 3 2 = y ∧ fld (tableAWord x y sel) 5 5 = sel := by
  have hw := tableAWord_toNat x y sel
  refine ⟨?_, ?_, ?_, ?_, ?_⟩
  all_goals
    apply BitVec.eq_of_toNat_eq
    simp only [fld_toNat, hw, BitVec.toNat_ofNat]
    omega

/-- The fields of a word of table C. -/
theorem fld_tableCWord (ix k : BitVec 2) :
    fld (tableCWord x y ix k) 12 4 = 8#4 ∧ fld (tableCWord x y ix k) 10 2 = 3#2 ∧ fld (tableCWord x y ix k) 5 1 = 1#1
      ∧ fld (tableCWord x y ix k) 1 2 = x ∧ fld (tableCWord x y ix k) 3 2 = y ∧ fld (tableCWord x y ix k) 6 2 = ix
      ∧ fld (tableCWord x y ix k) 8 2 = k := by
  have hw := tableCWord_toNat x y ix k
  refine ⟨?_, ?_, ?_, ?_, ?_, ?_, ?_⟩
  all_goals
    apply BitVec.eq_of_toNat_eq
    simp only [fld_toNat, hw, BitVec.toNat_ofNat]
    omega

theorem decode_tableAWord : decode c (tableAWord x y sel) w2 = decodeTableA c (tableAWord x y sel) w2 := by
  obtain ⟨htail, hsel, -⟩ := fld_tableAWord x y sel
  have hw := tableAWord_toNat x y sel
  rw [decode_extension (by omega) htail, decodeExtension, hsel]
  rfl

theorem decode_tableCWord (ix k : BitVec 2) :
    decode c (tableCWord x y ix k) w2 = decodeTableC (tableCWord x y ix k) w2 := by
  obtain ⟨htail, hsel, hbit5, -⟩ := fld_tableCWord x y ix k
  have hw := tableCWord_toNat x y ix k
  rw [decode_extension (by omega) htail, decodeExtension, hsel, hbit5]
  rfl

end TableWords

/-! ### Halves of a 32-bit value -/

theorem highHalf_ofNat (p : Nat) : (BitVec.ofNat 32 p).extractLsb' 16 16 = BitVec.ofNat 16 (p / 65536) := by
  apply BitVec.eq_of_toNat_eq
  simp only [BitVec.extractLsb'_toNat, BitVec.toNat_ofNat, Nat.shiftRight_eq_div_pow]
  omega

theorem lowHalf_ofNat (p : Nat) : (BitVec.ofNat 32 p).extractLsb' 0 16 = BitVec.ofNat 16 (p % 65536) := by
  apply BitVec.eq_of_toNat_eq
  simp only [BitVec.extractLsb'_toNat, BitVec.toNat_ofNat, Nat.shiftRight_zero]
  omega

theorem highHalf_ofInt (q : Int) : (BitVec.ofInt 32 q).extractLsb' 16 16 = BitVec.ofInt 16 (q / 65536) := by
  apply BitVec.eq_of_toNat_eq
  simp only [BitVec.extractLsb'_toNat, BitVec.toNat_ofInt, Nat.shiftRight_eq_div_pow]
  omega

theorem lowHalf_ofInt (q : Int) : (BitVec.ofInt 32 q).extractLsb' 0 16 = BitVec.ofInt 16 q := by
  apply BitVec.eq_of_toNat_eq
  simp only [BitVec.extractLsb'_toNat, BitVec.toNat_ofInt, Nat.shiftRight_zero]
  omega

/-- AC0 and AC1 as one number, AC0 the high-order half (10_state.md R20). -/
theorem acPair_a0_toNat (s : State) : (s.acPair .a0).toNat = s.ac0.toNat * 65536 + s.ac1.toNat := by
  exact toNat_append_eq_add s.ac0 s.ac1

theorem setAcPair_a0 (s : State) (v : BitVec 32) :
    s.setAcPair .a0 v = (s.setAc0 (v.extractLsb' 16 16)).setAc1 (v.extractLsb' 0 16) := rfl

/-! ### Halving -/

theorem halveWord_of_nonneg {w : Word} (h : w.msb = false) : halveWord w = w >>> 1 := by
  have hint : w.toInt.tdiv 2 = ((w >>> 1).toNat : Int) := by
    rw [BitVec.toInt_eq_toNat_of_msb h, BitVec.toNat_ushiftRight, Nat.shiftRight_eq_div_pow]
    rfl
  rw [halveWord, hint, BitVec.ofInt_natCast, BitVec.ofNat_toNat, BitVec.setWidth_eq]

/-- Halving toward 0 a negative number: its magnitude is halved and negated again. -/
theorem halveWord_of_neg {w : Word} (h : w.msb = true) : halveWord w = -((-w) >>> 1) := by
  have hmag : w.toInt = -((-w).toNat : Int) := by
    rw [BitVec.toInt_eq_msb_cond, if_pos h, BitVec.toNat_neg]
    have := BitVec.toNat_ge_of_msb_true h
    omega
  have hint : w.toInt.tdiv 2 = -(((-w) >>> 1).toNat : Int) := by
    rw [hmag, Int.neg_tdiv, BitVec.toNat_ushiftRight, Nat.shiftRight_eq_div_pow]
    rfl
  rw [halveWord, hint, BitVec.ofInt_neg, BitVec.ofInt_natCast, BitVec.ofNat_toNat, BitVec.setWidth_eq]

/-- R158: negate, shift, negate. -/
theorem halveWord_eq (w : Word) : halveWord w = if w.msb then -((-w) >>> 1) else w >>> 1 := by
  cases h : w.msb with
  | false => exact halveWord_of_nonneg h
  | true => exact halveWord_of_neg h

/-! ### The instructions -/

theorem decode_xch (c : DecodeCtx) (x y : Acc) :
    decode c (1#1 ++ accBits x ++ accBits y ++ 0b00111001000#11) 0 = .ok (.xch x y) := by
  have hword : 1#1 ++ accBits x ++ accBits y ++ 0b00111001000#11 = tableAWord (accBits x) (accBits y) 7#5 := by
    apply BitVec.eq_of_toNat_eq
    rw [tableAWord_toNat]
    simp only [toNat_append_eq_add, BitVec.toNat_ofNat]
    omega
  obtain ⟨-, -, hx, hy, hsel⟩ := fld_tableAWord (accBits x) (accBits y) 7#5
  rw [hword, decode_tableAWord, decodeTableA, hx, hy, hsel]
  simp

theorem decode_hlv (c : DecodeCtx) (x : Acc) :
    decode c (1#1 ++ 0b10#2 ++ accBits x ++ 0b11011111000#11) 0 = .ok (.hlv x) := by
  have hword : 1#1 ++ 0b10#2 ++ accBits x ++ 0b11011111000#11 = tableCWord 2#2 (accBits x) 2#2 3#2 := by
    apply BitVec.eq_of_toNat_eq
    rw [tableCWord_toNat]
    simp only [toNat_append_eq_add, BitVec.toNat_ofNat]
    omega
  obtain ⟨-, -, -, hx, hy, hix, hk⟩ := fld_tableCWord 2#2 (accBits x) 2#2 3#2
  rw [hword, decode_tableCWord, decodeTableC, hx, hy, hix, hk]
  simp

theorem exec_xch (x y : Acc) (s : State) :
    exec (.xch x y) s = .next (((s.setAc x (s.ac y)).setAc y (s.ac x)).setPc (s.pc + 1)) := rfl

theorem exec_hlv (x : Acc) (s : State) :
    exec (.hlv x) s = .next ((s.setAc x (halveWord (s.ac x))).setPc (s.pc + 1)) := rfl

theorem exec_mul (s : State) :
    let p : Nat := s.ac1.toNat * s.ac2.toNat + s.ac0.toNat
    exec .mul s =
      .next (((s.setAc0 (BitVec.ofNat 16 (p / 65536))).setAc1 (BitVec.ofNat 16 (p % 65536))).setPc (s.pc + 1)) := by
  intro p
  have hexec : exec .mul s = .next ((s.setAcPair .a0 (BitVec.ofNat 32 p)).setPc (s.pc + 1)) := rfl
  rw [hexec, setAcPair_a0, highHalf_ofNat, lowHalf_ofNat]

theorem exec_muls (s : State) :
    let q : Int := s.ac1.toInt * s.ac2.toInt + s.ac0.toInt
    exec .muls s =
      .next (((s.setAc0 (BitVec.ofInt 16 (q / 65536))).setAc1 (BitVec.ofInt 16 q)).setPc (s.pc + 1)) := by
  intro q
  have hexec : exec .muls s = .next ((s.setAcPair .a0 (BitVec.ofInt 32 q)).setPc (s.pc + 1)) := rfl
  rw [hexec, setAcPair_a0, highHalf_ofInt, lowHalf_ofInt]

theorem exec_div_of_overflow {s : State} (h : s.ac2.toNat ≤ s.ac0.toNat) :
    exec .div s = .next ((s.setCarry true).setPc (s.pc + 1)) := by
  have hexec : exec .div s = execDiv s := rfl
  rw [hexec, execDiv, if_pos h]

theorem exec_div_of_lt {s : State} (h : s.ac0.toNat < s.ac2.toNat) :
    let n : Nat := s.ac0.toNat * 65536 + s.ac1.toNat
    exec .div s =
      .next ((((s.setAc1 (BitVec.ofNat 16 (n / s.ac2.toNat))).setAc0 (BitVec.ofNat 16 (n % s.ac2.toNat))).setCarry
        false).setPc (s.pc + 1)) := by
  intro n
  have hexec : exec .div s = execDiv s := rfl
  rw [hexec, execDiv, if_neg (Nat.not_le.mpr h), acPair_a0_toNat]

/-- Settles O11: each instruction's word from its table, its result from its rule, halving by the sign of the number. -/
theorem exchangeAndHalve : Obligations.ExchangeAndHalve := by
  unfold Obligations.ExchangeAndHalve
  refine ⟨fun c x y s => ⟨decode_xch c x y, decode_hlv c x, exec_xch x y s, ?_⟩, fun c s => ?_⟩
  · rw [exec_hlv, halveWord_eq]
  · exact ⟨rfl, rfl, rfl, exec_mul s, exec_muls s, exec_div_of_overflow, exec_div_of_lt⟩

end Sys2Proof.Proofs.FixedPoint
end

section
/-! SUPPORT. LSH, DLSH, HXL, HXR, DHXL and DHXR (41_logical.md R191 to R196): their words in table A, shifts as
multiplication and division by powers of 2 and 16, the accumulator pair as one number. -/

namespace Sys2Proof.Proofs.Shift

open Sys2Proof Sys2Proof.Machine Sys2Proof.Proofs.FixedPoint

-- As in the tests: theorems elaborated side by side each hold a thread's stack, and the memory limit is near.
set_option Elab.async false

/-! ### Words of table A from their fields (30_encoding.md R106, R107) -/

/-- What table A says of every word with these fields, decoding says of the word made of them. -/
theorem decode_of_tableA_fields {c : DecodeCtx} {x y : BitVec 2} {sel : BitVec 5} {tail : BitVec 11} {w2 : Word}
    {i : Instr} (htail : tail = sel ++ 0x08#6)
    (h : ∀ w, fld w 1 2 = x → fld w 3 2 = y → fld w 5 5 = sel → decodeTableA c w w2 = .ok i) :
    decode c (1#1 ++ x ++ y ++ tail) w2 = .ok i := by
  have hword : 1#1 ++ x ++ y ++ tail = tableAWord x y sel := by
    apply BitVec.eq_of_toNat_eq
    rw [tableAWord_toNat, htail]
    simp only [toNat_append_eq_add, BitVec.toNat_ofNat]
    omega
  obtain ⟨-, -, hx, hy, hsel⟩ := fld_tableAWord x y sel
  rw [hword, decode_tableAWord, h _ hx hy hsel]

section Decode

variable (c : DecodeCtx)

theorem decode_lsh (x y : Acc) :
    decode c (1#1 ++ accBits x ++ accBits y ++ 0b01010001000#11) 0 = .ok (.lsh x y) :=
  decode_of_tableA_fields (sel := 10#5) rfl fun w hx hy hsel => by simp [decodeTableA, hx, hy, hsel]

theorem decode_dlsh (x y : Acc) :
    decode c (1#1 ++ accBits x ++ accBits y ++ 0b01011001000#11) 0 = .ok (.dlsh x y) :=
  decode_of_tableA_fields (sel := 11#5) rfl fun w hx hy hsel => by simp [decodeTableA, hx, hy, hsel]

theorem decode_hxl (n : BitVec 2) (a : Acc) :
    decode c (1#1 ++ n ++ accBits a ++ 0b01100001000#11) 0 = .ok (.hxl n a) :=
  decode_of_tableA_fields (sel := 12#5) rfl fun w hn ha hsel => by simp [decodeTableA, hn, ha, hsel]

theorem decode_hxr (n : BitVec 2) (a : Acc) :
    decode c (1#1 ++ n ++ accBits a ++ 0b01101001000#11) 0 = .ok (.hxr n a) :=
  decode_of_tableA_fields (sel := 13#5) rfl fun w hn ha hsel => by simp [decodeTableA, hn, ha, hsel]

theorem decode_dhxl (n : BitVec 2) (a : Acc) :
    decode c (1#1 ++ n ++ accBits a ++ 0b01110001000#11) 0 = .ok (.dhxl n a) :=
  decode_of_tableA_fields (sel := 14#5) rfl fun w hn ha hsel => by simp [decodeTableA, hn, ha, hsel]

theorem decode_dhxr (n : BitVec 2) (a : Acc) :
    decode c (1#1 ++ n ++ accBits a ++ 0b01111001000#11) 0 = .ok (.dhxr n a) :=
  decode_of_tableA_fields (sel := 15#5) rfl fun w hn ha hsel => by simp [decodeTableA, hn, ha, hsel]

end Decode

/-! ### Shifts as arithmetic -/

theorem shiftLeft_eq_ofNat_mul {w : Nat} (v : BitVec w) (n : Nat) : v <<< n = BitVec.ofNat w (v.toNat * 2 ^ n) := by
  apply BitVec.eq_of_toNat_eq
  rw [BitVec.toNat_shiftLeft, BitVec.toNat_ofNat, Nat.shiftLeft_eq]

theorem ushiftRight_eq_ofNat_div {w : Nat} (v : BitVec w) (n : Nat) : v >>> n = BitVec.ofNat w (v.toNat / 2 ^ n) := by
  apply BitVec.eq_of_toNat_eq
  rw [BitVec.toNat_ushiftRight, BitVec.toNat_ofNat, Nat.shiftRight_eq_div_pow,
    Nat.mod_eq_of_lt (Nat.lt_of_le_of_lt (Nat.div_le_self _ _) v.isLt)]

/-- R191, R192 as arithmetic: a value shifted by a signed count, cleared when the magnitude is above the limit. -/
def shiftedValue (limit : Int) (v : Nat) (count : Int) : Nat :=
  if limit < count ∨ count < -limit then 0
  else if 0 ≤ count then v * 2 ^ count.toNat else v / 2 ^ (-count).toNat

/-- A shift by the width or more clears, so the limit is the width less 1. -/
theorem logicalShift_eq_ofNat {m : Nat} (v : BitVec (m + 1)) (count : Int) :
    logicalShift v count = BitVec.ofNat (m + 1) (shiftedValue m v.toNat count) := by
  unfold logicalShift shiftedValue
  by_cases hlimit : (m : Int) < count ∨ count < -m
  · rw [if_pos hlimit]
    by_cases hleft : 0 ≤ count
    · rw [if_pos hleft, BitVec.shiftLeft_eq_zero (by omega)]
    · rw [if_neg hleft, BitVec.ushiftRight_eq_zero (by omega)]
  · rw [if_neg hlimit]
    split
    · exact shiftLeft_eq_ofNat_mul v _
    · exact ushiftRight_eq_ofNat_div v _

/-- A hex digit is four bits: shifting by N + 1 digits moves by 16 to the N + 1. -/
theorem two_pow_hexCount (n : BitVec 2) : 2 ^ hexCount n = 16 ^ (n.toNat + 1) := Nat.pow_mul 2 4 _

/-! ### The accumulator pair as one number (10_state.md R20) -/

theorem acPair_toNat (s : State) (d : Acc) :
    (s.acPair d).toNat = (s.ac d).toNat * 65536 + (s.ac (accNext d)).toNat :=
  toNat_append_eq_add (s.ac d) (s.ac (accNext d))

theorem setAcPair_ofNat (s : State) (d : Acc) (p : Nat) :
    s.setAcPair d (BitVec.ofNat 32 p) =
      (s.setAc d (BitVec.ofNat 16 (p / 65536))).setAc (accNext d) (BitVec.ofNat 16 p) := by
  have hlow : BitVec.ofNat 16 (p % 65536) = BitVec.ofNat 16 p := by
    apply BitVec.eq_of_toNat_eq
    simp only [BitVec.toNat_ofNat]
    omega
  rw [State.setAcPair, highHalf_ofNat, lowHalf_ofNat, hlow]

/-! ### The instructions -/

theorem exec_lsh (x y : Acc) (s : State) :
    exec (.lsh x y) s = .next ((s.setAc y (BitVec.ofNat 16
      (shiftedValue 15 (s.ac y).toNat (loByte (s.ac x)).toInt))).setPc (s.pc + 1)) := by
  have hexec : exec (.lsh x y) s = execLsh x y s := rfl
  rw [hexec, execLsh, logicalShift_eq_ofNat]
  rfl

theorem exec_dlsh (x y : Acc) (s : State) :
    let d := shiftedValue 31 ((s.ac y).toNat * 65536 + (s.ac (accNext y)).toNat) (loByte (s.ac x)).toInt
    exec (.dlsh x y) s =
      .next (((s.setAc y (BitVec.ofNat 16 (d / 65536))).setAc (accNext y) (BitVec.ofNat 16 d)).setPc (s.pc + 1)) := by
  have hexec : exec (.dlsh x y) s = execDlsh x y s := rfl
  rw [hexec, execDlsh, logicalShift_eq_ofNat, setAcPair_ofNat, acPair_toNat]
  rfl

section HexShifts

variable (n : BitVec 2) (a : Acc) (s : State)

theorem exec_hxl :
    exec (.hxl n a) s =
      .next ((s.setAc a (BitVec.ofNat 16 ((s.ac a).toNat * 16 ^ (n.toNat + 1)))).setPc (s.pc + 1)) := by
  have hexec : exec (.hxl n a) s = execHxl n a s := rfl
  rw [hexec, execHxl, shiftLeft_eq_ofNat_mul, two_pow_hexCount]

theorem exec_hxr :
    exec (.hxr n a) s =
      .next ((s.setAc a (BitVec.ofNat 16 ((s.ac a).toNat / 16 ^ (n.toNat + 1)))).setPc (s.pc + 1)) := by
  have hexec : exec (.hxr n a) s = execHxr n a s := rfl
  rw [hexec, execHxr, ushiftRight_eq_ofNat_div, two_pow_hexCount]

theorem exec_dhxl :
    let p := ((s.ac a).toNat * 65536 + (s.ac (accNext a)).toNat) * 16 ^ (n.toNat + 1)
    exec (.dhxl n a) s =
      .next (((s.setAc a (BitVec.ofNat 16 (p / 65536))).setAc (accNext a) (BitVec.ofNat 16 p)).setPc (s.pc + 1)) := by
  have hexec : exec (.dhxl n a) s = execDhxl n a s := rfl
  rw [hexec, execDhxl, shiftLeft_eq_ofNat_mul, setAcPair_ofNat, acPair_toNat, two_pow_hexCount]

theorem exec_dhxr :
    let p := ((s.ac a).toNat * 65536 + (s.ac (accNext a)).toNat) / 16 ^ (n.toNat + 1)
    exec (.dhxr n a) s =
      .next (((s.setAc a (BitVec.ofNat 16 (p / 65536))).setAc (accNext a) (BitVec.ofNat 16 p)).setPc (s.pc + 1)) := by
  have hexec : exec (.dhxr n a) s = execDhxr n a s := rfl
  rw [hexec, execDhxr, ushiftRight_eq_ofNat_div, setAcPair_ofNat, acPair_toNat, two_pow_hexCount]

end HexShifts

/-- Settles O15: each word from table A, each shift as multiplication or division of the accumulator or of the pair. -/
theorem shiftInstructions : Obligations.ShiftInstructions := by
  unfold Obligations.ShiftInstructions
  refine ⟨fun c x y s => ?_, fun c n a s => ?_⟩
  · exact ⟨decode_lsh c x y, decode_dlsh c x y, exec_lsh x y s, exec_dlsh x y s⟩
  · exact ⟨decode_hxl c n a, decode_hxr c n a, decode_dhxl c n a, decode_dhxr c n a, exec_hxl n a s, exec_hxr n a s,
      exec_dhxl n a s, exec_dhxr n a s⟩

end Sys2Proof.Proofs.Shift
end

section
/-! SUPPORT. The encoder and the decoder are inverse to each other (30_encoding.md R101 to R116): the words of each format as
numbers, their fields, and one clause of the decoder for each format. -/

namespace Sys2Proof.Proofs.Encoding

open Sys2Proof Sys2Proof.Machine Sys2Proof.Proofs.FixedPoint

-- Theorems elaborated side by side each hold a thread's stack, and the memory limit is near.
set_option Elab.async false

/-! ### The fields: a name and its bits (30_encoding.md R102 to R105, R110) -/

@[simp] theorem accBits_accOfBits (b : BitVec 2) : accBits (accOfBits b) = b := by revert b; decide
@[simp] theorem indexOfBits_indexBits (x : Index) : indexOfBits (indexBits x) = x := by cases x <;> rfl
@[simp] theorem indexBits_indexOfBits (b : BitVec 2) : indexBits (indexOfBits b) = b := by revert b; decide
@[simp] theorem shiftOfBits_shiftBits (x : AluShift) : shiftOfBits (shiftBits x) = x := by cases x <;> rfl
@[simp] theorem shiftBits_shiftOfBits (b : BitVec 2) : shiftBits (shiftOfBits b) = b := by revert b; decide
@[simp] theorem carryOfBits_carryBits (x : AluCarry) : carryOfBits (carryBits x) = x := by cases x <;> rfl
@[simp] theorem carryBits_carryOfBits (b : BitVec 2) : carryBits (carryOfBits b) = b := by revert b; decide
@[simp] theorem skipOfBits_skipBits (x : AluSkip) : skipOfBits (skipBits x) = x := by cases x <;> rfl
@[simp] theorem skipBits_skipOfBits (b : BitVec 3) : skipBits (skipOfBits b) = b := by revert b; decide
@[simp] theorem ioFOfBits_ioFBits (x : IoF) : ioFOfBits (ioFBits x) = x := by cases x <;> rfl
@[simp] theorem ioFBits_ioFOfBits (b : BitVec 2) : ioFBits (ioFOfBits b) = b := by revert b; decide
@[simp] theorem ioTestOfBits_ioTestBits (x : IoTest) : ioTestOfBits (ioTestBits x) = x := by cases x <;> rfl
@[simp] theorem ioTestBits_ioTestOfBits (b : BitVec 2) : ioTestBits (ioTestOfBits b) = b := by revert b; decide
@[simp] theorem bitOf_beq_one (b : Bool) : (bitOf b == 1#1) = b := by cases b <;> rfl
@[simp] theorem bitOf_of_beq_one (b : BitVec 1) : bitOf (b == 1#1) = b := by revert b; decide

/-! ### The words of each format as numbers, and their fields -/

section Words

variable (c : DecodeCtx) (w w2 : Word) (x y : BitVec 2) (sel : BitVec 5)

theorem tableBWord_toNat :
    (tableBWord x y sel).toNat = 32768 + x.toNat * 8192 + y.toNat * 2048 + sel.toNat * 64 + 40 := by
  simp only [tableBWord, toNat_append_eq_add, BitVec.toNat_ofNat]
  omega

/-- The fields of a word of table B. -/
theorem fld_tableBWord :
    fld (tableBWord x y sel) 12 4 = 8#4 ∧ fld (tableBWord x y sel) 10 2 = 2#2 ∧ fld (tableBWord x y sel) 1 2 = x
      ∧ fld (tableBWord x y sel) 3 2 = y ∧ fld (tableBWord x y sel) 5 5 = sel := by
  have hw := tableBWord_toNat x y sel
  refine ⟨?_, ?_, ?_, ?_, ?_⟩
  all_goals
    apply BitVec.eq_of_toNat_eq
    simp only [fld_toNat, hw, BitVec.toNat_ofNat]
    omega

theorem decode_tableBWord : decode c (tableBWord x y sel) w2 = decodeTableB (tableBWord x y sel) w2 := by
  obtain ⟨htail, hsel, -⟩ := fld_tableBWord x y sel
  have hw := tableBWord_toNat x y sel
  rw [decode_extension (by omega) htail, decodeExtension, hsel]
  rfl

/-- The word of an XOP as a number (30_encoding.md R114). -/
theorem xopWord_toNat : (1#1 ++ x ++ y ++ sel ++ 0x18#6).toNat
    = 32768 + x.toNat * 8192 + y.toNat * 2048 + sel.toNat * 64 + 24 := by
  simp only [toNat_append_eq_add, BitVec.toNat_ofNat]
  omega

/-- The word of an XOP1 as a number (30_encoding.md R114). -/
theorem xop1Word_toNat (k : BitVec 4) : (1#1 ++ x ++ y ++ 0#1 ++ k ++ 0x38#6).toNat
    = 32768 + x.toNat * 8192 + y.toNat * 2048 + k.toNat * 64 + 56 := by
  simp only [toNat_append_eq_add, BitVec.toNat_ofNat]
  omega

theorem bitOf_toNat (b : Bool) : (bitOf b).toNat = if b then 1 else 0 := by cases b <;> rfl

theorem shortWord_toNat (op : BitVec 3) (ac : BitVec 2) (m : ShortMem) : (shortWord op ac m).toNat =
    op.toNat * 8192 + ac.toNat * 2048 + (bitOf m.ind).toNat * 1024 + (indexBits m.index).toNat * 256 + m.disp.toNat := by
  simp only [shortWord, toNat_append_eq_add]
  omega

/-- The fields of a short class word. -/
theorem fld_shortWord (op : BitVec 3) (ac : BitVec 2) (m : ShortMem) :
    fld (shortWord op ac m) 0 3 = op ∧ fld (shortWord op ac m) 3 2 = ac ∧ fld (shortWord op ac m) 5 1 = bitOf m.ind
      ∧ fld (shortWord op ac m) 6 2 = indexBits m.index ∧ fld (shortWord op ac m) 8 8 = m.disp := by
  have hw := shortWord_toNat op ac m
  refine ⟨?_, ?_, ?_, ?_, ?_⟩
  all_goals
    apply BitVec.eq_of_toNat_eq
    simp only [fld_toNat, hw]
    omega

theorem shortMem_shortWord (op : BitVec 3) (ac : BitVec 2) (m : ShortMem) : shortMem (shortWord op ac m) = m := by
  obtain ⟨-, -, hi, hx, hd⟩ := fld_shortWord op ac m
  simp [shortMem, hi, hx, hd]

theorem ioWord_toNat (a : Acc) (op : BitVec 3) (f : BitVec 2) (dev : BitVec 6) : (ioWord a op f dev).toNat =
    24576 + (accBits a).toNat * 2048 + op.toNat * 256 + f.toNat * 64 + dev.toNat := by
  simp only [ioWord, toNat_append_eq_add, BitVec.toNat_ofNat]
  omega

/-- The fields of an I/O word. -/
theorem fld_ioWord (a : Acc) (op : BitVec 3) (f : BitVec 2) (dev : BitVec 6) :
    fld (ioWord a op f dev) 0 3 = 3#3 ∧ fld (ioWord a op f dev) 3 2 = accBits a ∧ fld (ioWord a op f dev) 5 3 = op
      ∧ fld (ioWord a op f dev) 8 2 = f ∧ fld (ioWord a op f dev) 10 6 = dev := by
  have hw := ioWord_toNat a op f dev
  refine ⟨?_, ?_, ?_, ?_, ?_⟩
  all_goals
    apply BitVec.eq_of_toNat_eq
    simp only [fld_toNat, hw, BitVec.toNat_ofNat]
    omega

theorem aluWord_toNat (op : BitVec 3) (f : Alu) : (aluWord op f).toNat = 32768 + (accBits f.acs).toNat * 8192
    + (accBits f.acd).toNat * 2048 + op.toNat * 256 + (shiftBits f.shift).toNat * 64 + (carryBits f.carry).toNat * 16
    + (bitOf f.noLoad).toNat * 8 + (skipBits f.skip).toNat := by
  simp only [aluWord, toNat_append_eq_add, BitVec.toNat_ofNat]
  omega

/-- The fields of an arithmetic/logical word. -/
theorem fld_aluWord (op : BitVec 3) (f : Alu) :
    fld (aluWord op f) 1 2 = accBits f.acs ∧ fld (aluWord op f) 3 2 = accBits f.acd ∧ fld (aluWord op f) 5 3 = op
      ∧ fld (aluWord op f) 8 2 = shiftBits f.shift ∧ fld (aluWord op f) 10 2 = carryBits f.carry
      ∧ fld (aluWord op f) 12 1 = bitOf f.noLoad ∧ fld (aluWord op f) 13 3 = skipBits f.skip := by
  have hw := aluWord_toNat op f
  refine ⟨?_, ?_, ?_, ?_, ?_, ?_, ?_⟩
  all_goals
    apply BitVec.eq_of_toNat_eq
    simp only [fld_toNat, hw]
    omega

/-- The second word of an extended class instruction gives its operand back. -/
theorem extMem_extWord (m : ExtMem) : extMem (indexBits m.index) (extWord m) = m := by
  have hw : (extWord m).toNat = (bitOf m.ind).toNat * 32768 + m.disp.toNat := toNat_append_eq_add _ _
  have hi : fld (extWord m) 0 1 = bitOf m.ind := by
    apply BitVec.eq_of_toNat_eq
    rw [fld_toNat, hw]
    omega
  have hd : fld (extWord m) 1 15 = m.disp := by
    apply BitVec.eq_of_toNat_eq
    rw [fld_toNat, hw]
    omega
  simp [extMem, hi, hd]

end Words

/-! ### Each format: what its words decode to -/

section Formats

variable {c : DecodeCtx} {w2 : Word} {x y : BitVec 2} {sel : BitVec 5} {i : Instr}

theorem decode_tableA_eq
    (h : ∀ w, fld w 1 2 = x → fld w 3 2 = y → fld w 5 5 = sel → fld w 1 4 = x ++ y → decodeTableA c w w2 = .ok i) :
    decode c (tableAWord x y sel) w2 = .ok i := by
  obtain ⟨-, -, hx, hy, hsel⟩ := fld_tableAWord x y sel
  rw [decode_tableAWord]
  refine h _ hx hy hsel (BitVec.eq_of_toNat_eq ?_)
  have hw := tableAWord_toNat x y sel
  rw [fld_toNat, hw, toNat_append_eq_add]
  omega

theorem decode_tableB_eq
    (h : ∀ w, fld w 1 2 = x → fld w 3 2 = y → fld w 5 5 = sel → fld w 1 4 = x ++ y → decodeTableB w w2 = .ok i) :
    decode c (tableBWord x y sel) w2 = .ok i := by
  obtain ⟨-, -, hx, hy, hsel⟩ := fld_tableBWord x y sel
  rw [decode_tableBWord]
  refine h _ hx hy hsel (BitVec.eq_of_toNat_eq ?_)
  have hw := tableBWord_toNat x y sel
  rw [fld_toNat, hw, toNat_append_eq_add]
  omega

theorem decode_tableC_eq {ix k : BitVec 2}
    (h : ∀ w, fld w 1 2 = x → fld w 3 2 = y → fld w 6 2 = ix → fld w 8 2 = k → fld w 1 4 = x ++ y →
      decodeTableC w w2 = .ok i) : decode c (tableCWord x y ix k) w2 = .ok i := by
  obtain ⟨-, -, -, hx, hy, hix, hk⟩ := fld_tableCWord x y ix k
  rw [decode_tableCWord]
  refine h _ hx hy hix hk (BitVec.eq_of_toNat_eq ?_)
  have hw := tableCWord_toNat x y ix k
  rw [fld_toNat, hw, toNat_append_eq_add]
  omega

/-- A well-formed arithmetic/logical word does not end in 1000 (30_encoding.md R106). -/
theorem decode_alu_eq {op : BitVec 3} {f : Alu} (hf : f.wf = true)
    (h : ∀ w, fld w 5 3 = op → fld w 1 2 = accBits f.acs → fld w 3 2 = accBits f.acd → fld w 8 2 = shiftBits f.shift →
      fld w 10 2 = carryBits f.carry → fld w 12 1 = bitOf f.noLoad → fld w 13 3 = skipBits f.skip → decodeAlu w = i) :
    decode c (aluWord op f) w2 = .ok i := by
  obtain ⟨h1, h2, h3, h4, h5, h6, h7⟩ := fld_aluWord op f
  have hw := aluWord_toNat op f
  have hhead : 4 ≤ (fld (aluWord op f) 0 3).toNat := by
    rw [fld_toNat]
    omega
  have htail : fld (aluWord op f) 12 4 ≠ 8 := by
    intro ht
    have ht := congrArg BitVec.toNat ht
    rw [fld_toNat, hw] at ht
    have hbits : (bitOf f.noLoad).toNat * 8 + (skipBits f.skip).toNat = 8 := by
      have h8 : (8 : BitVec 4).toNat = 8 := rfl
      omega
    cases hn : f.noLoad <;> cases hs : f.skip <;> simp [hn, hs, bitOf, skipBits, Alu.wf] at hbits hf
  unfold decode
  split
  case h_5 => rw [if_neg htail, h _ h3 h1 h2 h4 h5 h6 h7]
  all_goals omega

theorem decode_short_eq {op : BitVec 3} {ac : BitVec 2} {m : ShortMem}
    (h : ∀ w, fld w 0 3 = op → fld w 3 2 = ac → shortMem w = m → decode c w w2 = .ok i) :
    decode c (shortWord op ac m) w2 = .ok i := by
  obtain ⟨h1, h2, -⟩ := fld_shortWord op ac m
  exact h _ h1 h2 (shortMem_shortWord op ac m)

/-- An I/O word outside LEF mode (30_encoding.md R105, R109). -/
theorem decode_io_eq {a : Acc} {op : BitVec 3} {f : BitVec 2} {dev : BitVec 6} (hl : c.lefMode = false)
    (h : (match decodeDeviceIo c op.toNat a f dev w2 with
      | some j => j
      | none => decodeGeneralIo op.toNat a f dev) = i) :
    decode c (ioWord a op f dev) w2 = .ok i := by
  obtain ⟨h1, h2, h3, h4, h5⟩ := fld_ioWord a op f dev
  unfold decode
  rw [h1]
  simp only [BitVec.toNat_ofNat, hl, Bool.false_eq_true, if_false, decodeIo, h2, h3, h4, h5, accOfBits_accBits]
  exact congrArg _ h

end Formats

theorem decode_xop (c : DecodeCtx) (s d : Acc) (op : BitVec 5) (w2 : Word) :
    decode c (1#1 ++ accBits s ++ accBits d ++ op ++ 0x18#6) w2 = .ok (.xop s d op) := by
  have hw := xopWord_toNat (accBits s) (accBits d) op
  generalize 1#1 ++ accBits s ++ accBits d ++ op ++ 0x18#6 = w at hw
  have hfields : fld w 12 4 = 8#4 ∧ fld w 10 2 = 1#2 ∧ fld w 1 2 = accBits s ∧ fld w 3 2 = accBits d ∧ fld w 5 5 = op := by
    refine ⟨?_, ?_, ?_, ?_, ?_⟩
    all_goals
      apply BitVec.eq_of_toNat_eq
      simp only [fld_toNat, hw, BitVec.toNat_ofNat]
      omega
  obtain ⟨htail, hsel, hs, hd, hop⟩ := hfields
  rw [decode_extension (by omega) htail, decodeExtension, hsel, hs, hd, hop]
  simp

theorem decode_xop1 (c : DecodeCtx) (s d : Acc) (k : BitVec 4) (w2 : Word) :
    decode c (1#1 ++ accBits s ++ accBits d ++ 0#1 ++ k ++ 0x38#6) w2 = .ok (.xop1 s d k) := by
  have hw := xop1Word_toNat (accBits s) (accBits d) k
  generalize 1#1 ++ accBits s ++ accBits d ++ 0#1 ++ k ++ 0x38#6 = w at hw
  have hfields : fld w 12 4 = 8#4 ∧ fld w 10 2 = 3#2 ∧ fld w 5 1 = 0#1 ∧ fld w 1 2 = accBits s ∧ fld w 3 2 = accBits d
      ∧ fld w 6 4 = k := by
    refine ⟨?_, ?_, ?_, ?_, ?_, ?_⟩
    all_goals
      apply BitVec.eq_of_toNat_eq
      simp only [fld_toNat, hw, BitVec.toNat_ofNat]
      omega
  obtain ⟨htail, hsel, h5, hs, hd, hk⟩ := hfields
  rw [decode_extension (by omega) htail, decodeExtension, hsel, h5, hs, hd, hk]
  simp

@[simp] theorem accOfBits_zero : accOfBits 0#2 = .a0 := rfl
@[simp] theorem accOfBits_one : accOfBits 1#2 = .a1 := rfl
@[simp] theorem accOfBits_two : accOfBits 2#2 = .a2 := rfl
@[simp] theorem accOfBits_three : accOfBits 3#2 = .a3 := rfl

/-- The word of VCT's second word gives its operands back (30_encoding.md R115). -/
theorem fld_vctWord (b : Bool) (t : Addr) :
    fld ((if b then 1#1 else 0#1) ++ t) 0 1 = bitOf b ∧ fld ((if b then 1#1 else 0#1) ++ t) 1 15 = t := by
  have hw : ((if b then 1#1 else 0#1) ++ t).toNat = (bitOf b).toNat * 32768 + t.toNat := toNat_append_eq_add _ _
  constructor
  all_goals
    apply BitVec.eq_of_toNat_eq
    rw [fld_toNat, hw]
    omega

/-- No special row owns an I/O word that the rows of its own device leave free. -/
theorem decodeDeviceIo_eq_none {c : DecodeCtx} {op : Nat} {a : Acc} {f : BitVec 2} {dev : BitVec 6} {w2 : Word}
    (h63 : dev = 63 → decodeCpuIo op a f w2 = none)
    (h200 : dev = 3 → c.mapKind = .map200 → decodeMap200Io op a f = none)
    (h230 : dev = 3 → c.mapKind = .map230 → decodeMap230Io op a f = none)
    (h1 : dev = 1 → decodeWcsIo op a f = none) (h2 : dev = 2 → decodeErccIo op a f = none) (h12 : dev = 12 → op ≠ 2) :
    decodeDeviceIo c op a f dev w2 = none := by
  have hdev : ∀ k : BitVec 6, dev.toNat = k.toNat → dev = k := fun k hk => BitVec.eq_of_toNat_eq hk
  unfold decodeDeviceIo
  split
  · exact h63 (hdev 63 ‹_›)
  · cases hk : c.mapKind with
    | none => rfl
    | map200 => exact h200 (hdev 3 ‹_›) hk
    | map230 => exact h230 (hdev 3 ‹_›) hk
  · exact h1 (hdev 1 ‹_›)
  · exact h2 (hdev 2 ‹_›)
  · rw [if_neg (h12 (hdev 12 ‹_›))]
  · rfl

theorem lefMode_of_ioFree {c : DecodeCtx} {o : Bool} (h : ioFree c o = true) : c.lefMode = false ∧ o = false := by
  simpa [ioFree] using h

/-- A well-formed I/O instruction of the general rows is what its word decodes to (30_encoding.md R105). -/
theorem decode_generalIo {c : DecodeCtx} {i : Instr} {a : Acc} {op : BitVec 3} {f : BitVec 2} {dev : BitVec 6} {o : Bool}
    {w2 : Word} (hf : ioFree c o = true) (hi : decodeGeneralIo op.toNat a f dev = i)
    (h : o = false → decodeDeviceIo c op.toNat a f dev w2 = none) : decode c (ioWord a op f dev) w2 = .ok i := by
  obtain ⟨hl, ho⟩ := lefMode_of_ioFree hf
  exact decode_io_eq hl (by rw [h ho]; exact hi)

theorem decode_nio {c : DecodeCtx} {a : Acc} {f : IoF} {dev : BitVec 6} (h : (Instr.nio a f dev).wf c = true) :
    decode c (ioWord a 0 (ioFBits f) dev) 0 = .ok (.nio a f dev) := by
  refine decode_generalIo h (by simp [decodeGeneralIo]) fun ho => decodeDeviceIo_eq_none ?_ ?_ ?_ ?_ ?_ ?_
  all_goals
    rintro rfl
    cases f <;> cases a <;> simp_all [decodeCpuIo, decodeMap200Io, decodeMap230Io, decodeWcsIo, decodeErccIo, ioFBits,
      DecodeCtx.hasMap]

theorem decode_dia {c : DecodeCtx} {a : Acc} {f : IoF} {dev : BitVec 6} (h : (Instr.dia a f dev).wf c = true) :
    decode c (ioWord a 1 (ioFBits f) dev) 0 = .ok (.dia a f dev) := by
  refine decode_generalIo h (by simp [decodeGeneralIo]) fun ho => decodeDeviceIo_eq_none ?_ ?_ ?_ ?_ ?_ ?_
  all_goals
    rintro rfl
    cases f <;> simp_all [decodeMap200Io, decodeMap230Io, decodeWcsIo, ioFBits, mapOwns, DecodeCtx.hasMap]

theorem decode_doa {c : DecodeCtx} {a : Acc} {f : IoF} {dev : BitVec 6} (h : (Instr.doa a f dev).wf c = true) :
    decode c (ioWord a 2 (ioFBits f) dev) 0 = .ok (.doa a f dev) := by
  refine decode_generalIo h (by simp [decodeGeneralIo]) fun ho => decodeDeviceIo_eq_none ?_ ?_ ?_ ?_ ?_ ?_
  all_goals
    rintro rfl
    cases f <;> simp_all [decodeCpuIo, decodeMap200Io, decodeMap230Io, decodeWcsIo, ioFBits, mapOwns, DecodeCtx.hasMap]

theorem decode_dib {c : DecodeCtx} {a : Acc} {f : IoF} {dev : BitVec 6} (h : (Instr.dib a f dev).wf c = true) :
    decode c (ioWord a 3 (ioFBits f) dev) 0 = .ok (.dib a f dev) := by
  refine decode_generalIo h (by simp [decodeGeneralIo]) fun ho => decodeDeviceIo_eq_none ?_ ?_ ?_ ?_ ?_ ?_
  all_goals
    rintro rfl
    simp_all [decodeMap200Io, decodeMap230Io, decodeWcsIo]

theorem decode_dob {c : DecodeCtx} {a : Acc} {f : IoF} {dev : BitVec 6} (h : (Instr.dob a f dev).wf c = true) :
    decode c (ioWord a 4 (ioFBits f) dev) 0 = .ok (.dob a f dev) := by
  refine decode_generalIo h (by simp [decodeGeneralIo]) fun ho => decodeDeviceIo_eq_none ?_ ?_ ?_ ?_ ?_ ?_
  all_goals
    rintro rfl
    cases f <;> simp_all [decodeMap200Io, decodeMap230Io, decodeWcsIo, decodeErccIo, ioFBits, mapOwns, DecodeCtx.hasMap]

theorem decode_dic {c : DecodeCtx} {a : Acc} {f : IoF} {dev : BitVec 6} (h : (Instr.dic a f dev).wf c = true) :
    decode c (ioWord a 5 (ioFBits f) dev) 0 = .ok (.dic a f dev) := by
  refine decode_generalIo h (by simp [decodeGeneralIo]) fun ho => decodeDeviceIo_eq_none ?_ ?_ ?_ ?_ ?_ ?_
  all_goals
    rintro rfl
    cases f <;> simp_all [decodeMap200Io, decodeMap230Io, decodeWcsIo, decodeErccIo, ioFBits, mapOwns, DecodeCtx.hasMap]

theorem decode_doc {c : DecodeCtx} {a : Acc} {f : IoF} {dev : BitVec 6} (h : (Instr.doc a f dev).wf c = true) :
    decode c (ioWord a 6 (ioFBits f) dev) 0 = .ok (.doc a f dev) := by
  refine decode_generalIo h (by simp [decodeGeneralIo]) fun ho => decodeDeviceIo_eq_none ?_ ?_ ?_ ?_ ?_ ?_
  all_goals
    rintro rfl
    cases f <;> simp_all [decodeMap200Io, decodeMap230Io, decodeWcsIo, decodeErccIo, ioFBits, mapOwns, DecodeCtx.hasMap]

theorem decode_skp {c : DecodeCtx} {a : Acc} {t : IoTest} {dev : BitVec 6} (h : (Instr.skp a t dev).wf c = true) :
    decode c (ioWord a 7 (ioTestBits t) dev) 0 = .ok (.skp a t dev) := by
  refine decode_generalIo h (by simp [decodeGeneralIo]) fun ho => decodeDeviceIo_eq_none ?_ ?_ ?_ ?_ ?_ ?_
  all_goals
    rintro rfl
    simp_all [decodeCpuIo, decodeMap200Io, decodeMap230Io, decodeWcsIo, decodeErccIo]

/-- A special row's I/O word (30_encoding.md section 4.11). -/
theorem decode_specialIo {c : DecodeCtx} {i : Instr} {a : Acc} {op : BitVec 3} {f : BitVec 2} {dev : BitVec 6}
    {w2 : Word} (hl : c.lefMode = false) (h : decodeDeviceIo c op.toNat a f dev w2 = some i) :
    decode c (ioWord a op f dev) w2 = .ok i :=
  decode_io_eq hl (by rw [h])

theorem bits2_cases (x : BitVec 2) : x = 0 ∨ x = 1 ∨ x = 2 ∨ x = 3 := by revert x; decide

/-! Rows of table B whose operand is in bits 3-4 (30_encoding.md R104). -/

section SharedSelector

variable {w : Word} {x : BitVec 2}

theorem decodeFloatStatus_fsst {w2 : Word} (h : fld w 1 4 = (0 : BitVec 2) ++ x) (hx : fld w 3 2 = x) :
    decodeFloatStatus w w2 = .ok (.fsst (extMem x w2)) := by
  rcases bits2_cases x with rfl | rfl | rfl | rfl <;> simp [decodeFloatStatus, h, hx]

theorem decodeFloatStatus_flst {w2 : Word} (h : fld w 1 4 = (1 : BitVec 2) ++ x) (hx : fld w 3 2 = x) :
    decodeFloatStatus w w2 = .ok (.flst (extMem x w2)) := by
  rcases bits2_cases x with rfl | rfl | rfl | rfl <;> simp [decodeFloatStatus, h, hx]

theorem decodeCommercial_ldi (h : fld w 1 4 = (0 : BitVec 2) ++ x) (hx : fld w 3 2 = x) :
    decodeCommercial w = .ldi (accOfBits x) := by
  rcases bits2_cases x with rfl | rfl | rfl | rfl <;> simp [decodeCommercial, h, hx]

theorem decodeCommercial_sti (h : fld w 1 4 = (1 : BitVec 2) ++ x) (hx : fld w 3 2 = x) :
    decodeCommercial w = .sti (accOfBits x) := by
  rcases bits2_cases x with rfl | rfl | rfl | rfl <;> simp [decodeCommercial, h, hx]

end SharedSelector

/-- In a MAP variant's own rows the processor is not in LEF mode. -/
theorem mapRow_ctx {c : DecodeCtx} {k : MapKind} (h : (c.mapKind == k && !c.lef) = true) :
    c.mapKind = k ∧ c.lefMode = false := by
  simp only [Bool.and_eq_true, beq_iff_eq, Bool.not_eq_true'] at h
  exact ⟨h.1, by simp [DecodeCtx.lefMode, h.2]⟩

/-- Settles O1, format by format: the fields of an encoded word are the operands, and the decoder's table at its selector is the
instruction. -/
theorem decodeOfEncode : Obligations.DecodeOfEncode := by
  unfold Obligations.DecodeOfEncode
  intro c i hwf
  cases i with
  | com f | neg f | mov f | inc f | adc f | sub f | add f | and f =>
    exact decode_alu_eq hwf fun w hop h1 h2 h3 h4 h5 h6 => by simp [decodeAlu, hop, h1, h2, h3, h4, h5, h6]
  | jmp m | jsr m | isz m | dsz m | lda a m | sta a m =>
    exact decode_short_eq fun w hop ha hm => by simp [decode, hop, ha, hm]
  | lef a m =>
    have hl : c.lefMode = true := hwf
    exact decode_short_eq fun w hop ha hm => by simp [decode, hop, ha, hm, hl]
  | ejmp m | ejsr m | eisz m | edsz m | pshj m | elda a m | esta a m | elef a m | dspa a m =>
    exact decode_tableC_eq fun w hx hy hix hk h14 => by
      simp [decodeTableC, hx, hy, hix, hk, h14, secondWord, extMem_extWord]
  | eldb a x d | estb a x d | iori a v | xori a v | andi a v | addi a v | clm s d | snb s d | msp a | xct a | hlv a =>
    exact decode_tableC_eq fun w hx hy hix hk h14 => by simp [decodeTableC, hx, hy, hix, hk, secondWord]
  | adi n a | sbi n a | hxl n a | hxr n a | dhxl n a | dhxr n a | dad s d | dsb s d | ior s d | xor s d | anc s d | xch s d
  | sgt s d | sge s d | lsh s d | dlsh s d | bto s d | btz s d | szb s d | szbo s d | lob s d | lrb s d | cob s d | ldb s d
  | stb s d | psh s d | pop s d | syc s d =>
    exact decode_tableA_eq fun w hx hy hsel h14 => by simp [decodeTableA, hx, hy, hsel]
  | pshr | popb | bam | popj | rtn | blm | divx | mul | muls | div | divs | rstr | save n =>
    exact decode_tableA_eq fun w hx hy hsel h14 => by simp [decodeTableA, decodeNoOperand, hsel, h14, secondWord]
  | lmp200 | lmp230 =>
    simp only [Instr.wf, beq_iff_eq] at hwf
    exact decode_tableA_eq fun w hx hy hsel h14 => by simp [decodeTableA, decodeLmp, hsel, h14, hwf]
  | xop s d k => exact decode_xop c s d k _
  | xop1 s d k => exact decode_xop1 c s d k _
  | fas s d | fad s d | fss s d | fsd s d | fms s d | fmd s d | fds s d | fdd s d | fcmp s d | fmov s d | flas s d
  | ffas s d =>
    exact decode_tableB_eq fun w hx hy hsel h14 => by simp [decodeTableB, hx, hy, hsel]
  | fams f m | famd f m | fsms f m | fsmd f m | fmms f m | fmmd f m | fdms f m | fdmd f m | flds f m | fldd f m | fsts f m
  | fstd f m | flmd f m | ffmd f m =>
    exact decode_tableB_eq fun w hx hy hsel h14 => by
      simp [decodeTableB, hx, hy, hsel, secondWord, extMem_extWord]
  | fnom f | frh f | fab f | fneg f | fscal f | fexp f | fint f | fhlv f =>
    exact decode_tableB_eq fun w hx hy hsel h14 => by simp [decodeTableB, hx, hy, hsel]
  | fns | fsa | fseq | fsne | fslt | fsge | fsle | fsgt | fsnm | fsnd | fsnu | fsnud | fsno | fsnod | fsnuo | fsner =>
    exact decode_tableB_eq fun w hx hy hsel h14 => by simp [decodeTableB, decodeFloatSkip, hsel, h14]
  | fte | ftd | fcle | fpsh | fpop =>
    exact decode_tableB_eq fun w hx hy hsel h14 => by simp [decodeTableB, decodeFloatStatus, hsel, h14]
  | ldix | stix | cmv | cmp | ctr | cmt | edit | lsn =>
    exact decode_tableB_eq fun w hx hy hsel h14 => by simp [decodeTableB, decodeCommercial, hsel, h14]
  | fsst m =>
    exact decode_tableB_eq fun w hx hy hsel h14 => by
      simp [decodeTableB, hsel, decodeFloatStatus_fsst h14 hy, secondWord, extMem_extWord]
  | flst m =>
    exact decode_tableB_eq fun w hx hy hsel h14 => by
      simp [decodeTableB, hsel, decodeFloatStatus_flst h14 hy, secondWord, extMem_extWord]
  | ldi f => exact decode_tableB_eq fun w hx hy hsel h14 => by simp [decodeTableB, hsel, decodeCommercial_ldi h14 hy]
  | sti f => exact decode_tableB_eq fun w hx hy hsel h14 => by simp [decodeTableB, hsel, decodeCommercial_sti h14 hy]
  | nio a f dev => exact decode_nio hwf
  | dia a f dev => exact decode_dia hwf
  | doa a f dev => exact decode_doa hwf
  | dib a f dev => exact decode_dib hwf
  | dob a f dev => exact decode_dob hwf
  | dic a f dev => exact decode_dic hwf
  | doc a f dev => exact decode_doc hwf
  | skp a t dev => exact decode_skp hwf
  | inta a f =>
    obtain ⟨hl, ho⟩ := lefMode_of_ioFree hwf
    refine decode_specialIo hl ?_
    cases a <;> cases f <;> simp_all [decodeDeviceIo, decodeCpuIo, ioFBits, ioFOfBits]
  | inten | intds | reads a f | msko a f | iorst a f | halt a f | skpCpu t | doaWcs a | dobWcs a | docWcs a | doaErcc a f
  | diaErcc a f | dibErcc a f | doaRtc a f =>
    exact decode_specialIo (lefMode_of_ioFree hwf).1 (by simp [decodeDeviceIo, decodeCpuIo, decodeWcsIo, decodeErccIo])
  | vct b t =>
    obtain ⟨hb, ht⟩ := fld_vctWord b t
    exact decode_specialIo (lefMode_of_ioFree hwf).1 (by simp [decodeDeviceIo, decodeCpuIo, secondWord, hb, ht])
  | doaMap200 a | dobMap200 a | docMap200 a | diaMap200 a | dicMap200 a | niopMap200 =>
    obtain ⟨hk, hl⟩ := mapRow_ctx hwf
    exact decode_specialIo hl (by simp [decodeDeviceIo, decodeMap200Io, hk])
  | doaMap230 a | dobMap230 a | docMap230 a | diaMap230 a | dicMap230 a | niopMap230 =>
    obtain ⟨hk, hl⟩ := mapRow_ctx hwf
    exact decode_specialIo hl (by simp [decodeDeviceIo, decodeMap230Io, hk])

/-! ### What the decoder reads encodes to the same words -/

/-- The instruction is well-formed and is written with these words. -/
def WrittenAs (c : DecodeCtx) (w w2 : Word) (i : Instr) : Prop :=
  i.wf c = true ∧ encode1 i = w ∧ (secondWord i).getD w2 = w2

theorem eq_ofNat_of_toNat {n k : Nat} {x : BitVec n} (h : x.toNat = k) : x = BitVec.ofNat n k := by
  rw [← h, BitVec.ofNat_toNat, BitVec.setWidth_eq]

/-- The operand of an extended class instruction gives its second word back. -/
theorem extWord_extMem (ix : BitVec 2) (w2 : Word) : extWord (extMem ix w2) = w2 := by
  apply BitVec.eq_of_toNat_eq
  have hd : (fld w2 1 15).toNat = w2.toNat % 32768 := by rw [fld_toNat]; omega
  have hi : (fld w2 0 1).toNat = w2.toNat / 32768 := by rw [fld_toNat]; omega
  have hw : (extWord (extMem ix w2)).toNat = (fld w2 0 1).toNat * 32768 + (fld w2 1 15).toNat := by
    show (bitOf (fld w2 0 1 == 1) ++ fld w2 1 15).toNat = _
    rw [toNat_append_eq_add, show bitOf (fld w2 0 1 == 1) = fld w2 0 1 from bitOf_of_beq_one _]
    norm_num
  omega

@[simp] theorem extMem_index (ix : BitVec 2) (w2 : Word) : (extMem ix w2).index = indexOfBits ix := rfl

theorem append_fld_1_4 {w : Word} : fld w 1 4 = fld w 1 2 ++ fld w 3 2 := by
  apply BitVec.eq_of_toNat_eq
  rw [toNat_append_eq_add, fld_toNat, fld_toNat, fld_toNat]
  omega

/-- A row selected by bits 1-4 has its selector in the two accumulator fields. -/
theorem fields_of_fld_1_4 {w : Word} {k : Nat} (h : (fld w 1 4).toNat = k) :
    fld w 1 2 = BitVec.ofNat 2 (k / 4) ∧ fld w 3 2 = BitVec.ofNat 2 (k % 4) := by
  rw [append_fld_1_4, toNat_append_eq_add] at h
  constructor
  all_goals
    apply BitVec.eq_of_toNat_eq
    rw [BitVec.toNat_ofNat]
    omega

theorem eq_fifteen {n : Nat} (hlt : n < 2 ^ 4) (h0 : n ≠ 0) (h1 : n ≠ 1) (h2 : n ≠ 2) (h3 : n ≠ 3) (h4 : n ≠ 4) (h5 : n ≠ 5)
    (h6 : n ≠ 6) (h7 : n ≠ 7) (h8 : n ≠ 8) (h9 : n ≠ 9) (h10 : n ≠ 10) (h11 : n ≠ 11) (h12 : n ≠ 12) (h13 : n ≠ 13)
    (h14 : n ≠ 14) : n = 15 := by omega

section TableReads

variable {c : DecodeCtx} {w w2 : Word} {i : Instr}

theorem decodeNoOperand_reads (hw : w = tableAWord (fld w 1 2) (fld w 3 2) 31#5)
    (h : decodeNoOperand w w2 = .ok i) : WrittenAs c w w2 i := by
  unfold decodeNoOperand at h
  split at h
  case h_14 => cases h
  all_goals
    rename_i hk
    cases h
    obtain ⟨hx, hy⟩ := fields_of_fld_1_4 hk
    rw [hx, hy] at hw
    exact ⟨rfl, hw.symm, rfl⟩

theorem decodeLmp_reads (hw : w = tableAWord (fld w 1 2) (fld w 3 2) 28#5)
    (h : decodeLmp c w = .ok i) : WrittenAs c w w2 i := by
  unfold decodeLmp at h
  split at h
  case isFalse => cases h
  case isTrue hk =>
    obtain ⟨hx, hy⟩ := fields_of_fld_1_4 (k := 2) (by rw [hk]; rfl)
    rw [hx, hy] at hw
    cases hm : c.mapKind <;> rw [hm] at h <;> cases h
    · exact ⟨by simp [Instr.wf, hm], hw.symm, rfl⟩
    · exact ⟨by simp [Instr.wf, hm], hw.symm, rfl⟩

theorem decodeTableA_reads (hw : w = tableAWord (fld w 1 2) (fld w 3 2) (fld w 5 5))
    (h : decodeTableA c w w2 = .ok i) : WrittenAs c w w2 i := by
  unfold decodeTableA at h
  split at h
  case h_28 hk => exact decodeLmp_reads (eq_ofNat_of_toNat hk ▸ hw) h
  case h_30 hk => exact decodeNoOperand_reads (eq_ofNat_of_toNat hk ▸ hw) h
  case h_31 => cases h
  all_goals
    rename_i hk
    cases h
    rw [eq_ofNat_of_toNat hk] at hw
    exact ⟨rfl, by simp only [encode1, accBits_accOfBits]; exact hw.symm, rfl⟩

theorem decodeFloatSkip_reads (hw : w = tableBWord (fld w 1 2) (fld w 3 2) 26#5)
    (h : decodeFloatSkip w = .ok i) : WrittenAs c w w2 i := by
  unfold decodeFloatSkip at h
  split at h
  case h_16 h0 h1 h2 h3 h4 h5 h6 h7 h8 h9 h10 h11 h12 h13 h14 =>
    cases h
    obtain ⟨hx, hy⟩ := fields_of_fld_1_4 (w := w) (k := 15) 
      (eq_fifteen (fld w 1 4).isLt h0 h1 h2 h3 h4 h5 h6 h7 h8 h9 h10 h11 h12 h13 h14)
    rw [hx, hy] at hw
    exact ⟨rfl, hw.symm, rfl⟩
  all_goals
    rename_i hk
    cases h
    obtain ⟨hx, hy⟩ := fields_of_fld_1_4 hk
    rw [hx, hy] at hw
    exact ⟨rfl, hw.symm, rfl⟩

theorem decodeFloatStatus_reads (hw : w = tableBWord (fld w 1 2) (fld w 3 2) 27#5)
    (h : decodeFloatStatus w w2 = .ok i) : WrittenAs c w w2 i := by
  unfold decodeFloatStatus at h
  split at h
  case h_14 => cases h
  case h_1 | h_2 | h_3 | h_4 | h_5 | h_6 | h_7 | h_8 =>
    rename_i hk
    cases h
    rw [(fields_of_fld_1_4 hk).1] at hw
    exact ⟨rfl, by simp only [encode1, extMem_index, indexBits_indexOfBits]; exact hw.symm, extWord_extMem _ _⟩
  all_goals
    rename_i hk
    cases h
    obtain ⟨hx, hy⟩ := fields_of_fld_1_4 hk
    rw [hx, hy] at hw
    exact ⟨rfl, hw.symm, rfl⟩

theorem decodeCommercial_reads (hw : w = tableBWord (fld w 1 2) (fld w 3 2) 30#5) :
    WrittenAs c w w2 (decodeCommercial w) := by
  unfold decodeCommercial
  split
  case h_1 | h_2 | h_3 | h_4 | h_5 | h_6 | h_7 | h_8 =>
    rename_i hk
    rw [(fields_of_fld_1_4 hk).1] at hw
    exact ⟨rfl, by simp only [encode1, accBits_accOfBits]; exact hw.symm, rfl⟩
  case h_16 h0 h1 h2 h3 h4 h5 h6 h7 h8 h9 h10 h11 h12 h13 h14 =>
    obtain ⟨hx, hy⟩ := fields_of_fld_1_4 (w := w) (k := 15) 
      (eq_fifteen (fld w 1 4).isLt h0 h1 h2 h3 h4 h5 h6 h7 h8 h9 h10 h11 h12 h13 h14)
    rw [hx, hy] at hw
    exact ⟨rfl, hw.symm, rfl⟩
  all_goals
    rename_i hk
    obtain ⟨hx, hy⟩ := fields_of_fld_1_4 hk
    rw [hx, hy] at hw
    exact ⟨rfl, hw.symm, rfl⟩

/-- The bits of an accumulator's number, by the accumulator. -/
theorem eq_accBits_of_accOfBits {b : BitVec 2} {a : Acc} (h : accOfBits b = a) : b = accBits a := by
  rw [← h, accBits_accOfBits]

theorem decodeTableB_reads (hw : w = tableBWord (fld w 1 2) (fld w 3 2) (fld w 5 5))
    (h : decodeTableB w w2 = .ok i) : WrittenAs c w w2 i := by
  unfold decodeTableB at h
  split at h
  case h_25 hk =>
    rw [eq_ofNat_of_toNat hk] at hw
    cases h
    generalize hx : accOfBits (fld w 1 2) = x
    rw [eq_accBits_of_accOfBits hx] at hw
    cases x <;> exact ⟨rfl, by simp only [encode1, accBits_accOfBits]; exact hw.symm, rfl⟩
  case h_26 hk =>
    rw [eq_ofNat_of_toNat hk] at hw
    cases h
    generalize hx : accOfBits (fld w 1 2) = x
    rw [eq_accBits_of_accOfBits hx] at hw
    cases x <;> exact ⟨rfl, by simp only [encode1, accBits_accOfBits]; exact hw.symm, rfl⟩
  case h_27 hk => exact decodeFloatSkip_reads (eq_ofNat_of_toNat hk ▸ hw) h
  case h_28 hk => exact decodeFloatStatus_reads (eq_ofNat_of_toNat hk ▸ hw) h
  case h_31 hk =>
    cases h
    exact decodeCommercial_reads (eq_ofNat_of_toNat hk ▸ hw)
  case h_32 => cases h
  case h_1 | h_2 | h_3 | h_4 | h_5 | h_6 | h_7 | h_8 | h_21 | h_23 | h_29 | h_30 =>
    rename_i hk
    cases h
    rw [eq_ofNat_of_toNat hk] at hw
    exact ⟨rfl, by simp only [encode1, accBits_accOfBits]; exact hw.symm, rfl⟩
  all_goals
    rename_i hk
    cases h
    rw [eq_ofNat_of_toNat hk] at hw
    exact ⟨rfl, by simp only [encode1, accBits_accOfBits, extMem_index, indexBits_indexOfBits]; exact hw.symm,
      extWord_extMem _ _⟩

end TableReads

theorem eq_seven {n : Nat} (hlt : n < 2 ^ 3) (h0 : n ≠ 0) (h1 : n ≠ 1) (h2 : n ≠ 2) (h3 : n ≠ 3) (h4 : n ≠ 4) (h5 : n ≠ 5)
    (h6 : n ≠ 6) : n = 7 := by omega

section ExtensionReads

variable {c : DecodeCtx} {w w2 : Word} {i : Instr}

/-- The rows of table C with bits 8-9 = 00. -/
theorem decodeTableC_memory_reads (hw : w = tableCWord (fld w 1 2) (fld w 3 2) (fld w 6 2) 0#2)
    (hk : fld w 8 2 = 0) (h : decodeTableC w w2 = .ok i) : WrittenAs c w w2 i := by
  simp only [decodeTableC, hk] at h
  have hrow : ∀ x, fld w 1 2 = x → w = tableCWord x (fld w 3 2) (indexBits (extMem (fld w 6 2) w2).index) 0#2 := by
    rintro x rfl
    rw [extMem_index, indexBits_indexOfBits]
    exact hw
  rcases bits2_cases (fld w 1 2) with hx | hx | hx | hx
  · simp only [hx] at h
    cases h
    generalize ha : accOfBits (fld w 3 2) = a
    have hrow := hrow _ hx
    rw [eq_accBits_of_accOfBits ha] at hrow
    cases a <;> exact ⟨rfl, hrow.symm, extWord_extMem _ _⟩
  all_goals
    simp only [hx] at h
    cases h
    exact ⟨rfl, by simp only [encode1, accBits_accOfBits]; exact (hrow _ hx).symm, extWord_extMem _ _⟩

/-- The rows of table C with bits 8-9 = 01. -/
theorem decodeTableC_byte_reads (hw : w = tableCWord (fld w 1 2) (fld w 3 2) (fld w 6 2) 1#2)
    (hk : fld w 8 2 = 1) (h : decodeTableC w w2 = .ok i) : WrittenAs c w w2 i := by
  simp only [decodeTableC, hk] at h
  rcases bits2_cases (fld w 1 2) with hx | hx | hx | hx <;> rw [hx] at h hw <;> cases h
  · exact ⟨rfl, by simp only [encode1, accBits_accOfBits, indexBits_indexOfBits]; exact hw.symm, rfl⟩
  · exact ⟨rfl, by simp only [encode1, accBits_accOfBits, indexBits_indexOfBits]; exact hw.symm, rfl⟩
  · exact ⟨rfl, by simp only [encode1, accBits_accOfBits, extMem_index, indexBits_indexOfBits]; exact hw.symm,
      extWord_extMem _ _⟩

/-- The rows of table C with bits 8-9 = 11. -/
theorem decodeTableC_register_reads (hw : w = tableCWord (fld w 1 2) (fld w 3 2) (fld w 6 2) 3#2)
    (hk : fld w 8 2 = 3) (h : decodeTableC w w2 = .ok i) : WrittenAs c w w2 i := by
  simp only [decodeTableC, hk] at h
  rcases bits2_cases (fld w 6 2) with hix | hix | hix | hix <;> rw [hix] at h hw
  case inl | inr.inl =>
    cases h
    exact ⟨rfl, by simp only [encode1, accBits_accOfBits]; exact hw.symm, rfl⟩
  all_goals
    rcases bits2_cases (fld w 1 2) with hx | hx | hx | hx <;> rw [hx] at h hw <;> cases h
    all_goals exact ⟨rfl, by simp only [encode1, accBits_accOfBits]; exact hw.symm, rfl⟩

theorem decodeTableC_reads (hw : w = tableCWord (fld w 1 2) (fld w 3 2) (fld w 6 2) (fld w 8 2))
    (h : decodeTableC w w2 = .ok i) : WrittenAs c w w2 i := by
  rcases bits2_cases (fld w 8 2) with hk | hk | hk | hk
  case inl => exact decodeTableC_memory_reads (by rw [hk] at hw; exact hw) hk h
  case inr.inl => exact decodeTableC_byte_reads (by rw [hk] at hw; exact hw) hk h
  case inr.inr.inr => exact decodeTableC_register_reads (by rw [hk] at hw; exact hw) hk h
  case inr.inr.inl =>
    rw [decodeTableC, hk] at h
    change (if fld w 1 4 = 0 then _ else _) = _ at h
    split at h
    case isFalse => cases h
    case isTrue hz =>
      obtain ⟨hx, hy⟩ := fields_of_fld_1_4 (k := 0) (by rw [hz]; rfl)
      rw [hk, hx, hy] at hw
      cases h
      exact ⟨rfl, by simp only [encode1, extMem_index, indexBits_indexOfBits]; exact hw.symm, extWord_extMem _ _⟩

/-- A word with bit 0 set and the tail 1000 is made of its fields (30_encoding.md R106). -/
theorem extension_fields (hbit : 32768 ≤ w.toNat) (htail : fld w 12 4 = 8) :
    w.toNat = 32768 + (fld w 1 2).toNat * 8192 + (fld w 3 2).toNat * 2048 + (fld w 5 5).toNat * 64
      + (fld w 10 2).toNat * 16 + 8 := by
  have htail := congrArg BitVec.toNat htail
  rw [fld_toNat] at htail
  have h8 : (8 : BitVec 4).toNat = 8 := rfl
  have hlt := w.isLt
  simp only [fld_toNat]
  omega

theorem decodeExtension_reads (hbit : 32768 ≤ w.toNat) (htail : fld w 12 4 = 8)
    (h : decodeExtension c w w2 = .ok i) : WrittenAs c w w2 i := by
  have hfields := extension_fields hbit htail
  unfold decodeExtension at h
  rcases bits2_cases (fld w 10 2) with hk | hk | hk | hk <;> rw [hk] at h hfields
  case inl =>
    exact decodeTableA_reads (BitVec.eq_of_toNat_eq (by rw [tableAWord_toNat, hfields]; rfl)) h
  case inr.inl =>
    cases h
    refine ⟨rfl, BitVec.eq_of_toNat_eq ?_, rfl⟩
    simp only [encode1, accBits_accOfBits]
    rw [xopWord_toNat, hfields]
    rfl
  case inr.inr.inl =>
    exact decodeTableB_reads (BitVec.eq_of_toNat_eq (by rw [tableBWord_toNat, hfields]; rfl)) h
  case inr.inr.inr =>
    have hk3 : (3 : BitVec 2).toNat = 3 := rfl
    have hsel : (fld w 5 5).toNat = (fld w 5 1).toNat * 16 + (fld w 6 4).toNat := by
      simp only [fld_toNat]
      omega
    have hixk : (fld w 6 4).toNat = (fld w 6 2).toNat * 4 + (fld w 8 2).toNat := by
      simp only [fld_toNat]
      omega
    simp only [hk3] at h
    split at h
    case isTrue h5 =>
      cases h
      rw [h5] at hsel
      have h0 : (0 : BitVec 1).toNat = 0 := rfl
      refine ⟨rfl, BitVec.eq_of_toNat_eq ?_, rfl⟩
      simp only [encode1, accBits_accOfBits]
      rw [xop1Word_toNat, hfields]
      omega
    case isFalse h5 =>
      have h1 : (fld w 5 1).toNat = 1 := by
        have hne : (fld w 5 1).toNat ≠ 0 := fun hz => h5 (BitVec.eq_of_toNat_eq hz)
        have := (fld w 5 1).isLt
        omega
      exact decodeTableC_reads (BitVec.eq_of_toNat_eq (by rw [tableCWord_toNat, hfields]; omega)) h

end ExtensionReads

section ShortReads

variable {c : DecodeCtx} {w w2 : Word} {i : Instr}

/-- Every word is the short class word of its fields (30_encoding.md R103). -/
theorem shortWord_shortMem {op : BitVec 3} (hop : fld w 0 3 = op) : shortWord op (fld w 3 2) (shortMem w) = w := by
  apply BitVec.eq_of_toNat_eq
  have hlt := w.isLt
  subst hop
  rw [shortWord_toNat]
  show _ * 8192 + _ * 2048 + (bitOf (fld w 5 1 == 1#1)).toNat * 1024 + (indexBits (indexOfBits (fld w 6 2))).toNat * 256
    + (fld w 8 8).toNat = _
  rw [bitOf_of_beq_one, indexBits_indexOfBits]
  simp only [fld_toNat]
  omega

/-- Every word of the arithmetic/logical class is made of its fields (30_encoding.md R102). -/
theorem decodeAlu_reads (hbit : 32768 ≤ w.toNat) (htail : fld w 12 4 ≠ 8) : WrittenAs c w w2 (decodeAlu w) := by
  have hlt := w.isLt
  have hwf : (!(fld w 12 1 == 1#1 && skipOfBits (fld w 13 3) == .never)) = true := by
    rw [Bool.not_eq_true', Bool.eq_false_iff]
    intro hbad
    obtain ⟨hload, hskip⟩ := Bool.and_eq_true_iff.mp hbad
    rw [beq_iff_eq] at hload hskip
    have hskip : fld w 13 3 = 0#3 := by
      rw [← skipBits_skipOfBits (fld w 13 3), hskip]
      rfl
    apply htail
    apply BitVec.eq_of_toNat_eq
    have h1 := congrArg BitVec.toNat hload
    have h2 := congrArg BitVec.toNat hskip
    have h8 : (8 : BitVec 4).toNat = 8 := rfl
    simp only [fld_toNat, BitVec.toNat_ofNat] at h1 h2 ⊢
    omega
  have hword : ∀ f : Alu, f = Alu.mk (accOfBits (fld w 1 2)) (accOfBits (fld w 3 2)) (shiftOfBits (fld w 8 2))
      (carryOfBits (fld w 10 2)) (fld w 12 1 == 1) (skipOfBits (fld w 13 3)) → aluWord (fld w 5 3) f = w := by
    rintro f rfl
    apply BitVec.eq_of_toNat_eq
    rw [aluWord_toNat]
    show 32768 + (accBits (accOfBits _)).toNat * 8192 + (accBits (accOfBits _)).toNat * 2048 + _
      + (shiftBits (shiftOfBits _)).toNat * 64 + (carryBits (carryOfBits _)).toNat * 16 + (bitOf (fld w 12 1 == 1#1)).toNat * 8
      + (skipBits (skipOfBits _)).toNat = _
    rw [accBits_accOfBits, accBits_accOfBits, shiftBits_shiftOfBits, carryBits_carryOfBits, bitOf_of_beq_one,
      skipBits_skipOfBits]
    simp only [fld_toNat]
    omega
  unfold decodeAlu
  have hop := hword _ rfl
  split
  case h_8 h0 h1 h2 h3 h4 h5 h6 =>
    have h7 : fld w 5 3 = 7#3 := BitVec.eq_of_toNat_eq (eq_seven (fld w 5 3).isLt h0 h1 h2 h3 h4 h5 h6)
    rw [h7] at hop
    exact ⟨hwf, hop, rfl⟩
  all_goals
    rename_i hk
    rw [eq_ofNat_of_toNat hk] at hop
    exact ⟨hwf, hop, rfl⟩

end ShortReads

section IoReads

variable {c : DecodeCtx} {op : BitVec 3} {a : Acc} {f : BitVec 2} {dev : BitVec 6} {w2 : Word} {i : Instr}

/-- The second word of VCT is made of its fields (30_encoding.md R115). -/
theorem vctWord_fields : ((if fld w2 0 1 == 1#1 then 1#1 else 0#1) ++ fld w2 1 15 : Word) = w2 := by
  have hbit : (if fld w2 0 1 == 1#1 then 1#1 else 0#1) = fld w2 0 1 := bitOf_of_beq_one (fld w2 0 1)
  apply BitVec.eq_of_toNat_eq
  rw [hbit, toNat_append_eq_add, fld_toNat, fld_toNat]
  omega

theorem ioFree_of_lefMode (hl : c.lefMode = false) {o : Bool} (ho : o = false) : ioFree c o = true := by
  rw [ioFree, hl, ho]
  rfl

theorem decodeCpuIo_reads (hl : c.lefMode = false) (h : decodeCpuIo op.toNat a f w2 = some i) :
    WrittenAs c (ioWord a op f 63) w2 i := by
  have hfree : ioFree c false = true := ioFree_of_lefMode hl rfl
  unfold decodeCpuIo at h
  split at h
  case h_1 hop =>
    rw [eq_ofNat_of_toNat hop]
    split at h
    case isTrue haf =>
      obtain ⟨rfl, rfl⟩ := haf
      cases h
      exact ⟨hfree, rfl, rfl⟩
    case isFalse =>
      split at h
      case isTrue haf =>
        obtain ⟨rfl, rfl⟩ := haf
        cases h
        exact ⟨hfree, rfl, rfl⟩
      case isFalse => cases h
  case h_3 hop =>
    rw [eq_ofNat_of_toNat hop]
    split at h
    case isTrue haf =>
      obtain ⟨rfl, rfl⟩ := haf
      cases h
      exact ⟨hfree, rfl, vctWord_fields⟩
    case isFalse haf =>
      cases h
      refine ⟨ioFree_of_lefMode hl ?_, by simp [encode1], rfl⟩
      rcases bits2_cases f with rfl | rfl | rfl | rfl <;> cases a <;> simp_all [ioFOfBits]
  case h_7 hop =>
    rw [eq_ofNat_of_toNat hop]
    split at h
    case isTrue ha =>
      subst ha
      cases h
      exact ⟨hfree, by simp [encode1], rfl⟩
    case isFalse => cases h
  case h_8 => cases h
  all_goals
    rename_i hop
    rw [eq_ofNat_of_toNat hop]
    cases h
    exact ⟨hfree, by simp [encode1], rfl⟩

/-- The rows of the device tables whose F field selects the row. -/
theorem reads_of_rowIf {p : Prop} [Decidable p] {j : Instr} {w : Word} (hj : p → WrittenAs c w w2 j)
    (h : (if p then some j else none) = some i) : WrittenAs c w w2 i := by
  split at h
  case isTrue hp =>
    cases h
    exact hj hp
  case isFalse => cases h

theorem decodeMap200Io_reads (hl : c.lefMode = false) (hk : c.mapKind = .map200)
    (h : decodeMap200Io op.toNat a f = some i) : WrittenAs c (ioWord a op f 3) w2 i := by
  have hrow : (c.mapKind == .map200 && !c.lef) = true := by
    simp_all [DecodeCtx.lefMode]
  unfold decodeMap200Io at h
  split at h
  case h_1 hop =>
    rw [eq_ofNat_of_toNat hop]
    refine reads_of_rowIf ?_ h
    rintro ⟨rfl, rfl⟩
    exact ⟨hrow, rfl, rfl⟩
  case h_7 => cases h
  all_goals
    rename_i hop
    rw [eq_ofNat_of_toNat hop]
    refine reads_of_rowIf ?_ h
    rintro rfl
    exact ⟨hrow, rfl, rfl⟩

theorem decodeMap230Io_reads (hl : c.lefMode = false) (hk : c.mapKind = .map230)
    (h : decodeMap230Io op.toNat a f = some i) : WrittenAs c (ioWord a op f 3) w2 i := by
  have hrow : (c.mapKind == .map230 && !c.lef) = true := by
    simp_all [DecodeCtx.lefMode]
  unfold decodeMap230Io at h
  split at h
  case h_1 hop =>
    rw [eq_ofNat_of_toNat hop]
    refine reads_of_rowIf ?_ h
    rintro ⟨rfl, rfl⟩
    exact ⟨hrow, rfl, rfl⟩
  case h_7 => cases h
  all_goals
    rename_i hop
    rw [eq_ofNat_of_toNat hop]
    refine reads_of_rowIf ?_ h
    rintro rfl
    exact ⟨hrow, rfl, rfl⟩

theorem decodeWcsIo_reads (hl : c.lefMode = false) (h : decodeWcsIo op.toNat a f = some i) :
    WrittenAs c (ioWord a op f 1) w2 i := by
  have hfree : ioFree c false = true := ioFree_of_lefMode hl rfl
  unfold decodeWcsIo at h
  split at h
  case h_4 => cases h
  all_goals
    rename_i hop
    rw [eq_ofNat_of_toNat hop]
    refine reads_of_rowIf ?_ h
    rintro rfl
    exact ⟨hfree, rfl, rfl⟩

theorem decodeErccIo_reads (hl : c.lefMode = false) (h : decodeErccIo op.toNat a f = some i) :
    WrittenAs c (ioWord a op f 2) w2 i := by
  have hfree : ioFree c false = true := ioFree_of_lefMode hl rfl
  unfold decodeErccIo at h
  split at h
  case h_4 => cases h
  all_goals
    rename_i hop
    rw [eq_ofNat_of_toNat hop]
    cases h
    exact ⟨hfree, by simp [encode1], rfl⟩

/-- A special row's instruction is written with the word it was read from. -/
theorem decodeDeviceIo_reads (hl : c.lefMode = false) (h : decodeDeviceIo c op.toNat a f dev w2 = some i) :
    WrittenAs c (ioWord a op f dev) w2 i := by
  unfold decodeDeviceIo at h
  split at h
  case h_1 hd => exact eq_ofNat_of_toNat hd ▸ decodeCpuIo_reads hl h
  case h_2 hd =>
    rw [eq_ofNat_of_toNat hd]
    cases hk : c.mapKind <;> rw [hk] at h
    case none => cases h
    case map200 => exact decodeMap200Io_reads hl hk h
    case map230 => exact decodeMap230Io_reads hl hk h
  case h_3 hd => exact eq_ofNat_of_toNat hd ▸ decodeWcsIo_reads hl h
  case h_4 hd => exact eq_ofNat_of_toNat hd ▸ decodeErccIo_reads hl h
  case h_5 hd =>
    rw [eq_ofNat_of_toNat hd]
    refine reads_of_rowIf ?_ h
    intro hop
    rw [eq_ofNat_of_toNat hop]
    exact ⟨ioFree_of_lefMode hl rfl, by simp [encode1], rfl⟩
  case h_6 => cases h

theorem eq_zero_of_ioF_none (h : ioFOfBits f = .none) : f = 0 := by
  rcases bits2_cases f with rfl | rfl | rfl | rfl
  · rfl
  all_goals cases h

/-- A word of device 3 that the MAP owns has a row in the table of the MAP's variant (46_map.md R327). -/
theorem mapOwns_row {n : Nat} (hm : mapOwns c (ioFOfBits f) dev = true) (h200 : (decodeMap200Io n a 0).isSome = true)
    (h230 : (decodeMap230Io n a 0).isSome = true) (h : decodeDeviceIo c n a f dev w2 = none) : False := by
  simp only [mapOwns, Bool.and_eq_true, beq_iff_eq] at hm
  obtain ⟨⟨hhas, rfl⟩, hf⟩ := hm
  rw [eq_zero_of_ioF_none hf] at h
  cases hk : c.mapKind with
  | none => simp [DecodeCtx.hasMap, hk] at hhas
  | map200 =>
    have hnone : decodeMap200Io n a 0 = none := by simpa [decodeDeviceIo, hk] using h
    rw [hnone] at h200
    cases h200
  | map230 =>
    have hnone : decodeMap230Io n a 0 = none := by simpa [decodeDeviceIo, hk] using h
    rw [hnone] at h230
    cases h230

/-- An I/O word that no special row owns is a well-formed instruction of the general rows. -/
theorem decodeGeneralIo_wf (hl : c.lefMode = false) (h : decodeDeviceIo c op.toNat a f dev w2 = none) :
    (decodeGeneralIo op.toNat a f dev).wf c = true := by
  unfold decodeGeneralIo
  split
  case h_1 hop =>
    rw [hop] at h
    refine ioFree_of_lefMode hl (Bool.eq_false_iff.mpr fun ho => ?_)
    simp only [Bool.or_eq_true, Bool.and_eq_true, beq_iff_eq] at ho
    rcases bits2_cases f with rfl | rfl | rfl | rfl <;> rcases ho with ⟨⟨rfl, rfl⟩, hf⟩ | ⟨⟨⟨hm, rfl⟩, rfl⟩, hf⟩ <;>
      cases hk : c.mapKind <;>
      simp_all [decodeDeviceIo, decodeCpuIo, decodeMap200Io, decodeMap230Io, ioFOfBits, DecodeCtx.hasMap]
  case h_2 hop =>
    rw [hop] at h
    refine ioFree_of_lefMode hl (Bool.eq_false_iff.mpr fun ho => ?_)
    simp only [Bool.or_eq_true, beq_iff_eq] at ho
    rcases ho with (rfl | rfl) | hm
    · simp [decodeDeviceIo, decodeCpuIo] at h
    · simp [decodeDeviceIo, decodeErccIo] at h
    · exact mapOwns_row hm (by simp [decodeMap200Io]) (by simp [decodeMap230Io]) h
  case h_3 hop =>
    rw [hop] at h
    refine ioFree_of_lefMode hl (Bool.eq_false_iff.mpr fun ho => ?_)
    simp only [Bool.or_eq_true, Bool.and_eq_true, beq_iff_eq] at ho
    rcases ho with ((rfl | rfl) | ⟨rfl, hf⟩) | hm
    · simp [decodeDeviceIo, decodeErccIo] at h
    · simp [decodeDeviceIo] at h
    · simp [decodeDeviceIo, decodeWcsIo, eq_zero_of_ioF_none hf] at h
    · exact mapOwns_row hm (by simp [decodeMap200Io]) (by simp [decodeMap230Io]) h
  case h_4 hop =>
    rw [hop] at h
    refine ioFree_of_lefMode hl (Bool.eq_false_iff.mpr fun ho => ?_)
    simp only [Bool.or_eq_true, beq_iff_eq] at ho
    rcases ho with rfl | rfl
    · change (if a = .a0 ∧ f = 3 then some _ else some _) = none at h
      split at h <;> cases h
    · simp [decodeDeviceIo, decodeErccIo] at h
  case h_5 hop | h_7 hop =>
    rw [hop] at h
    refine ioFree_of_lefMode hl (Bool.eq_false_iff.mpr fun ho => ?_)
    simp only [Bool.or_eq_true, Bool.and_eq_true, beq_iff_eq] at ho
    rcases ho with (rfl | ⟨rfl, hf⟩) | hm
    · simp [decodeDeviceIo, decodeCpuIo] at h
    · simp [decodeDeviceIo, decodeWcsIo, eq_zero_of_ioF_none hf] at h
    · exact mapOwns_row hm (by simp [decodeMap200Io]) (by simp [decodeMap230Io]) h
  case h_6 hop =>
    rw [hop] at h
    refine ioFree_of_lefMode hl (Bool.eq_false_iff.mpr fun ho => ?_)
    simp only [Bool.or_eq_true, beq_iff_eq] at ho
    rcases ho with rfl | hm
    · simp [decodeDeviceIo, decodeCpuIo] at h
    · exact mapOwns_row hm (by simp [decodeMap200Io]) (by simp [decodeMap230Io]) h
  case h_8 h0 h1 h2 h3 h4 h5 h6 =>
    have hop : op.toNat = 7 := eq_seven op.isLt h0 h1 h2 h3 h4 h5 h6
    rw [hop] at h
    refine ioFree_of_lefMode hl (Bool.eq_false_iff.mpr fun ho => ?_)
    simp only [Bool.and_eq_true, beq_iff_eq] at ho
    obtain ⟨rfl, rfl⟩ := ho
    simp [decodeDeviceIo, decodeCpuIo] at h

/-- Every word whose first bits are 011 is the I/O word of its fields (30_encoding.md R105). -/
theorem ioWord_fields {w : Word} (h : (fld w 0 3).toNat = 3) :
    ioWord (accOfBits (fld w 3 2)) (fld w 5 3) (fld w 8 2) (fld w 10 6) = w := by
  apply BitVec.eq_of_toNat_eq
  rw [ioWord_toNat, accBits_accOfBits]
  simp only [fld_toNat] at h ⊢
  omega

theorem encode1_decodeGeneralIo : encode1 (decodeGeneralIo op.toNat a f dev) = ioWord a op f dev := by
  unfold decodeGeneralIo
  split
  case h_8 h0 h1 h2 h3 h4 h5 h6 =>
    have hop : op = 7#3 := BitVec.eq_of_toNat_eq (eq_seven op.isLt h0 h1 h2 h3 h4 h5 h6)
    rw [hop, encode1, ioTestBits_ioTestOfBits]
    rfl
  all_goals
    rename_i hop
    rw [eq_ofNat_of_toNat hop]
    simp [encode1]

theorem secondWord_decodeGeneralIo (n : Nat) : secondWord (decodeGeneralIo n a f dev) = none := by
  unfold decodeGeneralIo
  split <;> rfl

theorem decodeIo_reads {w : Word} (hl : c.lefMode = false) (h : (fld w 0 3).toNat = 3) :
    WrittenAs c w w2 (decodeIo c w w2) := by
  have hw := ioWord_fields h
  unfold decodeIo
  dsimp only
  split
  case h_1 j hj => exact hw ▸ decodeDeviceIo_reads hl hj
  case h_2 hn =>
    exact ⟨decodeGeneralIo_wf hl hn, by rw [encode1_decodeGeneralIo, hw], by rw [secondWord_decodeGeneralIo]; rfl⟩

theorem decodeShort_reads {w : Word} (h : (fld w 0 3).toNat = 0) :
    WrittenAs c w w2 (match (fld w 3 2).toNat with
      | 0 => .jmp (shortMem w)
      | 1 => .jsr (shortMem w)
      | 2 => .isz (shortMem w)
      | _ => .dsz (shortMem w)) := by
  have hw := shortWord_shortMem (eq_ofNat_of_toNat h)
  rcases bits2_cases (fld w 3 2) with hx | hx | hx | hx <;> rw [hx] at hw ⊢
  all_goals exact ⟨rfl, hw, rfl⟩

end IoReads

/-- Settles O2, along the decoder's tables: every row builds its instruction from the fields of the word. -/
theorem encodeOfDecode : Obligations.EncodeOfDecode := by
  unfold Obligations.EncodeOfDecode
  intro c w w2 i h
  show WrittenAs c w w2 i
  unfold decode at h
  split at h
  case h_1 hop =>
    cases h
    exact decodeShort_reads hop
  case h_2 hop | h_3 hop =>
    cases h
    exact ⟨rfl, by rw [encode1, accBits_accOfBits]; exact shortWord_shortMem (eq_ofNat_of_toNat hop), rfl⟩
  case h_4 hop =>
    split at h <;> cases h
    case isTrue hl =>
      exact ⟨hl, by rw [encode1, accBits_accOfBits]; exact shortWord_shortMem (eq_ofNat_of_toNat hop), rfl⟩
    case isFalse hl => exact decodeIo_reads (Bool.eq_false_iff.mpr hl) hop
  case h_5 h0 h1 h2 h3 =>
    have hbit : 32768 ≤ w.toNat := by
      have hne : ∀ k < 4, (fld w 0 3).toNat ≠ k := by
        intro k hk
        interval_cases k
        exacts [h0, h1, h2, h3]
      have h4 : 4 ≤ (fld w 0 3).toNat := by
        by_contra hlt
        exact hne _ (by omega) rfl
      rw [fld_toNat] at h4
      omega
    split at h
    case isTrue htail => exact decodeExtension_reads hbit htail h
    case isFalse htail =>
      cases h
      exact decodeAlu_reads hbit htail

end Sys2Proof.Proofs.Encoding
end

section
/-! SUPPORT. The invariant of memory and FPSR along every instruction and every step (10_state.md R24; 20_memory.md R61, R65):
a rule keeps it because the operations it is made of do. -/

namespace Sys2Proof.Proofs.Invariant

open Host (Outcome)
open Sys2Proof Sys2Proof.Machine

-- Theorems elaborated side by side each hold a thread's stack, and the memory limit is near.
set_option Elab.async false

/-! ### The status register: single bits (10_state.md R24) -/

/-- Writing a bit of the status register changes that bit only. -/
theorem fpsrBit_setFpsrBit (r : BitVec 32) {i : Nat} (hi : i < 32) (v : Bool) (j : Nat) :
    fpsrBit (setFpsrBit r i v) j = if j = i then v else fpsrBit r j := by
  have hmask : ∀ k, (0x80000000#32 >>> i).getLsbD k = decide (i + k = 31) := by
    intro k
    have htop : 0x80000000#32 = BitVec.twoPow 32 31 := rfl
    rw [BitVec.getLsbD_ushiftRight, htop, BitVec.getLsbD_twoPow]
    simp [eq_comm]
  unfold fpsrBit setFpsrBit BitVec.getMsbD
  by_cases hj : j < 32
  · have hbit : (i + (32 - 1 - j) = 31) ↔ j = i := by omega
    have hk : 32 - 1 - j < 32 := by omega
    cases v
    · simp only [Bool.false_eq_true, if_false, BitVec.getLsbD_and, BitVec.getLsbD_not, hmask, hbit, hk, hj, decide_true,
        Bool.true_and]
      by_cases hji : j = i <;> simp [hji]
    · simp only [if_true, BitVec.getLsbD_or, hmask, hbit, hj, decide_true, Bool.true_and]
      by_cases hji : j = i <;> simp [hji]
  · have hne : j ≠ i := by omega
    simp [hj, hne]

theorem fpsrBit_setFppc (r : BitVec 32) (pc : Addr) {j : Nat} (hj : j < 17) : fpsrBit (setFppc r pc) j = fpsrBit r j := by
  unfold fpsrBit setFppc BitVec.getMsbD
  simp only [BitVec.getLsbD_append, BitVec.getLsbD_extractLsb']
  have h1 : ¬ (32 - 1 - j < 15) := by omega
  have h2 : 32 - 1 - j - 15 < 17 := by omega
  have h3 : 15 + (32 - 1 - j - 15) = 32 - 1 - j := by omega
  simp [h1, h2, h3]

/-- ANY is the OR of the error bits. -/
def AnyFollows (r : BitVec 32) : Prop := fpsrBit r 0 = fpsrError r

theorem AnyFollows.of_bits {q r : BitVec 32} (h : AnyFollows r) (hb : ∀ j < 5, fpsrBit q j = fpsrBit r j) : AnyFollows q := by
  unfold AnyFollows fpsrError at h ⊢
  rw [hb 0 (by omega), hb 1 (by omega), hb 2 (by omega), hb 3 (by omega), hb 4 (by omega), h]

theorem AnyFollows.fixAny (r : BitVec 32) : AnyFollows (fixAny r) := fpsr_fixAny r

theorem AnyFollows.setFpsrBit {r : BitVec 32} (h : AnyFollows r) {i : Nat} (h5 : 5 ≤ i) (hi : i < 32) (v : Bool) :
    AnyFollows (setFpsrBit r i v) :=
  h.of_bits fun j hj => by rw [fpsrBit_setFpsrBit r hi, if_neg (by omega)]

theorem AnyFollows.setZN {r : BitVec 32} (h : AnyFollows r) (z n : Bool) : AnyFollows (setZN r z n) :=
  (h.setFpsrBit (by omega) (by omega) z).setFpsrBit (by omega) (by omega) n

theorem AnyFollows.zeroNegative {r : BitVec 32} (h : AnyFollows r) (x : Quad) : AnyFollows (zeroNegative r x) := h.setZN _ _

theorem AnyFollows.setFppc {r : BitVec 32} (h : AnyFollows r) (pc : Addr) : AnyFollows (setFppc r pc) :=
  h.of_bits fun _ hj => fpsrBit_setFppc r pc (by omega)

/-- With bits 0 to 4 cleared there is no error and ANY is 0. -/
theorem AnyFollows.of_cleared {r : BitVec 32} (hb : ∀ j < 5, fpsrBit r j = false) : AnyFollows r := by
  unfold AnyFollows fpsrError
  rw [hb 0 (by omega), hb 1 (by omega), hb 2 (by omega), hb 3 (by omega), hb 4 (by omega)]
  rfl

theorem fpsrBit_and (r m : BitVec 32) (j : Nat) : fpsrBit (r &&& m) j = (fpsrBit r j && fpsrBit m j) :=
  BitVec.getMsbD_and

theorem anyFollows_of_inv {s : State} (h : s.inv = true) : AnyFollows s.fpsr := ((State.inv_iff s).1 h).2.2

/-! ### Updates of the state -/

/-- A change of nothing but elements the invariant does not speak of. -/
theorem inv_of_same {s t : State} (h : s.inv = true) (hm : t.mem = s.mem) (hc : t.cfg = s.cfg) (hf : t.fpsr = s.fpsr) :
    t.inv = true := (State.inv_congr hm hc hf).trans h

theorem inv_floatResult {s : State} (h : s.inv = true) (f : Acc) (r : FloatResult) : (s.floatResult f r).inv = true :=
  State.inv_setFpsr (State.inv_setFpac h f _) (((AnyFollows.fixAny _).zeroNegative _).setFppc _)

theorem inv_markFppc {s : State} (h : s.inv = true) : s.markFppc.inv = true :=
  State.inv_setFpsr h ((anyFollows_of_inv h).setFppc _)

theorem inv_divideResult {s : State} (h : s.inv = true) (f : Acc) (b : Quad) (single : Bool) :
    (s.divideResult f b single).inv = true := by
  unfold State.divideResult
  split
  · exact State.inv_setFpsr h ((AnyFollows.fixAny _).setFppc _)
  · exact inv_floatResult h f _

theorem inv_fixStatus {s : State} (h : s.inv = true) (overflow : Bool) : (s.fixStatus overflow).inv = true :=
  State.inv_setFpsr h (((AnyFollows.fixAny _).setZN _ _).setFppc _)

theorem inv_setAcPair {s : State} (h : s.inv = true) (d : Acc) (v : BitVec 32) : (s.setAcPair d v).inv = true :=
  State.inv_setAc (State.inv_setAc h _ _) _ _

theorem inv_aluFinish {s : State} (h : s.inv = true) (f : Alu) (t : Nat) : (aluFinish f s t).inv = true := by
  unfold aluFinish
  dsimp only
  split
  · exact h
  · exact State.inv_setAc h _ _

theorem inv_ionF {s : State} (h : s.inv = true) (f : IoF) : (s.ionF f).inv = true := by
  cases f
  case start =>
    unfold State.ionF
    dsimp only
    split
    · exact h
    · exact h
  all_goals exact h

theorem inv_flagsAt {s : State} (h : s.inv = true) (f : IoF) (dev : BitVec 6) : (s.flagsAt f dev).inv = true := by
  unfold State.flagsAt
  split
  · exact inv_ionF h f
  all_goals exact h

/-! ### The operations of each unit -/

theorem keeps_setAc (n : Acc) (v : State → Word) : Keeps (modify fun t => t.setAc n (v t)) :=
  .modify fun _ h => State.inv_setAc h _ _

theorem keeps_floatResult (f : Acc) (r : State → FloatResult) : Keeps (modify fun t => t.floatResult f (r t)) :=
  .modify fun _ h => inv_floatResult h _ _

theorem keeps_jumpTo (e : Addr) : Keeps (jumpTo e) := .modify fun _ h => h

theorem keeps_eaShortSingle (m : ShortMem) : Keeps (eaShortSingle m) :=
  .bind .get fun _ => .ite _ (.bind (.chase eaBus_kept _ _ _ _ _) fun _ => .pure _) (.pure _)

theorem keeps_singleUse {m : Exec Unit} (hm : Keeps m) : Keeps (singleUse m) := by
  intro s h
  have hk := hm s h
  unfold singleUse
  split
  · rename_i hr
    rw [hr] at hk
    exact hk
  · rename_i hr
    rw [hr] at hk
    dsimp only [stateOf]
    split
    · exact hk
    · exact hk
  · exact hk

theorem keeps_bitPointer (acs acd : Acc) : Keeps (bitPointer acs acd) :=
  .bind .get fun _ => .ite _ (.bind (.indirect _) fun _ => .pure _) (.bind (.pure _) fun _ => .pure _)

theorem keeps_modifySkip (len : Addr) (d : Word) (e : Addr) : Keeps (modifySkip len d e) :=
  .bind (.memRead _) fun _ => .bind (.memWrite _ _) fun _ => .advanceSkip _ _

theorem keeps_jumpThrough (w : Word) : Keeps (jumpThrough w) :=
  .ite _ (.bind (.indirect _) fun _ => keeps_jumpTo _) (keeps_jumpTo _)

theorem keeps_blockLoop (f : Word → Word) : ∀ n, Keeps (blockLoop f n)
  | 0 => .pure _
  | n + 1 => .bind .get fun _ => .bind (.memRead _) fun _ => .bind (.memWrite _ _) fun _ => .bind (.modify fun _ h => h) fun _ =>
      .bind .get fun _ => .ite _ .suspendInstr (keeps_blockLoop f n)

theorem keeps_blockMove (f : Word → Word) : Keeps (blockMove f) :=
  .bind .get fun _ => .ite _ (.advance _)
    (.bind (.resolveAcAddr _) fun _ => .bind (.resolveAcAddr _) fun _ => .bind (keeps_blockLoop f _) fun _ => .advance _)

theorem keeps_modifyMap (f : MapUnit → MapUnit) : Keeps (modifyMap f) := .modify fun _ h => h

theorem keeps_lmpLoop (load : MapUnit → Word → MapUnit) : ∀ n, Keeps (lmpLoop load n)
  | 0 => .pure _
  | n + 1 => .bind .get fun _ => .bind (.memRead _) fun _ => .bind (keeps_modifyMap _) fun _ =>
      .bind (.modify fun _ h => h) fun _ => .bind .get fun _ => .ite _ .suspendInstr (keeps_lmpLoop load n)

theorem keeps_blockCheck : Keeps blockCheck := by
  refine .bind .get fun s => ?_
  cases s.map.selected230 with
  | none => exact .bind .freshWord fun _ => .pure _
  | some t => exact .pure _

theorem keeps_inputAt (buf : Buffer) (dev : BitVec 6) : Keeps (inputAt buf dev) := by
  refine .bind .get fun s => ?_
  split
  · exact .pure _
  · split
    case h_4 => exact keeps_blockCheck
    all_goals exact .pure _
  · exact .pure _

theorem keeps_outputAt (buf : Buffer) (dev : BitVec 6) (v : Word) : Keeps (outputAt buf dev v) := by
  unfold outputAt
  refine .bind_get fun s h => ?_
  cases s.unitAt dev
  case map =>
    cases s.cfg.mapKind <;> cases buf <;> exact h
  case wcs =>
    cases buf
    all_goals exact h
  all_goals exact h

theorem keeps_ioEnd (f : IoF) (dev : BitVec 6) : Keeps (ioEnd f dev) :=
  .bind (.modify fun _ h => inv_flagsAt h _ _) fun _ => .advance _

theorem keeps_dataIn (buf : Buffer) (ac : Acc) (f : IoF) (dev : BitVec 6) : Keeps (dataIn buf ac f dev) :=
  .bind (.ioGuard _) fun _ => .bind (keeps_inputAt _ _) fun _ => .bind (keeps_setAc _ _) fun _ => .bind .get fun _ =>
    keeps_ioEnd _ _

theorem keeps_dataOut (buf : Buffer) (ac : Acc) (f : IoF) (dev : BitVec 6) : Keeps (dataOut buf ac f dev) :=
  .bind (.ioGuard _) fun _ => .bind .get fun _ => .bind (keeps_outputAt _ _ _) fun _ => keeps_ioEnd _ _

/-- An I/O RESET clears the status register's bits 0 to 5 (10_state.md R45). -/
theorem anyFollows_ioReset (r : BitVec 32) : AnyFollows (r &&& 0x03FFFFFF#32) :=
  .of_cleared fun j hj => by
    have hm : fpsrBit 0x03FFFFFF#32 j = false := by
      interval_cases j <;> rfl
    rw [fpsrBit_and, hm, Bool.and_false]

theorem keeps_ioReset : Keeps ioReset :=
  .bind .freshWord fun _ => .bind .freshWord fun _ => .bind .freshWord fun _ => .bind .freshWord fun _ =>
    .bind .freshWord fun _ => .bind .freshWord fun _ => .bind (.modify fun _ h => h) fun _ =>
      .bind (.modify fun _ h => State.inv_setFpsr h (anyFollows_ioReset _)) fun _ => .bind (.modify fun _ h => h) fun _ =>
        .bind (.modify fun _ h => h) fun _ => .bind (.modify fun _ h => h) fun _ => .modify fun _ h => h

theorem keeps_stackChange : Keeps stackChange :=
  .bind (.memRead _) fun _ => .bind (.memRead _) fun _ => .bind (.memRead _) fun _ => .bind (.memRead _) fun _ =>
    .bind (.memRead _) fun _ => .bind (.memWrite _ _) fun _ => .bind (.memRead _) fun _ => .bind (.memWrite _ _) fun _ =>
      .bind (.memRead _) fun _ => .bind (.memWrite _ _) fun _ => .bind (.push _) fun _ => .bind (.push _) fun _ =>
        .bind (.push _) fun _ => .push _

theorem keeps_mapDataOut (ac : Acc) {f : Word → Exec Unit} (hf : ∀ v, Keeps (f v)) : Keeps (mapDataOut ac f) :=
  .bind (.ioGuard _) fun _ => .bind .get fun _ => .bind (hf _) fun _ => .advance _

theorem keeps_mapDataIn (ac : Acc) {f : Exec Word} (hf : Keeps f) : Keeps (mapDataIn ac f) :=
  .bind (.ioGuard _) fun _ => .bind hf fun _ => .bind (keeps_setAc _ _) fun _ => .advance _

theorem keeps_wcsOut (ac : Acc) {f : State → Word → State} (hf : ∀ s v, s.inv = true → (f s v).inv = true) :
    Keeps (wcsOut ac f) :=
  .bind (.ioGuard _) fun _ => .bind (.modify fun s h => by
    split
    · exact hf _ _ h
    · exact h) fun _ => .advance _

theorem keeps_readSingle (e : Addr) : Keeps (readSingle e) := .bind (.memRead2 _) fun _ => .pure _

theorem keeps_fpIssue {body : Exec Unit} (hb : Keeps body) : Keeps (fpIssue body) :=
  .bind .get fun _ => .ite _ .floatingPointFault hb

theorem keeps_floatInstr {body : Exec Unit} (hb : Keeps body) : Keeps (floatInstr body) :=
  .bind .get fun _ => .ite _ (keeps_fpIssue hb) (.advance _)

theorem keeps_floatSkip (c : BitVec 32 → Bool) : Keeps (floatSkip c) :=
  keeps_floatInstr (.bind .get fun _ => .advanceSkip _ _)

/-- A floating point instruction between accumulators. -/
theorem keeps_floatReg (f : Acc) (r : State → FloatResult) :
    Keeps (floatInstr do
      modify fun t => t.floatResult f (r t)
      advance 1) :=
  keeps_floatInstr (.bind (keeps_floatResult _ _) fun _ => .advance _)

/-- A floating point instruction with a source in memory. -/
theorem keeps_floatMem {α : Type} (m : ExtMem) {rd : Addr → Exec α} (hrd : ∀ e, Keeps (rd e)) {f : State → α → State}
    (hf : ∀ s a, s.inv = true → (f s a).inv = true) :
    Keeps (floatInstr do
      let e ← eaExt m
      let b ← rd e
      modify fun t => f t b
      advance 2) :=
  keeps_floatInstr (.bind (.eaExt _) fun e => .bind (hrd e) fun _ => .bind (.modify fun _ h => hf _ _ h) fun _ => .advance _)

theorem keeps_pushAccs (last : Acc) : ∀ n i, Keeps (pushAccs last n i)
  | 0, _ => .bind .get fun _ => .push _
  | n + 1, _ => .bind .get fun _ => .bind (.push _) fun _ => .ite _ (.pure _) (keeps_pushAccs last n _)

theorem keeps_popAccs (last : Acc) : ∀ n i, Keeps (popAccs last n i)
  | 0, _ => .bind .pop fun _ => keeps_setAc _ _
  | n + 1, _ => .bind .pop fun _ => .bind (keeps_setAc _ _) fun _ => .ite _ (.pure _) (keeps_popAccs last n _)

theorem keeps_extendedOperation (acs acd : Acc) (op : Addr) : Keeps (extendedOperation acs acd op) :=
  .bind .get fun _ => .bind (.pushBlock _) fun _ => .bind (.memRead _) fun _ => .bind (.modify fun _ h => h) fun _ =>
    .bind (.memRead _) fun _ => .bind (.memRead _) fun _ => .bind (keeps_jumpThrough _) fun _ => .bind .get fun _ =>
      .checkOverflow _

theorem keeps_divideSigned (n : Int) : Keeps (divideSigned n) := by
  unfold divideSigned
  refine .bind_get fun s h => ?_
  cases signedDivide n s.ac2.toInt with
  | none => exact h
  | some qr => exact h

/-! ### Commercial instructions -/

theorem keeps_decodeField : ∀ rs p x, Keeps (decodeField rs p x)
  | [], _, _ => .pure _
  | r :: rs, p, x => by
    unfold decodeField
    refine .bind (.byteRead _) fun b => ?_
    split
    · exact .pure _
    · exact keeps_decodeField rs _ _

theorem keeps_readBytes : ∀ n p, Keeps (readBytes n p)
  | 0, _ => .pure _
  | n + 1, _ => .bind (.byteRead _) fun _ => .bind (keeps_readBytes n _) fun _ => .pure _

theorem keeps_writeBytes : ∀ bs p, Keeps (writeBytes bs p)
  | [], _ => .pure _
  | _ :: bs, _ => .bind (.byteWrite _ _) fun _ => keeps_writeBytes bs _

theorem keeps_decimalFault {α : Type} (code p next : Word) : Keeps (decimalFault code p next : Exec α) :=
  .bind (.modify fun _ h => h) fun _ => .commercialFault _

theorem keeps_decimalFaultFree {α : Type} (code p : Word) : Keeps (decimalFaultFree code p : Exec α) :=
  .bind .freshWord fun _ => keeps_decimalFault _ _ _

theorem keeps_loadInteger (x : Attribute) (p : Word) : Keeps (loadInteger x p) := by
  refine .ite _ (.bind (keeps_decodeField _ _ _) fun r => ?_) (.ite _ (.bind (keeps_readBytes _ _) fun _ => .ite _ (.pure _) (.pure _))
    (.ite _ (.pure _) (.bind (keeps_readBytes _ _) fun _ => .pure _)))
  split
  · exact .pure _
  · exact .ite _ (.pure _) (.pure _)

theorem keeps_signOfNumber (x : Attribute) (p : Word) : Keeps (signOfNumber x p) := by
  refine .ite _ (.bind (keeps_decodeField _ _ _) fun r => ?_) (.bind (keeps_readBytes _ _) fun _ => .ite _ (.pure _) (.pure _))
  split
  · exact .pure _
  · exact .pure _

theorem keeps_spoilByte (p : Word) : Keeps (spoilByte p) :=
  .bind .freshWord fun _ => .modify fun s h => by
    cases s.translate false true (bytePtrAddr p) with
    | ok pa => exact State.inv_physWrite h _ _
    | error _ => exact h

theorem keeps_spoilBytes : ∀ n p, Keeps (spoilBytes n p)
  | 0, _ => .pure _
  | n + 1, p => .bind (keeps_spoilByte p) fun _ => keeps_spoilBytes n _

theorem keeps_sourceByte : Keeps sourceByte := .bind .get fun _ => .ite _ (.pure _) (.byteRead _)

theorem keeps_targetByte : Keeps targetByte := .bind .get fun _ => .ite _ (.pure _) (.byteRead _)

theorem keeps_moveLoop : ∀ n, Keeps (moveLoop n)
  | 0 => .pure _
  | n + 1 => .bind keeps_sourceByte fun _ => .bind (.modify fun _ h => h) fun _ => .bind .get fun _ =>
      .bind (.byteWrite _ _) fun _ => .bind (.modify fun _ h => h) fun _ => keeps_moveLoop n

theorem keeps_compareLoop : ∀ n, Keeps (compareLoop n)
  | 0 => .pure _
  | n + 1 => by
    unfold compareLoop
    refine .bind keeps_sourceByte fun _ => .bind keeps_targetByte fun _ => ?_
    split
    · exact .pure _
    · exact .bind (.modify fun _ h => h) fun _ => keeps_compareLoop n

theorem keeps_translateMove (tbl : Word) : ∀ n, Keeps (translateMove tbl n)
  | 0 => .pure _
  | n + 1 => .bind .get fun _ => .bind (.byteRead _) fun _ => .bind (.byteRead _) fun _ => .bind (.byteWrite _ _) fun _ =>
      .bind (.modify fun _ h => h) fun _ => keeps_translateMove tbl n

theorem keeps_translateCompare (tbl : Word) : ∀ n, Keeps (translateCompare tbl n)
  | 0 => .pure _
  | n + 1 => by
    unfold translateCompare
    refine .bind .get fun _ => .bind (.byteRead _) fun _ => .bind (.byteRead _) fun _ => .bind (.byteRead _) fun _ =>
      .bind (.byteRead _) fun _ => ?_
    split
    · exact .pure _
    · exact .bind (.modify fun _ h => h) fun _ => keeps_translateCompare tbl n

theorem keeps_moveUntil (a : Addr) : ∀ n, Keeps (moveUntil a n)
  | 0 => .pure _
  | n + 1 => .bind .get fun _ => .bind (.byteRead _) fun _ => .bind (.bind (.memRead _) fun _ => .pure _) fun _ =>
      .ite _ (.pure _) (.bind (.byteWrite _ _) fun _ => .bind (.modify fun _ h => h) fun _ => keeps_moveUntil a n)

/-! ### EDIT -/

theorem keeps_editFault {α : Type} (e : Edit) (code : Word) : Keeps (editFault e code : Exec α) :=
  .bind (.modify fun _ h => h) fun _ => .commercialFault _

theorem keeps_editPut (e : Edit) (c : Byte) : Keeps (e.put c) := .bind (.byteWrite _ _) fun _ => .pure _

theorem keeps_operand (e : Edit) (k : Word) : Keeps (e.operand k) := .byteRead _

theorem keeps_digitAt (e : Edit) : Keeps e.digitAt := by
  refine .ite _ (.pure _) (.bind (.byteRead _) fun b => .ite _ ?_ (.ite _ ?_ ?_))
  all_goals
    split
    · exact .pure _
    · exact keeps_editFault _ _

theorem keeps_nextDigit (e : Edit) : Keeps e.nextDigit :=
  .bind (keeps_digitAt e) fun _ => .ite _ (.bind .freshWord fun _ => .pure _) (.pure _)

theorem keeps_repeatCount (j : Byte) : Keeps (repeatCount j) :=
  .ite _ (.bind (.memRead _) fun _ => .bind (.memRead _) fun _ => .pure _) (.pure _)

theorem keeps_stackWord (k : Byte) : Keeps (stackWord k) := .bind (.memRead _) fun _ => .pure _

theorem keeps_repeatEdit {body : Edit → Exec Edit} (hb : ∀ e, Keeps (body e)) : ∀ n e, Keeps (repeatEdit body n e)
  | 0, _ => .pure _
  | n + 1, _ => .bind (hb _) fun _ => keeps_repeatEdit hb n _

theorem keeps_moveChar (alpha : Bool) (e : Edit) : Keeps (Edit.moveChar alpha e) :=
  .bind (.byteRead _) fun _ => .ite _ (keeps_editFault _ _) (.bind (keeps_editPut _ _) fun _ => .pure _)

theorem keeps_moveChars (alpha : Bool) (e : Edit) : Keeps (e.moveChars alpha) :=
  .bind (keeps_operand _ _) fun _ => .ite _ (keeps_editFault _ _) (.bind (keeps_repeatCount _) fun _ =>
    .bind (keeps_repeatEdit (keeps_moveChar alpha) _ _) fun _ => .pure _)

theorem keeps_moveDigit (e : Edit) : Keeps e.moveDigit := .bind (keeps_nextDigit _) fun _ => keeps_editPut _ _

theorem keeps_suppressDigit (fill : Byte) (e : Edit) : Keeps (Edit.suppressDigit fill e) :=
  .bind (keeps_nextDigit _) fun _ => .ite _ (keeps_editPut _ _) (keeps_editPut _ _)

theorem keeps_floatDigit (fill plus minus : Byte) (e : Edit) : Keeps (Edit.floatDigit fill plus minus e) :=
  .bind (keeps_nextDigit _) fun _ => .ite _ (keeps_editPut _ _) (.ite _ (keeps_editPut _ _)
    (.bind (keeps_editPut _ _) fun _ => keeps_editPut _ _))

theorem keeps_editRun (e : Edit) (o : EditOp) : Keeps (e.run o) := by
  cases o with
  | dend | dsso | dssz | dsto | dstz => exact .pure _
  | dndf =>
    exact .bind (keeps_operand _ _) fun _ => .bind (keeps_operand _ _) fun _ => .ite _ (.pure _)
      (.bind (keeps_editPut _ _) fun _ => .pure _)
  | dstk =>
    exact .bind (keeps_operand _ _) fun _ => .bind (keeps_operand _ _) fun _ => .bind (keeps_stackWord _) fun _ =>
      .bind (.memWrite _ _) fun _ => .pure _
  | ddtk =>
    exact .bind (keeps_operand _ _) fun _ => .bind (keeps_operand _ _) fun _ => .bind (keeps_stackWord _) fun _ =>
      .bind (.memRead _) fun _ => .bind (.memWrite _ _) fun _ => .ite _ (.pure _) (.pure _)
  | dapu | dasi | dadi => exact .bind (keeps_operand _ _) fun _ => .pure _
  | daps | dapt => exact .bind (keeps_operand _ _) fun _ => .ite _ (.pure _) (.pure _)
  | dint | dins =>
    exact .bind (keeps_operand _ _) fun _ => .bind (keeps_operand _ _) fun _ => .bind (keeps_editPut _ _) fun _ => .pure _
  | dinc => exact .bind (keeps_operand _ _) fun _ => .bind (keeps_editPut _ _) fun _ => .pure _
  | dmvc | dmva => exact keeps_moveChars _ _
  | dmvo =>
    exact .bind (keeps_operand _ _) fun _ => .bind (keeps_operand _ _) fun _ => .bind (keeps_operand _ _) fun _ =>
      .bind (keeps_operand _ _) fun _ => .bind (keeps_nextDigit _) fun _ =>
        .ite _ (.bind (keeps_editPut _ _) fun _ => .pure _) (.bind (keeps_editPut _ _) fun _ => .pure _)
  | dmvn =>
    exact .bind (keeps_operand _ _) fun _ => .bind (keeps_repeatCount _) fun _ =>
      .bind (keeps_repeatEdit keeps_moveDigit _ _) fun _ => .pure _
  | dmvf =>
    exact .bind (keeps_operand _ _) fun _ => .bind (keeps_operand _ _) fun _ => .bind (keeps_operand _ _) fun _ =>
      .bind (keeps_operand _ _) fun _ => .bind (keeps_repeatCount _) fun _ =>
        .bind (keeps_repeatEdit (keeps_floatDigit _ _ _) _ _) fun _ => .pure _
  | dimc =>
    exact .bind (keeps_operand _ _) fun _ => .bind (keeps_operand _ _) fun _ => .bind (keeps_repeatCount _) fun _ =>
      .bind (keeps_repeatEdit (fun x => keeps_editPut x _) _ _) fun _ => .pure _
  | dmvs =>
    exact .bind (keeps_operand _ _) fun _ => .bind (keeps_operand _ _) fun _ => .bind (keeps_repeatCount _) fun _ =>
      .bind (keeps_repeatEdit (keeps_suppressDigit _) _ _) fun _ => .pure _
  | dici =>
    exact .bind (keeps_operand _ _) fun _ => .bind (keeps_repeatCount _) fun _ =>
      .bind (keeps_repeatEdit (fun x => .bind (.byteRead _) fun _ => .bind (keeps_editPut x _) fun _ => .pure _) _ _)
        fun _ => .pure _

theorem keeps_editLoop : ∀ fuel e, Keeps (editLoop fuel e)
  | 0, _ => .throw _
  | fuel + 1, e => by
    unfold editLoop
    refine .bind (.byteRead _) fun _ => .bind .get fun _ => ?_
    split
    · exact keeps_editFault _ _
    · exact keeps_editRun _ _
    · exact .bind (keeps_editRun _ _) fun _ => keeps_editLoop fuel _

theorem keeps_editSign (x : Attribute) (p : Word) : Keeps (editSign x p) := by
  unfold editSign
  split
  case h_5 => exact .pure _
  all_goals exact .bind (.byteRead _) fun _ => .pure _

/-! ### Each instruction -/

/-- Whatever state an outcome goes on with has the invariant. -/
def Preserved (o : Outcome State Fault Refusal) : Prop := ∀ t, o = .next t → t.inv = true

theorem preserved_next {t : State} (h : t.inv = true) : Preserved (.next t) := by
  intro u hu
  cases hu
  exact h

theorem preserved_runExec {m : Exec Unit} (hm : Keeps m) {s : State} (h : s.inv = true) : Preserved (runExec m s) :=
  fun _ ht => hm.next h ht

theorem preserved_executeFrom {m : Exec Instr} (hm : Keeps m) {ex : Instr → State → Outcome State Fault Refusal}
    (hex : ∀ i t, t.inv = true → Preserved (ex i t)) {s : State} (h : s.inv = true) : Preserved (executeFrom m ex s) := by
  have hk := hm s h
  unfold executeFrom
  split
  · rename_i hr
    rw [hr] at hk
    exact hex _ _ hk
  · rename_i hr
    rw [hr] at hk
    exact preserved_next hk
  · exact preserved_next (hm.stuckIn h)
  · exact fun _ ht => by cases ht

/-- LDIX and STIX leave Z and N any value. -/
theorem inv_setZN {s : State} (h : s.inv = true) (z n : Bool) : (s.setFpsr (setZN s.fpsr z n)).inv = true :=
  State.inv_setFpsr h ((anyFollows_of_inv h).setZN z n)

theorem preserved_execLdi (fpac : Acc) {s : State} (h : s.inv = true) : Preserved (execLdi fpac s) := by
  refine preserved_runExec ?_ h
  refine .bind (.needsEap _) fun _ => .bind (keeps_loadInteger _ _) fun r => ?_
  cases r with
  | error e => exact keeps_decimalFault _ _ _
  | ok r =>
    exact .bind .freshWord fun _ => .bind (.modify fun t h =>
      State.inv_setFpsr (State.inv_setFpac h _ _) ((anyFollows_of_inv h).zeroNegative _)) fun _ => .advance _

theorem preserved_execSti (fpac : Acc) {s : State} (h : s.inv = true) : Preserved (execSti fpac s) := by
  refine preserved_runExec ?_ h
  exact .bind (.needsEap _) fun _ => .ite _ (.bind (keeps_spoilBytes _ _) fun _ => keeps_decimalFaultFree _ _)
    (.bind (.modify fun _ h => h) fun _ => .bind (keeps_writeBytes _ _) fun _ => .bind .freshWord fun _ =>
      .bind (.modify fun _ h => h) fun _ => .advance _)

theorem inv_loadedEight {s : State} (h : s.inv = true) (q0 q1 q2 q3 : Quad) (z n : Bool) (p v : Word) :
    (((((((s.setFpac0 q0).setFpac1 q1).setFpac2 q2).setFpac3 q3).setFpsr (setZN s.fpsr z n)).setAc2 p).setAc3 v).inv
      = true := inv_of_same (inv_setZN h z n) (by simp) (by simp) (by simp)

theorem preserved_execLdix {s : State} (h : s.inv = true) : Preserved (execLdix s) := by
  refine preserved_runExec ?_ h
  refine .bind (.needsEap _) fun _ => .ite _ (keeps_decimalFaultFree _ _) (.bind (keeps_decodeField _ _ _) fun r => ?_)
  cases r with
  | error e => exact keeps_decimalFaultFree _ _
  | ok d =>
    exact .bind .freshWord fun _ => .bind .freshWord fun _ => .bind (.modify fun _ h => inv_loadedEight h _ _ _ _ _ _ _ _) fun _ =>
      .advance _

theorem preserved_execStix {s : State} (h : s.inv = true) : Preserved (execStix s) := by
  refine preserved_runExec ?_ h
  exact .bind (.needsEap _) fun _ => .ite _ (keeps_decimalFaultFree _ _)
    (.bind (.modify fun _ h => h) fun _ => .bind (keeps_writeBytes _ _) fun _ => .bind .freshWord fun _ =>
      .bind (.modify fun _ h => inv_setZN h _ _) fun _ => .advance _)

theorem preserved_execLsn {s : State} (h : s.inv = true) : Preserved (execLsn s) := by
  refine preserved_runExec ?_ h
  refine .bind (.needsEap _) fun _ => .bind (keeps_signOfNumber _ _) fun r => ?_
  cases r with
  | error e => exact keeps_decimalFaultFree _ _
  | ok r => exact .bind .freshWord fun _ => .bind (.modify fun _ h => h) fun _ => .advance _

theorem preserved_execEdit {s : State} (h : s.inv = true) : Preserved (execEdit s) := by
  refine preserved_runExec ?_ h
  refine .bind (.needsEap _) fun _ => .ite _ (.throw _) (.ite _ (.commercialFault _) (.bind (keeps_editSign _ _) fun r => ?_))
  cases r with
  | error c => exact .commercialFault _
  | ok neg =>
    exact .bind (keeps_editLoop _ _) fun _ => .bind .freshWord fun _ => .bind (.modify fun _ h => h) fun _ => .advance _

theorem keeps_vectorThrough (change : Bool) (dct : Addr) : Keeps (vectorThrough change dct) := by
  have hend : ∀ d0 : Word, Keeps (do
      modify fun s => s.setAc2 (wordOfAddr dct)
      let old ← memRead 5
      push old
      let new ← memRead (dct + 1)
      let cur ← memRead 5
      modify fun s => s.setAc0 (new ||| cur)
      memWrite 5 (new ||| cur)
      modify fun s => (s.setMask (new ||| cur)).ionF .start
      modify fun s => s.setPc (addrOf d0)
      checkOverflow (addrOf d0)) := fun d0 =>
    .bind (.modify fun _ h => h) fun _ => .bind (.memRead _) fun _ => .bind (.push _) fun _ => .bind (.memRead _) fun new =>
      .bind (.memRead _) fun cur => .bind (.modify fun _ h => h) fun _ => .bind (.memWrite _ _) fun _ =>
        .bind (.modify fun s h => inv_ionF (s := s.setMask (new ||| cur)) h _) fun _ => .bind (.modify fun _ h => h) fun _ =>
          .checkOverflow _
  unfold vectorThrough
  dsimp only
  split
  · exact .bind keeps_stackChange fun _ => .bind (.memRead _) fun d0 =>
      .ite _ (.bind (.memRead _) fun _ => .bind (.pushBlock _) fun _ => hend d0) (hend d0)
  · exact .bind (.memRead _) fun d0 => .ite _ (.bind (.memRead _) fun _ => .bind (.pushBlock _) fun _ => hend d0) (hend d0)

theorem execInner_preserves (i : Instr) {s : State} (h : s.inv = true) : Preserved (execInner i s) := by
  cases i with
  | com f | neg f | mov f | inc f | adc f | sub f | add f | and f => exact preserved_next (inv_aluFinish h f _)
  | adi n a | sbi n a | hxl n a | hxr n a | addi a v | hlv a | iori a v | xori a v | andi a v | ior c d | xor c d | anc c d
  | lsh c d | lob c d | cob c d => exact preserved_next (State.inv_setAc h _ _)
  | xch c d => exact preserved_next (State.inv_setAc (State.inv_setAc h _ _) _ _)
  | lrb c d =>
    refine preserved_next (State.inv_setAc ?_ _ _)
    split
    · exact h
    · exact State.inv_setAc h _ _
  | dhxl n a | dhxr n a | dlsh c d => exact preserved_next (inv_setAcPair h _ _)
  | mul | muls => exact preserved_next h
  | div =>
    show Preserved (if _ then _ else _)
    split
    · exact preserved_next h
    · exact preserved_next h
  | divs | divx =>
    refine preserved_runExec ?_ h
    exact keeps_divideSigned _
  | dad c d | dsb c d =>
    refine preserved_runExec ?_ h
    exact .ite _
      (.bind .freshWord fun _ => .bind (.modify fun s h => State.inv_setAc (s := s) h d _) fun _ => .advance _)
      (.bind (.modify fun s h => State.inv_setAc (s := s) h d _) fun _ => .advance _)
  | sgt c d | sge c d | xct a => exact preserved_next h
  | jmp m =>
    refine preserved_runExec ?_ h
    exact .bind (.eaShort _) fun _ => keeps_jumpTo _
  | ejmp m =>
    refine preserved_runExec ?_ h
    exact .bind (.eaExt _) fun _ => keeps_jumpTo _
  | jsr m =>
    refine preserved_runExec ?_ h
    exact .bind (.eaShort _) fun _ => .bind (.modify fun _ h => h) fun _ => keeps_jumpTo _
  | ejsr m =>
    refine preserved_runExec ?_ h
    exact .bind (.eaExt _) fun _ => .bind (.modify fun _ h => h) fun _ => keeps_jumpTo _
  | isz m | dsz m =>
    refine preserved_runExec ?_ h
    exact .bind (.eaShort _) fun _ => keeps_modifySkip _ _ _
  | eisz m | edsz m =>
    refine preserved_runExec ?_ h
    exact .bind (.eaExt _) fun _ => keeps_modifySkip _ _ _
  | lda a m =>
    refine preserved_runExec ?_ h
    exact keeps_singleUse (.bind (keeps_eaShortSingle _) fun _ => .bind (.readBus _ _) fun _ =>
      .bind (keeps_setAc _ _) fun _ => .advance _)
  | sta a m =>
    refine preserved_runExec ?_ h
    exact keeps_singleUse (.bind (keeps_eaShortSingle _) fun _ => .bind .get fun _ =>
      .bind (.writeBus _ _ _) fun _ => .advance _)
  | lef a m =>
    refine preserved_runExec ?_ h
    exact .bind (.eaShort _) fun _ => .bind (keeps_setAc _ _) fun _ => .advance _
  | elef a m =>
    refine preserved_runExec ?_ h
    exact .bind (.eaExt _) fun _ => .bind (keeps_setAc _ _) fun _ => .advance _
  | elda a m =>
    refine preserved_runExec ?_ h
    exact .bind (.eaExt _) fun _ => .bind (.memRead _) fun _ => .bind (keeps_setAc _ _) fun _ => .advance _
  | esta a m =>
    refine preserved_runExec ?_ h
    exact .bind (.eaExt _) fun _ => .bind .get fun _ => .bind (.memWrite _ _) fun _ => .advance _
  | pshj m =>
    refine preserved_runExec ?_ h
    exact .bind (.push _) fun _ => .bind (.eaExt _) fun _ => .bind (keeps_jumpTo _) fun _ =>
      .checkOverflow _
  | dspa a m =>
    refine preserved_runExec ?_ h
    exact .bind (.eaExt _) fun _ => .bind (.memRead _) fun _ => .bind (.memRead _) fun _ =>
      .ite _ (.advance _) (.bind (.memRead _) fun _ => .ite _ (.advance _) (keeps_jumpThrough _))
  | eldb a x d =>
    refine preserved_runExec ?_ h
    exact .bind (.needsEap _) fun _ => .bind (.byteRead _) fun _ => .bind (keeps_setAc _ _) fun _ =>
      .advance _
  | estb a x d =>
    refine preserved_runExec ?_ h
    exact .bind (.needsEap _) fun _ => .bind (.byteWrite _ _) fun _ => .advance _
  | ldb c d =>
    refine preserved_runExec ?_ h
    exact .bind (.byteRead _) fun _ => .bind (keeps_setAc _ _) fun _ => .advance _
  | stb c d =>
    refine preserved_runExec ?_ h
    exact .bind (.byteWrite _ _) fun _ => .advance _
  | bto c d | btz c d =>
    refine preserved_runExec ?_ h
    exact .bind (keeps_bitPointer _ _) fun _ => .bind (.memRead _) fun _ => .bind (.memWrite _ _) fun _ =>
      .advance _
  | szb c d | snb c d =>
    refine preserved_runExec ?_ h
    exact .bind (keeps_bitPointer _ _) fun _ => .bind (.memRead _) fun _ => .advanceSkip _ _
  | szbo c d =>
    refine preserved_runExec ?_ h
    exact .bind (keeps_bitPointer _ _) fun _ => .bind (.memRead _) fun _ => .bind (.memWrite _ _) fun _ =>
      .advanceSkip _ _
  | psh c d =>
    refine preserved_runExec ?_ h
    exact .bind (keeps_pushAccs _ _ _) fun _ => .bind (.advance _) fun _ => .checkOverflow _
  | pop c d =>
    refine preserved_runExec ?_ h
    exact .bind (keeps_popAccs _ _ _) fun _ => .bind (.advance _) fun _ => .checkUnderflow _
  | pshr =>
    refine preserved_runExec ?_ h
    exact .bind (.push _) fun _ => .bind (.advance _) fun _ => .checkOverflow _
  | syc c d =>
    have hjump : Keeps (if c = .a0 ∧ d = .a0 then jumpIndirect 2 else do
        pushBlock (s.pc + 1)
        jumpIndirect 2
        let t ← get
        checkOverflow t.pc) :=
      .ite _ (.jumpIndirect _) (.bind (.pushBlock _) fun _ => .bind (.jumpIndirect _) fun _ => .bind .get fun _ =>
        .checkOverflow _)
    refine preserved_runExec ?_ h
    exact .ite _ (.bind (.modify fun _ h => h) fun _ => hjump) hjump
  | clm c d =>
    refine preserved_runExec ?_ h
    exact .bind (.memRead _) fun _ => .bind (.memRead _) fun _ => .advanceSkip _ _
  | msp a =>
    refine preserved_runExec ?_ h
    exact .bind (.memRead _) fun _ => .bind (.memRead _) fun _ => .ite _ (.stackFault _)
      (.bind (.memWrite _ _) fun _ => .advance _)
  | save n =>
    refine preserved_runExec ?_ h
    exact .bind (.memRead _) fun _ => .bind (.memRead _) fun _ => .ite _ (.stackFault _)
      (.bind (.push _) fun _ => .bind (.push _) fun _ => .bind (.push _) fun _ => .bind (.memRead _) fun _ =>
        .bind (.push _) fun _ => .bind (.push _) fun _ => .bind (.memRead _) fun _ => .bind (.memWrite _ _) fun _ =>
          .bind (.modify fun _ h => h) fun _ => .bind (.memWrite _ _) fun _ => .advance _)
  | popb =>
    refine preserved_runExec ?_ h
    exact .bind .popBlock fun _ => .bind .get fun _ => .bind (.checkUnderflow _) fun _ =>
      .enablePendingUser
  | popj =>
    refine preserved_runExec ?_ h
    exact .bind .pop fun _ => .bind (keeps_jumpTo _) fun _ => .bind (.checkUnderflow _) fun _ =>
      .enablePendingUser
  | rtn =>
    refine preserved_runExec ?_ h
    exact .bind (.memRead _) fun _ => .bind (.memWrite _ _) fun _ => .bind .popBlock fun _ =>
      .bind .get fun _ => .bind (.memWrite _ _) fun _ => .bind (.checkUnderflow _) fun _ => .enablePendingUser
  | rstr =>
    refine preserved_runExec ?_ h
    exact .bind (.memRead _) fun _ => .bind (.memRead _) fun _ => .bind (.modify fun _ h => h) fun _ =>
      .bind (.memRead _) fun _ => .bind (.modify fun _ h => h) fun _ => .bind (.memRead _) fun _ =>
      .bind (.modify fun _ h => h) fun _ => .bind (.memRead _) fun _ => .bind (.modify fun _ h => h) fun _ =>
      .bind (.memRead _) fun _ => .bind (.modify fun _ h => h) fun _ => .bind (.memRead _) fun _ =>
      .bind (.memWrite _ _) fun _ => .bind (.memRead _) fun _ => .bind (.memWrite _ _) fun _ => .bind (.memRead _) fun _ =>
      .bind (.memWrite _ _) fun _ => .bind (.memRead _) fun _ => .bind (.memWrite _ _) fun _ => .enablePendingUser
  | bam | blm =>
    refine preserved_runExec ?_ h
    exact keeps_blockMove _
  | lmp200 | lmp230 =>
    refine preserved_runExec ?_ h
    exact .ite _ (.advance _) (.bind (.resolveAcAddr _) fun _ => .bind (keeps_lmpLoop _ _) fun _ =>
      .advance _)
  | xop c d k =>
    refine preserved_runExec ?_ h
    exact keeps_extendedOperation _ _ _
  | xop1 c d k =>
    show Preserved (if _ then _ else _)
    split
    · split
      · exact preserved_next (State.inv_given h _)
      · exact fun _ ht => by cases ht
    · refine preserved_runExec ?_ h
      exact keeps_extendedOperation _ _ _
  | fas f g | fad f g | fss f g | fsd f g | fms f g | fmd f g | fmov f g | flas a g =>
    refine preserved_runExec ?_ h
    exact keeps_floatReg _ _
  | fnom f | fab f | fneg f | fscal f | fexp f | fhlv f =>
    refine preserved_runExec ?_ h
    exact keeps_floatReg _ _
  | fds f g | fdd f g =>
    refine preserved_runExec ?_ h
    exact keeps_floatInstr (.bind (.modify fun _ h => inv_divideResult h _ _ _) fun _ => .advance _)
  | fcmp f g =>
    refine preserved_runExec ?_ h
    exact keeps_floatInstr (.bind (.modify fun _ h =>
      State.inv_setFpsr h (((anyFollows_of_inv h).setZN _ _).setFppc _)) fun _ => .advance _)
  | fams f m | fsms f m | fmms f m | flds f m =>
    refine preserved_runExec ?_ h
    exact keeps_floatMem _ keeps_readSingle fun _ _ h => inv_floatResult h _ _
  | famd f m | fsmd f m | fmmd f m | fldd f m =>
    refine preserved_runExec ?_ h
    exact keeps_floatMem _ .memRead4 fun _ _ h => inv_floatResult h _ _
  | fdms f m =>
    refine preserved_runExec ?_ h
    exact keeps_floatMem _ keeps_readSingle fun _ _ h => inv_divideResult h _ _ _
  | fdmd f m =>
    refine preserved_runExec ?_ h
    exact keeps_floatMem _ .memRead4 fun _ _ h => inv_divideResult h _ _ _
  | flmd f m =>
    refine preserved_runExec ?_ h
    exact keeps_floatMem _ .memRead2 fun _ _ h => inv_floatResult h _ _
  | flst m =>
    refine preserved_runExec ?_ h
    exact keeps_floatMem _ .memRead2 fun _ _ h => State.inv_setFpsr h (AnyFollows.fixAny _)
  | fsts f m =>
    refine preserved_runExec ?_ h
    exact keeps_floatInstr (.bind (.eaExt _) fun _ => .bind (.memWrite2 _ _) fun _ =>
      .bind (.modify fun _ h => inv_markFppc h) fun _ => .advance _)
  | fstd f m =>
    refine preserved_runExec ?_ h
    exact keeps_floatInstr (.bind (.eaExt _) fun _ => .bind (.memWrite4 _ _) fun _ =>
      .bind (.modify fun _ h => inv_markFppc h) fun _ => .advance _)
  | fsst m =>
    refine preserved_runExec ?_ h
    exact keeps_floatInstr (.bind (.eaExt _) fun _ => .bind (.memWrite2 _ _) fun _ => .advance _)
  | ffas a f =>
    refine preserved_runExec ?_ h
    exact keeps_floatInstr (.bind (.modify fun _ h => inv_fixStatus (State.inv_setAc h _ _) _) fun _ =>
      .advance _)
  | ffmd f m =>
    refine preserved_runExec ?_ h
    exact keeps_floatInstr (.bind (.eaExt _) fun _ =>
      .bind (.modify fun _ h => State.inv_setFpsr h (AnyFollows.fixAny _)) fun _ => .bind (.memWrite2 _ _) fun _ =>
        .bind (.modify fun _ h => inv_fixStatus h _) fun _ => .advance _)
  | frh f =>
    refine preserved_runExec ?_ h
    exact keeps_floatInstr (.bind (.modify fun _ h => inv_markFppc (State.inv_setAc (n := .a0) h _)) fun _ =>
      .advance _)
  | fint f =>
    refine preserved_runExec ?_ h
    exact .bind (.needsEap _) fun _ =>
      keeps_fpIssue (.bind (keeps_floatResult _ _) fun _ => .advance _)
  | fte | ftd =>
    refine preserved_runExec ?_ h
    exact keeps_floatInstr (.bind (.modify fun _ h =>
      State.inv_setFpsr h ((anyFollows_of_inv h).setFpsrBit (by omega) (by omega) _)) fun _ => .advance _)
  | fcle =>
    refine preserved_runExec ?_ h
    exact keeps_floatInstr (.bind (.modify fun _ h => State.inv_setFpsr h (AnyFollows.of_cleared fun j hj => by
      have hm : fpsrBit 0x07FFFFFF#32 j = false := by interval_cases j <;> rfl
      rw [fpsrBit_and, hm, Bool.and_false])) fun _ => .advance _)
  | fpsh =>
    refine preserved_runExec ?_ h
    exact .ite _ (.bind (.memRead _) fun _ => .bind (.pushAbove _ _) fun _ => .bind (.pushAbove _ _) fun _ =>
      .bind (.pushQuad _ _) fun _ => .bind (.pushQuad _ _) fun _ => .bind (.pushQuad _ _) fun _ =>
        .bind (.pushQuad _ _) fun _ => .bind (.memWrite _ _) fun _ => .bind (.advance _) fun _ => .checkOverflow _) (.advance _)
  | fpop =>
    refine preserved_runExec ?_ h
    exact .ite _ (.bind (.memRead _) fun _ => .bind (.popQuad _) fun _ => .bind (.popQuad _) fun _ =>
      .bind (.popQuad _) fun _ => .bind (.popQuad _) fun _ => .bind (.memRead _) fun _ => .bind (.memRead _) fun _ =>
        .bind (.memWrite _ _) fun _ => .bind (.modify fun _ h => State.inv_setFpsr h (AnyFollows.fixAny _)) fun _ =>
          .bind (.advance _) fun _ => .checkUnderflow _) (.advance _)
  | fns | fsa | fseq | fsne | fslt | fsge | fsle | fsgt | fsnm | fsnd | fsnu | fsnud | fsno | fsnod | fsnuo | fsner =>
    refine preserved_runExec ?_ h
    exact keeps_floatSkip _
  | ldi f => exact preserved_execLdi f h
  | cmv =>
    refine preserved_runExec ?_ h
    exact .bind (.needsEap _) fun _ => .bind (.modify fun _ h => h) fun _ => .bind (keeps_moveLoop _) fun _ =>
      .advance _
  | cmp =>
    refine preserved_runExec ?_ h
    exact .bind (.needsEap _) fun _ => .bind (keeps_compareLoop _) fun _ => .bind (.modify fun _ h => h) fun _ =>
      .advance _
  | ctr =>
    refine preserved_runExec ?_ h
    exact .bind (.needsEap _) fun _ => .bind (.resolveAcAddr _) fun _ => .bind .get fun _ =>
      .bind (.memRead _) fun _ => .ite _ (.bind (keeps_translateMove _ _) fun _ => .advance _)
        (.bind (keeps_translateCompare _ _) fun _ => .bind (.modify fun _ h => h) fun _ => .advance _)
  | cmt =>
    refine preserved_runExec ?_ h
    exact .bind (.needsEap _) fun _ => .bind (.resolveAcAddr _) fun _ => .bind .get fun _ =>
      .bind (keeps_moveUntil _ _) fun _ => .advance _
  | sti f => exact preserved_execSti f h
  | ldix => exact preserved_execLdix h
  | stix => exact preserved_execStix h
  | lsn => exact preserved_execLsn h
  | edit => exact preserved_execEdit h
  | nio a f dev =>
    refine preserved_runExec ?_ h
    exact .bind (.ioGuard _) fun _ => .ite _ (.bind (keeps_modifyMap _) fun _ => keeps_ioEnd _ _)
      (keeps_ioEnd _ _)
  | dia a f dev | dib a f dev | dic a f dev =>
    refine preserved_runExec ?_ h
    exact keeps_dataIn _ _ _ _
  | doa a f dev | dob a f dev | doc a f dev =>
    refine preserved_runExec ?_ h
    exact keeps_dataOut _ _ _ _
  | skp a t dev | skpCpu t =>
    refine preserved_runExec ?_ h
    exact .bind (.ioGuard _) fun _ => .advanceSkip _ _
  | inten | intds =>
    refine preserved_runExec ?_ h
    exact .bind (.ioGuard _) fun _ => keeps_ioEnd _ _
  | reads a f | inta a f =>
    refine preserved_runExec ?_ h
    exact .bind (.ioGuard _) fun _ => .bind (keeps_setAc _ _) fun _ => keeps_ioEnd _ _
  | msko a f =>
    refine preserved_runExec ?_ h
    exact .bind (.ioGuard _) fun _ => .bind (.modify fun _ h => h) fun _ => keeps_ioEnd _ _
  | iorst a f =>
    refine preserved_runExec ?_ h
    exact .bind (.ioGuard _) fun _ => .bind keeps_ioReset fun _ => keeps_ioEnd _ _
  | halt a f =>
    refine preserved_runExec ?_ h
    exact .bind (.ioGuard _) fun _ => .bind (.modify fun _ h => inv_ionF h _) fun _ =>
      .bind (.modify fun _ h => h) fun _ => .bind (.advance _) fun _ => .modify fun _ h => h
  | vct b t =>
    refine preserved_runExec ?_ h
    exact .bind (.ioGuard _) fun _ => .bind (.memRead _) fun _ => .ite _ (keeps_vectorThrough _ _) (.modify fun _ h => h)
  | doaMap200 a | dobMap200 a | docMap200 a | doaMap230 a | dobMap230 a | docMap230 a =>
    refine preserved_runExec ?_ h
    exact keeps_mapDataOut _ fun _ => keeps_modifyMap _
  | diaMap200 a | diaMap230 a | dicMap200 a =>
    refine preserved_runExec ?_ h
    exact keeps_mapDataIn _ (.bind .get fun _ => .pure _)
  | dicMap230 a =>
    refine preserved_runExec ?_ h
    exact keeps_mapDataIn _ keeps_blockCheck
  | niopMap200 | niopMap230 =>
    refine preserved_runExec ?_ h
    exact .bind (.ioGuard _) fun _ => .bind (keeps_modifyMap _) fun _ => .advance _
  | doaWcs a | dobWcs a | docWcs a =>
    refine preserved_runExec ?_ h
    exact keeps_wcsOut _ fun _ _ h => h
  | doaErcc a f | doaRtc a f =>
    refine preserved_runExec ?_ h
    exact .bind (.ioGuard _) fun _ => .bind (.modify fun _ h => by split <;> exact h) fun _ =>
      keeps_ioEnd _ _
  | diaErcc a f | dibErcc a f =>
    refine preserved_runExec ?_ h
    exact .bind (.ioGuard _) fun _ => .bind (keeps_setAc _ _) fun _ => keeps_ioEnd _ _

theorem keeps_instructionOf (w : Word) : Keeps (instructionOf w) := by
  have hread : ∀ (s : State) (w2 : Word), Keeps (match decode s.decodeCtx w w2 with
      | .ok i => pure i
      | .error _ => unassigned w : Exec Instr) := by
    intro s w2
    split
    · exact .pure _
    · exact .unassigned _
  exact .bind .get fun s => .ite _ (.bind (.memRead _) fun w2 => hread s w2) (.bind (.pure _) fun w2 => hread s w2)

theorem execXct_preserves (a : Acc) {s : State} (h : s.inv = true) : Preserved (execXct a s) := by
  refine preserved_executeFrom ?_ (fun i _ ht => execInner_preserves i ht) h
  exact .ite _ (.bind .suspendInstr fun _ => keeps_instructionOf _) (keeps_instructionOf _)

/-- Only XCT differs when it is executed by an XCT. -/
theorem exec_eq_execInner {i : Instr} (hx : ¬∃ a, i = .xct a) (s : State) : exec i s = execInner i s := by
  cases i with
  | xct a => exact absurd ⟨a, rfl⟩ hx
  | _ => rfl

/-- Every instruction keeps the invariant. -/
theorem exec_preserves (i : Instr) {s : State} (h : s.inv = true) : Preserved (exec i s) := by
  by_cases hx : ∃ a, i = .xct a
  · obtain ⟨a, rfl⟩ := hx
    exact execXct_preserves a h
  · rw [exec_eq_execInner hx]
    exact execInner_preserves i h

/-! ### The data channel, the interrupt and the end of an instruction -/

theorem inv_serveRequest {s : State} (h : s.inv = true) (r : DchRequest) : (serveRequest s r).inv = true := by
  unfold serveRequest
  split
  · exact h
  · split
    · exact State.inv_physWrite h _ _
    · exact State.inv_physRead h _

theorem inv_serveChannel {s : State} (h : s.inv = true) : (serveChannel s).inv = true := by
  unfold serveChannel
  have hfold : ∀ (q : List DchRequest) (t : State), t.inv = true → (q.foldl serveRequest t).inv = true := by
    intro q
    induction q with
    | nil => exact fun _ ht => ht
    | cons r q ih => exact fun t ht => ih _ (inv_serveRequest ht r)
  exact hfold _ _ h

theorem inv_advanceHolds {s : State} (h : s.inv = true) : s.advanceHolds.inv = true := h

theorem keeps_takeInterrupt : Keeps takeInterrupt :=
  .bind_get fun s h => by
    have hrest : Keeps (do
        supWrite 0 (wordOfAddr s.pc)
        let t ← chase supBus true chainFuel 0 false 1
        modify fun u => u.setPc t) :=
      .bind (supBus_kept.write _ _) fun _ => .bind (.chase supBus_kept _ _ _ _ _) fun _ => .modify fun _ h => h
    exact hrest _ h

theorem keeps_stopProcessor : Keeps stopProcessor := .bind .freshWord fun _ => .modify fun _ h => h

theorem keeps_endOfInstruction : Keeps endOfInstruction :=
  .bind .get fun _ => .ite _ (.pure _) (.ite _ (.modify fun _ h => inv_serveChannel h)
    (.bind (.modify fun _ h => inv_advanceHolds (inv_serveChannel h)) fun _ => .bind .get fun _ => .ite _ keeps_takeInterrupt
      (.ite _ keeps_stopProcessor (.pure _))))

theorem keeps_endOfConsoleInstruction : Keeps endOfConsoleInstruction :=
  .bind .get fun _ => .ite _ (.pure _) (.ite _ (.modify fun _ h => inv_serveChannel h)
    (.bind (.modify fun _ h => inv_advanceHolds (inv_serveChannel h)) fun _ => keeps_stopProcessor))

theorem keeps_fetchInstr : Keeps fetchInstr := .bind .get fun _ => .bind (.memRead _) fun _ => keeps_instructionOf _

theorem keeps_refuseLef {m : Exec Instr} (hm : Keeps m) : Keeps (refuseLef m) :=
  .bind hm fun _ => .bind .get fun _ => .ite _ (.throw _) (.pure _)

theorem preserved_endStep {o : Outcome State Fault Refusal} (ho : Preserved o) : Preserved (endStep o) := by
  cases o with
  | next t => exact preserved_runExec keeps_endOfInstruction (ho t rfl)
  | fault f => exact fun _ ht => by cases ht
  | refused r => exact fun _ ht => by cases ht

theorem preserved_consoleInstruction {m : Exec Instr} (hm : Keeps m) {s : State} (h : s.inv = true) :
    Preserved (consoleInstruction m exec s) := by
  have hrun : Preserved (executeFrom (refuseLef m) exec (s.setConsole { s.console with oneShot := .none })) :=
    preserved_executeFrom (keeps_refuseLef hm) (fun i _ ht => exec_preserves i ht) h
  unfold consoleInstruction
  split
  · exact preserved_runExec keeps_endOfConsoleInstruction (hrun _ ‹_›)
  · exact fun _ ht => by cases ht
  · exact fun _ ht => by cases ht

theorem preserved_idleStep {s : State} (h : s.inv = true) : Preserved (idleStep exec s) := by
  unfold idleStep
  split
  · exact preserved_next (inv_serveChannel h)
  · exact preserved_consoleInstruction keeps_fetchInstr h
  · exact preserved_consoleInstruction (keeps_instructionOf _) h
  · exact fun _ ht => by cases ht

theorem preserved_wholeStep {s : State} (h : s.inv = true) : Preserved (wholeStep exec s) := by
  unfold wholeStep
  split
  · exact preserved_endStep (preserved_executeFrom keeps_fetchInstr (fun i _ ht => exec_preserves i ht) h)
  · exact preserved_idleStep h

theorem preserved_endlessStep {s : State} (h : s.inv = true) : Preserved (endlessStep s) := by
  unfold endlessStep
  split
  · exact preserved_endStep (preserved_next h)
  · exact preserved_next (inv_serveChannel h)

/-! ### RESET, power and the console -/

theorem inv_after {m : Exec Unit} (hm : Keeps m) {s : State} (h : s.inv = true) : (s.after m).inv = true := by
  have hk := hm s h
  unfold State.after
  split
  · rename_i hr
    rw [hr] at hk
    exact hk
  · rename_i hr
    rw [hr] at hk
    exact hk

theorem keeps_abandonPc : Keeps abandonPc := .bind .freshWord fun _ => .modify fun _ h => h

theorem keeps_abandonEndless : Keeps abandonEndless :=
  .bind .get fun _ => .ite _ (.pure _) (.bind keeps_abandonPc fun _ => .modify fun _ h => h)

theorem keeps_resetFunction : Keeps resetFunction :=
  .bind keeps_abandonEndless fun _ => .bind keeps_ioReset fun _ => .bind .freshWord fun _ => .bind (.modify fun _ h => h) fun _ =>
    .bind (.modify fun _ h => h) fun _ => .modify fun _ h => h

/-- Power-up clears FPSR bits 0 to 5 (10_state.md R45). -/
theorem anyFollows_powerUp (q : BitVec 26) : AnyFollows (0#6 ++ q) :=
  .of_cleared fun j hj => by
    have h26 : ¬ 32 - 1 - j < 26 := by omega
    rw [fpsrBit, BitVec.getMsbD, BitVec.getLsbD_append, if_neg h26, BitVec.getLsbD_zero, Bool.and_false]

theorem inv_anyMaps {s : State} (h : s.inv = true) (m : MapUnit) (n : Nat) : ((s.setMap m).setFree n).inv = true := h

theorem keeps_powerUp : Keeps powerUp :=
  .bind keeps_resetFunction fun _ => .bind .freshWord fun _ => .bind .freshWord fun _ => .bind .freshWord fun _ =>
    .bind .freshWord fun _ => .bind .freshWord fun _ => .bind (.modify fun _ h => inv_of_same h rfl rfl rfl) fun _ => .bind .freshQuad fun _ =>
      .bind .freshQuad fun _ => .bind .freshQuad fun _ => .bind .freshQuad fun _ => .bind .freshQuad fun _ =>
        .bind (.modify fun _ h => State.inv_setFpsr h (anyFollows_powerUp _)) fun _ => .bind (.modify fun _ h => inv_anyMaps h _ _) fun _ =>
          .bind .freshWord fun _ => .bind .freshWord fun _ => .modify fun _ h => inv_of_same h rfl rfl rfl

theorem inv_loseSupply {s : State} (h : s.inv = true) : (loseSupply s).inv = true := inv_after keeps_powerUp h

theorem inv_gainSupply (restart : Bool) {s : State} (h : s.inv = true) : (gainSupply restart s).inv = true :=
  inv_after keeps_powerUp h

theorem inv_turnPower (p : PowerSwitch) {s : State} (h : s.inv = true) : (turnPower p s).inv = true := by
  unfold turnPower
  dsimp only
  split
  · split
    · exact inv_loseSupply h
    · exact h
  · split
    · exact inv_gainSupply _ h
    · exact h

theorem inv_restorePower {s : State} (h : s.inv = true) : (restorePower s).inv = true := by
  unfold restorePower
  split
  · exact h
  · exact inv_gainSupply _ h

theorem inv_autoRestart {s : State} (h : s.inv = true) : (autoRestart s).inv = true := by
  unfold autoRestart
  split
  · exact h
  · exact h

theorem inv_consoleWrite {s t : State} (h : s.inv = true) {a : Addr} {v : Word} (ht : s.consoleWrite a v = some t) :
    t.inv = true := by
  unfold State.consoleWrite at ht
  split at ht
  · cases ht
    exact State.inv_physWrite h _ _
  · cases ht

theorem inv_loadWords : ∀ (ws : List Word) (a : Addr) (s : State), s.inv = true → (loadWords ws a s).inv = true
  | [], _, _, h => h
  | w :: ws, a, s, h => by
    refine inv_loadWords ws _ _ ?_
    cases hw : s.consoleWrite a w with
    | none => exact h
    | some t => exact inv_consoleWrite h hw

theorem inv_examineAt (a : Addr) {s : State} (h : s.inv = true) : (examineAt a s).inv = true := by
  unfold examineAt
  split
  · exact h
  · rename_i v t hr
    unfold State.consoleRead at hr
    split at hr
    · rename_i pa hp
      have ht : (s.physRead pa).2 = t := congrArg Prod.snd (Option.some.inj hr)
      exact ht ▸ State.inv_physRead h pa
    · cases hr

theorem inv_stoppedFunction (f : ConsoleFn) {s : State} (h : s.inv = true) : (stoppedFunction f s).inv = true := by
  cases f with
  | reset => exact inv_after keeps_resetFunction h
  | examine | examineNext => exact inv_examineAt _ h
  | deposit =>
    show (depositHere s).inv = true
    unfold depositHere
    split
    · exact h
    · rename_i t ht
      exact inv_of_same (inv_consoleWrite h ht) rfl rfl rfl
  | depositNext =>
    show (depositNext s).inv = true
    unfold depositNext
    split
    · exact h
    · rename_i t ht
      exact inv_of_same (inv_consoleWrite h ht) rfl rfl rfl
  | acDeposit n => exact State.inv_setAc h _ _
  | programLoad =>
    have hw := inv_loadWords bootWords 0 s h
    show (((loadWords bootWords 0 s).setPc 0).setRun true).inv = true
    generalize loadWords bootWords 0 s = t at hw ⊢
    exact hw
  -- The other functions touch PC, the run state and the console only.
  | _ => exact h

theorem inv_consoleFunction (f : ConsoleFn) {s : State} (h : s.inv = true) : (consoleFunction f s).inv = true := by
  unfold consoleFunction
  split
  · exact h
  · split
    · unfold runningFunction
      split
      · exact inv_after keeps_resetFunction h
      · exact h
      · exact h
    · exact inv_stoppedFunction f h

theorem inv_ifPowered {f : State → State} (hf : ∀ s, s.inv = true → (f s).inv = true) {s : State} (h : s.inv = true) :
    (ifPowered f s).inv = true := by
  unfold ifPowered
  split
  · exact hf s h
  · exact h

/-- What comes from outside keeps the invariant. -/
theorem inv_applyInput (i : Input) {s : State} (h : s.inv = true) : (applyInput s i).inv = true := by
  cases i with
  | deviceData | deviceDone | dataChannel =>
    refine inv_ifPowered (fun t ht => ?_) h
    exact ht
  | clockPulse f =>
    refine inv_ifPowered (fun t ht => ?_) h
    unfold clockTick
    split
    · exact ht
    · exact ht
  | powerFailing =>
    show (ifPowered (fun t => if t.cfg.hasPfar then t.setPwrFail true else t) s).inv = true
    refine inv_ifPowered (fun t ht => ?_) h
    split
    · exact ht
    · exact ht
  | powerLost => exact inv_ifPowered (fun _ h => inv_loseSupply h) h
  | powerRestored => exact inv_restorePower h
  | restartDelay => exact inv_autoRestart h
  | memoryError | switches | addrCmp => exact h
  | powerSwitch p => exact inv_turnPower p h
  | console f => exact inv_consoleFunction f h
  | resetInside =>
    show (Machine.resetInside s).inv = true
    unfold Machine.resetInside
    split
    · exact h
    · exact inv_consoleFunction _ h

theorem inv_applyInputs : ∀ (is : List Input) (s : State), s.inv = true → (applyInputs is s).inv = true
  | [], _, h => h
  | i :: is, s, h => by
    unfold applyInputs
    dsimp only
    split
    · exact inv_applyInput i h
    · exact inv_applyInputs is _ (inv_applyInput i h)

theorem inv_takeInputs {s : State} (h : s.inv = true) : (takeInputs s).inv = true := by
  unfold takeInputs
  split
  · exact h
  · exact inv_applyInputs _ _ h

/-! ### The step -/

theorem preserved_abandonStep {s : State} (h : s.inv = true) : Preserved (abandonStep exec s) := by
  have hrun : ∀ n : Nat, Preserved (wholeStep exec
      (((s.setConsole { s.console with resetInside := false }).setDchQueue []).setCut (some n))) :=
    fun n => preserved_wholeStep h
  have hmoment : ∀ n : Nat, (nextOr ((s.setConsole { s.console with resetInside := false }).setDchQueue [])
      (wholeStep exec (((s.setConsole { s.console with resetInside := false }).setDchQueue []).setCut (some n)))).inv
        = true := by
    intro n
    have hn := hrun n
    unfold nextOr
    split
    · exact hn _ ‹_›
    · exact h
    · exact h
  unfold abandonStep
  dsimp only
  split
  · rename_i t ht
    split
    · exact preserved_next (inv_of_same (hrun _ t ht) rfl rfl rfl)
    · have hm := State.inv_mixed ((s.setConsole { s.console with resetInside := false }).setDchQueue []).free hmoment
      exact preserved_next (inv_after (.bind keeps_abandonPc fun _ => keeps_resetFunction) hm)
  · exact fun _ ht => by cases ht
  · exact fun _ ht => by cases ht

theorem preserved_machineStep {s : State} (h : s.inv = true) : Preserved (machineStep exec s) := by
  unfold machineStep
  split
  · exact preserved_next h
  · split
    · exact preserved_endlessStep h
    · split
      · exact preserved_abandonStep h
      · exact preserved_wholeStep h

/-- Settles O6: the inputs, each instruction's rule and what surrounds it keep the invariant. -/
theorem stepKeepsInvariant : Obligations.StepKeepsInvariant := by
  unfold Obligations.StepKeepsInvariant
  intro s t h ht
  exact preserved_machineStep (inv_takeInputs h) t ht

/-- Settles O7: with no memory listed and FPSR 0 the invariant evaluates to true. -/
theorem resetHasInvariant : Obligations.ResetHasInvariant := by
  unfold Obligations.ResetHasInvariant
  rfl

end Sys2Proof.Proofs.Invariant
end

section
/-! SUPPORT. The register-only instructions (40_fixed_point.md, 41_logical.md, 42_byte_bit.md section 3): the arithmetic/logical
class on 17 bits, immediates, division, decimal digits, counts of bits. -/

namespace Sys2Proof.Proofs.Registers

open Sys2Proof Sys2Proof.Machine Sys2Proof.Proofs.FixedPoint Sys2Proof.Proofs.Encoding

-- Theorems elaborated side by side each hold a thread's stack, and the memory limit is near.
set_option Elab.async false

/-! ### The 17 bits of the carry and a word (40_fixed_point.md R141) -/

/-- The carry above a word. -/
def carryWord (c : Bool) (w : Word) : BitVec 17 := bitOf c ++ w

theorem getLsbD_carryWord (c : Bool) (w : Word) {i : Nat} (hi : i < 17) :
    (carryWord c w).getLsbD i = if i = 16 then c else w.getLsbD i := by
  unfold carryWord
  rw [BitVec.getLsbD_append]
  by_cases h : i < 16
  · rw [if_pos h, if_neg (by omega)]
  · have h16 : i = 16 := by omega
    subst h16
    cases c <;> rfl

theorem carryWord_msb (c : Bool) (w : Word) : (carryWord c w).msb = c := by
  rw [BitVec.msb_eq_getLsbD_last, getLsbD_carryWord c w (by omega), if_pos rfl]

theorem carryWord_setWidth (c : Bool) (w : Word) : (carryWord c w).setWidth 16 = w := by
  apply BitVec.eq_of_getLsbD_eq
  intro i hi
  rw [BitVec.getLsbD_setWidth, getLsbD_carryWord c w (by omega), if_neg (by omega)]
  simp [hi]

theorem carryWord_toNat_mod (c : Bool) (w : Word) : (carryWord c w).toNat % 65536 = w.toNat := by
  have h := congrArg BitVec.toNat (carryWord_setWidth c w)
  rwa [BitVec.toNat_setWidth] at h

/-- An integer below 2^17 added to a carry in the place of 65536 gives its word, and its overflow toggles the carry. -/
theorem ofNat_add_carry {t : Nat} (ht : t < 131072) (c : Bool) :
    BitVec.ofNat 17 (t + 65536 * c.toNat) = carryWord (xor c (decide (65536 ≤ t))) (BitVec.ofNat 16 t) := by
  apply BitVec.eq_of_toNat_eq
  rw [carryWord, toNat_append_eq_add, bitOf_toNat, BitVec.toNat_ofNat, BitVec.toNat_ofNat]
  by_cases h : 65536 ≤ t <;> cases c <;> simp [h] <;> omega

theorem getLsbD_shifter_left (c : Bool) (w : Word) {i : Nat} (hi : i < 16) :
    (fld w 1 15 ++ bitOf c).getLsbD i = if i = 0 then c else w.getLsbD (i - 1) := by
  rw [BitVec.getLsbD_append]
  by_cases h : i = 0
  · subst h
    cases c <;> rfl
  · rw [if_neg (by omega), if_neg h, fld, BitVec.getLsbD_extractLsb']
    simp only [show i - 1 < 15 by omega, decide_true, Bool.true_and, Nat.reduceAdd, Nat.reduceSub, Nat.zero_add]

theorem getLsbD_shifter_right (c : Bool) (w : Word) {i : Nat} (hi : i < 16) :
    (bitOf c ++ fld w 0 15).getLsbD i = if i = 15 then c else w.getLsbD (i + 1) := by
  rw [BitVec.getLsbD_append]
  by_cases h : i = 15
  · subst h
    cases c <;> rfl
  · rw [if_pos (by omega), if_neg h, fld, BitVec.getLsbD_extractLsb']
    simp only [show i < 15 by omega, decide_true, Bool.true_and, Nat.reduceAdd, Nat.reduceSub, Nat.add_comm]

/-- A left shift rotates the 17 bits left (R141 step 3). -/
theorem carryWord_left (c : Bool) (w : Word) :
    carryWord (w.getMsbD 0) (fld w 1 15 ++ bitOf c) = (carryWord c w).rotateLeft 1 := by
  apply BitVec.eq_of_getLsbD_eq
  intro i hi
  rw [BitVec.getLsbD_rotateLeft, getLsbD_carryWord _ _ hi, Nat.mod_eq_of_lt (show 1 < 17 by omega)]
  by_cases h0 : i = 0
  · subst h0
    rw [getLsbD_shifter_left c w (by omega), getLsbD_carryWord _ _ (by omega)]
    rfl
  · rw [getLsbD_carryWord _ _ (show i - 1 < 17 by omega)]
    by_cases h16 : i = 16
    · subst h16
      rfl
    · rw [getLsbD_shifter_left c w (by omega), if_neg h0, if_neg h16, if_neg (show ¬ i - 1 = 16 by omega)]
      simp [h0, hi]

/-- A right shift rotates them right. -/
theorem carryWord_right (c : Bool) (w : Word) :
    carryWord (w.getMsbD 15) (bitOf c ++ fld w 0 15) = (carryWord c w).rotateRight 1 := by
  apply BitVec.eq_of_getLsbD_eq
  intro i hi
  rw [BitVec.getLsbD_rotateRight, getLsbD_carryWord _ _ hi, Nat.mod_eq_of_lt (show 1 < 17 by omega)]
  by_cases h16 : i = 16
  · subst h16
    rw [Nat.sub_self, getLsbD_carryWord c w (show 0 < 17 by omega)]
    rfl
  · have hlt : i < 16 := by omega
    rw [getLsbD_carryWord _ _ (show 1 + i < 17 by omega), getLsbD_shifter_right c w hlt, if_neg h16]
    by_cases h15 : i = 15
    · subst h15
      rfl
    · rw [if_neg h15, if_neg (show ¬ 1 + i = 16 by omega)]
      simp [hlt, Nat.add_comm]

/-- A swap keeps the carry and exchanges the bytes. -/
theorem carryWord_swap (c : Bool) (w : Word) : carryWord c (loByte w ++ hiByte w) =
    (carryWord c w).extractLsb' 16 1 ++ (carryWord c w).extractLsb' 0 8 ++ (carryWord c w).extractLsb' 8 8 := by
  have hw := toNat_append_eq_add (bitOf c) w
  have hlt := w.isLt
  apply BitVec.eq_of_toNat_eq
  simp only [carryWord, toNat_append_eq_add, loByte, hiByte, fld_toNat, BitVec.extractLsb'_toNat, Nat.shiftRight_eq_div_pow, hw]
  have hc := (bitOf c).isLt
  omega

/-- The shifter's output as 17 bits (R141 step 3). -/
def shifted17 (f : AluShift) (v : BitVec 17) : BitVec 17 :=
  match f with
  | .keep => v
  | .left => v.rotateLeft 1
  | .right => v.rotateRight 1
  | .swap => v.extractLsb' 16 1 ++ v.extractLsb' 0 8 ++ v.extractLsb' 8 8

theorem shifted17_carryWord (f : AluShift) (c : Bool) (w : Word) :
    shifted17 f (carryWord c w) = carryWord (shifter f c w).1 (shifter f c w).2 := by
  cases f with
  | keep => rfl
  | left => exact (carryWord_left c w).symm
  | right => exact (carryWord_right c w).symm
  | swap => exact (carryWord_swap c w).symm

theorem initCarry_toNat (f : AluCarry) (c : Bool) : (initCarry f c).toNat = (match f with
    | .keep => c.toNat
    | .zero => 0
    | .one => 1
    | .complement => 1 - c.toNat) := by
  cases f <;> cases c <;> rfl

/-- Load and skip sensor on the 17 bits (R141 steps 4 to 6). -/
def loadAndSkip (s : State) (f : Alu) (v : BitVec 17) : State :=
  let zero := decide (v.toNat % 65536 = 0)
  let skip :=
    match f.skip with
    | .never => false
    | .always => true
    | .szc => !v.msb
    | .snc => v.msb
    | .szr => zero
    | .snr => !zero
    | .sez => !v.msb || zero
    | .sbn => v.msb && !zero
  (if f.noLoad then s else (s.setAc f.acd (v.setWidth 16)).setCarry v.msb).setPc (s.pc + if skip then 2 else 1)

theorem aluEffect_eq (s : State) (f : Alu) (t : Nat) : s.aluEffect f t =
    loadAndSkip s f (shifted17 f.shift (BitVec.ofNat 17 (t + 65536 * (initCarry f.carry s.carry).toNat))) := by
  rw [initCarry_toNat]
  obtain ⟨x, y, sh, ca, nl, sk⟩ := f
  cases sh <;> cases ca <;> rfl

theorem skipSensor_eq (f : AluSkip) (c : Bool) (w : Word) : skipSensor f c w = (match f with
    | .never => false
    | .always => true
    | .szc => !c
    | .snc => c
    | .szr => decide (w.toNat = 0)
    | .snr => !decide (w.toNat = 0)
    | .sez => !c || decide (w.toNat = 0)
    | .sbn => c && !decide (w.toNat = 0)) := by
  have hzero : (w == 0) = decide (w.toNat = 0) := by
    rw [Bool.eq_iff_iff, beq_iff_eq, decide_eq_true_iff, ← BitVec.toNat_inj]
    rfl
  cases f <;> simp only [skipSensor, hzero, bne]

/-- On the shifter's carry and word, load and skip sensor are the model's. -/
theorem loadAndSkip_carryWord (s : State) (f : Alu) (c : Bool) (w : Word) : loadAndSkip s f (carryWord c w) =
    (if f.noLoad then s else (s.setAc f.acd w).setCarry c).setPc (s.pc + if skipSensor f.skip c w then 2 else 1) := by
  rw [skipSensor_eq]
  unfold loadAndSkip
  rw [carryWord_msb, carryWord_setWidth, carryWord_toNat_mod]

/-- The function generator, the shifter and the skip sensor are arithmetic on 17 bits. -/
theorem aluFinish_eq_aluEffect (f : Alu) (s : State) {t : Nat} (ht : t < 131072) : aluFinish f s t = s.aluEffect f t := by
  rw [aluEffect_eq, ofNat_add_carry ht, shifted17_carryWord, loadAndSkip_carryWord]
  rfl

/-- Settles O8: each function generator is a sum below 2^17, on which the rule's steps act. -/
theorem arithmeticLogicalClass : Obligations.ArithmeticLogicalClass := by
  unfold Obligations.ArithmeticLogicalClass
  intro f s
  have hx := (s.ac f.acs).isLt
  have hy := (s.ac f.acd).isLt
  have hz := (s.ac f.acd &&& s.ac f.acs).isLt
  have hnot : (~~~s.ac f.acs).toNat = 65535 - (s.ac f.acs).toNat := BitVec.toNat_not
  have hfin : ∀ t u, t < 131072 → t = u →
      Host.Outcome.next (aluFinish f s t) = (.next (s.aluEffect f u) : Host.Outcome State Fault Refusal) := by
    rintro t u ht rfl
    rw [aluFinish_eq_aluEffect f s ht]
  refine ⟨?_, ?_, ?_, ?_, ?_, ?_, ?_, ?_⟩
  · exact hfin (~~~s.ac f.acs).toNat _ (by omega) (by omega)
  · exact hfin ((~~~s.ac f.acs).toNat + 1) _ (by omega) (by omega)
  · exact hfin (s.ac f.acs).toNat _ (by omega) rfl
  · exact hfin ((s.ac f.acs).toNat + 1) _ (by omega) rfl
  · exact hfin ((s.ac f.acd).toNat + (~~~s.ac f.acs).toNat) _ (by omega) (by omega)
  · exact hfin ((s.ac f.acd).toNat + (~~~s.ac f.acs).toNat + 1) _ (by omega) (by omega)
  · exact hfin ((s.ac f.acd).toNat + (s.ac f.acs).toNat) _ (by omega) rfl
  · exact hfin (s.ac f.acd &&& s.ac f.acs).toNat _ (by omega) rfl

/-! ### Immediates -/

/-- A word equal to an instruction's first word decodes to it. -/
theorem decode_of_word {c : DecodeCtx} {i : Instr} {w w2 : Word} (hwf : i.wf c = true) (hw : w = encode1 i)
    (h2 : (secondWord i).getD 0 = w2) : decode c w w2 = .ok i := by
  subst hw h2
  exact decodeOfEncode c i hwf

theorem tableAWord_tail {x y : BitVec 2} {sel : BitVec 5} {tail : BitVec 11} (htail : tail = sel ++ 0x08#6) :
    1#1 ++ x ++ y ++ tail = tableAWord x y sel := by
  apply BitVec.eq_of_toNat_eq
  rw [tableAWord_toNat, htail]
  simp only [toNat_append_eq_add, BitVec.toNat_ofNat]
  omega

theorem tableCWord_tail {x y ix k : BitVec 2} {tail : BitVec 11} (htail : tail = 1#1 ++ ix ++ k ++ 0x38#6) :
    1#1 ++ x ++ y ++ tail = tableCWord x y ix k := by
  apply BitVec.eq_of_toNat_eq
  rw [tableCWord_toNat, htail]
  simp only [toNat_append_eq_add, BitVec.toNat_ofNat]
  omega

theorem ofNat_add_two (a : Word) (n : BitVec 2) : a + n.zeroExtend 16 + 1 = BitVec.ofNat 16 (a.toNat + n.toNat + 1) := by
  have h1 : (1 : Word).toNat = 1 := rfl
  apply BitVec.eq_of_toNat_eq
  simp only [BitVec.toNat_add, BitVec.zeroExtend_eq_setWidth, BitVec.toNat_setWidth, BitVec.toNat_ofNat]
  omega

theorem ofInt_sub_two (a : Word) (n : BitVec 2) :
    a - n.zeroExtend 16 - 1 = BitVec.ofInt 16 ((a.toNat : Int) - n.toNat - 1) := by
  have hn : BitVec.ofInt 16 (n.toNat : Int) = n.zeroExtend 16 := by
    rw [BitVec.ofInt_natCast]
    apply BitVec.eq_of_toNat_eq
    rw [BitVec.zeroExtend_eq_setWidth, BitVec.toNat_ofNat, BitVec.toNat_setWidth]
  have ha : BitVec.ofInt 16 (a.toNat : Int) = a := by
    rw [BitVec.ofInt_natCast, BitVec.ofNat_toNat, BitVec.setWidth_eq]
  rw [Int.sub_eq_add_neg, Int.sub_eq_add_neg, BitVec.ofInt_add, BitVec.ofInt_add, BitVec.ofInt_neg, ha, hn,
    ← BitVec.sub_eq_add_neg]
  exact BitVec.sub_eq_add_neg _ _

/-- Settles O9: the words are those of tables A and C, and the rules' sums are taken modulo 2^16. -/
theorem addSubtractImmediate : Obligations.AddSubtractImmediate := by
  unfold Obligations.AddSubtractImmediate
  refine ⟨fun c n a imm s => ⟨?_, ?_, ?_, ?_, ?_, ?_⟩, fun c a imm s => ⟨?_, ?_, ?_, rfl, rfl, rfl⟩,
    fun c x y s => ⟨?_, ?_, ?_, rfl, rfl, rfl⟩⟩
  · exact decode_of_word rfl (tableAWord_tail (sel := 0#5) rfl) rfl
  · exact decode_of_word rfl (tableAWord_tail (sel := 1#5) rfl) rfl
  · exact congrArg (fun v => Host.Outcome.next ((s.setAc a v).setPc (s.pc + 1))) (ofNat_add_two _ _)
  · exact congrArg (fun v => Host.Outcome.next ((s.setAc a v).setPc (s.pc + 1))) (ofInt_sub_two _ _)
  · exact decode_of_word rfl (tableCWord_tail (ix := 3#2) (k := 3#2) rfl) rfl
  · rw [BitVec.ofInt_add, BitVec.ofInt_toInt, BitVec.ofInt_toInt]
    rfl
  · exact decode_of_word rfl (tableCWord_tail (ix := 3#2) (k := 3#2) rfl) rfl
  · exact decode_of_word rfl (tableCWord_tail (ix := 3#2) (k := 3#2) rfl) rfl
  · exact decode_of_word rfl (tableCWord_tail (ix := 3#2) (k := 3#2) rfl) rfl
  · exact decode_of_word rfl (tableAWord_tail (sel := 4#5) rfl) rfl
  · exact decode_of_word rfl (tableAWord_tail (sel := 5#5) rfl) rfl
  · exact decode_of_word rfl (tableAWord_tail (sel := 6#5) rfl) rfl

/-! ### Signed division (40_fixed_point.md R163, R164) -/

/-- A quotient and a remainder of the division rule are those of truncated division. -/
theorem tdiv_tmod_of_rule {n d q r : Int} (hn : n = q * d + r) (hr : r.natAbs < d.natAbs) (hs : r = 0 ∨ (0 ≤ r ↔ 0 ≤ n)) :
    n.tdiv d = q ∧ n.tmod d = r := by
  have hd : d ≠ 0 := by omega
  have hn' : r + d * q = n := by rw [hn, Int.mul_comm]; omega
  rcases Int.le_total 0 n with h0 | h0
  · have hr0 : 0 ≤ r := by omega
    exact (Int.tdiv_tmod_unique h0 hd).mpr ⟨hn', hr0, by omega⟩
  · have hr0 : r ≤ 0 := by
      rcases Int.lt_or_eq_of_le h0 with hneg | hz
      · omega
      · rcases hs with rfl | hiff
        · omega
        · have hdvd : d ∣ r := ⟨-q, by rw [Int.mul_neg]; omega⟩
          exact (Int.eq_zero_of_dvd_of_natAbs_lt_natAbs hdvd hr).le
    exact (Int.tdiv_tmod_unique' h0 hd).mpr ⟨hn', by omega, by omega⟩

theorem signedDivide_of_rule {n d q r : Int} (hn : n = q * d + r) (hr : r.natAbs < d.natAbs)
    (hs : r = 0 ∨ (0 ≤ r ↔ 0 ≤ n)) (hlo : -32768 ≤ q) (hhi : q ≤ 32767) : signedDivide n d = some (q, r) := by
  obtain ⟨hq, hm⟩ := tdiv_tmod_of_rule hn hr hs
  unfold signedDivide
  rw [if_neg (by omega)]
  dsimp only
  rw [hq, if_neg (by omega), hm]

theorem signedDivide_overflow {n d : Int} (h : d = 0 ∨ n.tdiv d < -32768 ∨ 32767 < n.tdiv d) : signedDivide n d = none := by
  unfold signedDivide
  split
  · rfl
  · dsimp only
    rw [if_pos (by omega)]

theorem runExec_divideSigned (n : Int) (s : State) : runExec (divideSigned n) s = .next
    (match signedDivide n s.ac2.toInt with
      | some (q, r) => (((s.setAc1 (BitVec.ofInt 16 q)).setAc0 (BitVec.ofInt 16 r)).setCarry false).setPc (s.pc + 1)
      | none => ((((s.setFree (s.free + 2)).setAc0 (Config.freeWord s.free)).setAc1
        (Config.freeWord (s.free + 1))).setCarry true).setPc (s.pc + 1)) := by
  unfold runExec divideSigned
  simp only [Exec.bind_apply, Exec.get_apply]
  cases signedDivide n s.ac2.toInt with
  | none => rfl
  | some qr => rfl

theorem acPair_a0_toInt (s : State) : (s.acPair .a0).toInt = s.ac0.toInt * 65536 + s.ac1.toNat := by
  have hp := acPair_a0_toNat s
  have h0 := s.ac0.isLt
  have h1 := s.ac1.isLt
  rw [BitVec.toInt_eq_toNat_cond, BitVec.toInt_eq_toNat_cond, hp]
  split <;> split <;> omega

/-- Settles O13: the rule's quotient and remainder are unique, so they are the ones the truncated division gives. -/
theorem signedDivision : Obligations.SignedDivision := by
  unfold Obligations.SignedDivision
  intro s i n hi
  have hexec : exec i s = runExec (divideSigned n) s := by
    rcases hi with ⟨rfl, rfl⟩ | ⟨rfl, rfl⟩
    · rw [← acPair_a0_toInt]
      rfl
    · rfl
  rw [hexec, runExec_divideSigned]
  constructor
  · intro q r hn hr hs hlo hhi
    rw [signedDivide_of_rule hn hr hs hlo hhi]
  · intro hover
    rw [signedDivide_overflow ?_]
    rcases hover with hz | hover
    · left
      rw [hz]
      rfl
    · exact .inr hover

/-! ### Decimal digits (40_fixed_point.md R155, R156) -/

theorem digitOf_eq (w : Word) : digitOf w = w.toNat % 16 := by
  rw [digitOf, fld_toNat]
  omega

theorem withDigit_ofNat (w : Word) {k : Nat} (hk : k < 16) :
    withDigit w (BitVec.ofNat 4 k) = BitVec.ofNat 16 (w.toNat - w.toNat % 16 + k) := by
  have hw := w.isLt
  apply BitVec.eq_of_toNat_eq
  rw [withDigit, toNat_append_eq_add, fld_toNat, BitVec.toNat_ofNat, BitVec.toNat_ofNat]
  omega

theorem exec_dad (x y : Acc) (s : State) : exec (.dad x y) s =
    if 9 < digitOf (s.ac x) ∨ 9 < digitOf (s.ac y) then .next (((((s.setFree (s.free + 1)).setAc y
      (withDigit (s.ac y) (fld (Config.freeWord s.free) 12 4))).setCarry (isIndirect (Config.freeWord s.free))).setPc (s.pc + 1)))
    else .next (((s.setAc y (withDigit (s.ac y) (BitVec.ofNat 4 ((digitOf (s.ac x) + digitOf (s.ac y) + s.carry.toNat) % 10)))).setCarry
      (decide (10 ≤ digitOf (s.ac x) + digitOf (s.ac y) + s.carry.toNat))).setPc (s.pc + 1)) := by
  have hexec : exec (.dad x y) s = execDad x y s := rfl
  rw [hexec, execDad]
  by_cases h : 9 < digitOf (s.ac x) ∨ 9 < digitOf (s.ac y)
  · rw [if_pos h, if_pos h]
    apply runExec_ok
    simp
  · rw [if_neg h, if_neg h]
    apply runExec_ok
    simp

theorem exec_dsb (x y : Acc) (s : State) : exec (.dsb x y) s =
    if 9 < digitOf (s.ac x) ∨ 9 < digitOf (s.ac y) then .next (((((s.setFree (s.free + 1)).setAc y
      (withDigit (s.ac y) (fld (Config.freeWord s.free) 12 4))).setCarry (isIndirect (Config.freeWord s.free))).setPc (s.pc + 1)))
    else
      let t : Int := (digitOf (s.ac y) : Int) - digitOf (s.ac x) - (1 - (s.carry.toNat : Int))
      .next (((s.setAc y (withDigit (s.ac y) (BitVec.ofInt 4 (if t < 0 then t + 10 else t)))).setCarry
        (decide (0 ≤ t))).setPc (s.pc + 1)) := by
  have hexec : exec (.dsb x y) s = execDsb x y s := rfl
  rw [hexec, execDsb]
  by_cases h : 9 < digitOf (s.ac x) ∨ 9 < digitOf (s.ac y)
  · rw [if_pos h, if_pos h]
    apply runExec_ok
    simp
  · rw [if_neg h, if_neg h]
    apply runExec_ok
    simp

/-- Settles O14: the rules' digit sums, and free values where a digit is above 9. -/
theorem decimalDigits : Obligations.DecimalDigits := by
  unfold Obligations.DecimalDigits
  intro x y s
  dsimp only
  rw [← digitOf_eq, ← digitOf_eq]
  refine ⟨fun ha hb => ⟨?_, ?_⟩, fun hbad i hi => ?_⟩
  · rw [exec_dad, if_neg (by omega), withDigit_ofNat _ (by omega), digitOf_eq (s.ac y)]
  · generalize hd : (digitOf (s.ac y) : Int) - digitOf (s.ac x) - (1 - (s.carry.toNat : Int)) = d
    have hc : s.carry.toNat ≤ 1 := Bool.toNat_le _
    have hofInt : BitVec.ofInt 4 (if d < 0 then d + 10 else d) = BitVec.ofNat 4 (if d < 0 then d + 10 else d).toNat := by
      rw [← BitVec.ofInt_natCast]
      congr 1
      split <;> omega
    have hlt : (if d < 0 then d + 10 else d).toNat < 16 := by
      split <;> omega
    rw [exec_dsb, if_neg (by omega)]
    dsimp only
    rw [hd, hofInt, withDigit_ofNat _ hlt, digitOf_eq (s.ac y)]
  · rcases hi with rfl | rfl
    · rw [exec_dad, if_pos hbad]
      exact ⟨_, _, rfl⟩
    · rw [exec_dsb, if_pos hbad]
      exact ⟨_, _, rfl⟩

/-! ### Counts of bits (42_byte_bit.md R223 to R225) -/

theorem getMsbD_eq_testBit (w : Word) {k : Nat} (hk : k < 16) : w.getMsbD k = w.toNat.testBit (15 - k) := by
  rw [BitVec.getMsbD_eq_getLsbD, BitVec.testBit_toNat]
  simp [hk]

/-- A word whose first n bits are zero is below 2^(16-n). -/
theorem toNat_lt_of_leading_zeros (w : Word) {n : Nat} (hn : n ≤ 16) (h0 : ∀ k, k < n → w.getMsbD k = false) :
    w.toNat < 2 ^ (16 - n) := by
  apply Nat.lt_pow_two_of_testBit
  intro i hi
  by_cases hlt : i < 16
  · have h := h0 (15 - i) (by omega)
    rw [getMsbD_eq_testBit w (by omega)] at h
    rwa [show 15 - (15 - i) = i by omega] at h
  · exact Nat.testBit_lt_two_pow (Nat.lt_of_lt_of_le w.isLt (Nat.pow_le_pow_right (by omega) (by omega)))

theorem leadingZeros_eq (w : Word) {n : Nat} (hn : n ≤ 16) (h0 : ∀ k, k < n → w.getMsbD k = false)
    (h1 : n < 16 → w.getMsbD n = true) : leadingZeros w = n := by
  have hlt := toNat_lt_of_leading_zeros w hn h0
  unfold leadingZeros
  by_cases h16 : n = 16
  · subst h16
    have hz : w = 0 := BitVec.eq_of_toNat_eq (by simpa using hlt)
    rw [if_pos hz]
  · have hbit := h1 (by omega)
    rw [getMsbD_eq_testBit w (by omega)] at hbit
    have hge := Nat.ge_two_pow_of_testBit hbit
    have hpos : w.toNat ≠ 0 := by
      intro hz
      rw [hz] at hbit
      simp at hbit
    have hlog : w.toNat.log2 = 15 - n := (Nat.log2_eq_iff hpos).mpr ⟨hge, by rwa [show 15 - n + 1 = 16 - n by omega]⟩
    have hw : w ≠ 0 := fun hz => hpos (by rw [hz]; rfl)
    rw [if_neg hw, hlog]
    omega

theorem countOnes_eq_countP (w : Word) (n : Nat) : countOnes w n = (List.range n).countP fun k => w.getLsbD k := by
  induction n with
  | zero => rfl
  | succ n ih =>
    rw [countOnes, ih, List.range_succ, List.countP_append, List.countP_singleton]

/-- The ones of a word, counted from the left. -/
theorem countOnes_msb (w : Word) : countOnes w 16 = (List.range 16).countP fun k => w.getMsbD k := by
  have hperm : ((List.range 16).map fun k => 15 - k).Perm (List.range 16) := by decide
  rw [countOnes_eq_countP, ← hperm.countP_eq, List.countP_map]
  apply List.countP_congr
  intro k hk
  rw [Function.comp_apply, getMsbD_eq_testBit w (List.mem_range.mp hk), BitVec.testBit_toNat]

/-- Settles O16: the leading zeroes by the word's logarithm, the ones by counting from either end. -/
theorem bitCounts : Obligations.BitCounts := by
  unfold Obligations.BitCounts
  intro x y s n hn h0 h1
  dsimp only
  have hz := leadingZeros_eq (s.ac x) hn h0 h1
  refine ⟨?_, fun hxy => ?_, ?_, ?_⟩
  · rw [← hz]
    rfl
  · have hexec : exec (.lrb x y) s = execLrb x y s := rfl
    rw [hexec, execLrb, if_neg hxy, clearLeadBit, hz]
    rfl
  · have hexec : exec (.lrb x x) s = execLrb x x s := rfl
    rw [hexec, execLrb, if_pos rfl, clearLeadBit, hz]
    rfl
  · rw [← countOnes_msb]
    rfl

/-! ### What the register-only instructions leave alone -/

/-- A state with accumulators, carry, program counter and free-value counter of its own. -/
def withRegisters (s : State) (a b c d : Word) (k : Bool) (p : Addr) (f : Nat) : State :=
  { s with ac0 := a, ac1 := b, ac2 := c, ac3 := d, carry := k, pc := p, free := f }

/-- A state that differs in the given accumulators, the carry where it may, PC and the free-value counter at most. -/
structure RegisterFrame (ds : List Acc) (k : Bool) (s t : State) : Prop where
  shape : ∃ a b c d y p f, t = withRegisters s a b c d y p f
  acs : ∀ a, a ∉ ds → t.ac a = s.ac a
  carry : k = false → t.carry = s.carry

namespace RegisterFrame

variable {ds : List Acc} {k : Bool} {s t : State}

theorem refl (ds : List Acc) (k : Bool) (s : State) : RegisterFrame ds k s s :=
  ⟨⟨_, _, _, _, _, _, _, rfl⟩, fun _ _ => rfl, fun _ => rfl⟩

theorem setAc (h : RegisterFrame ds k s t) {a : Acc} (ha : a ∈ ds) (v : Word) : RegisterFrame ds k s (t.setAc a v) where
  shape := by
    obtain ⟨_, _, _, _, _, _, _, rfl⟩ := h.shape
    cases a <;> exact ⟨_, _, _, _, _, _, _, rfl⟩
  acs b hb := by
    have hne : b ≠ a := fun hab => hb (hab ▸ ha)
    rw [State.setAc_ac, if_neg hne]
    exact h.acs b hb
  carry hk := by
    rw [← h.carry hk]
    cases a <;> rfl

theorem setAcPair (h : RegisterFrame ds k s t) {a : Acc} (ha : a ∈ ds) (ha' : accNext a ∈ ds) (v : BitVec 32) :
    RegisterFrame ds k s (t.setAcPair a v) :=
  (h.setAc ha _).setAc ha' _

theorem setCarry (h : RegisterFrame ds true s t) (c : Bool) : RegisterFrame ds true s (t.setCarry c) where
  shape := by
    obtain ⟨_, _, _, _, _, _, _, rfl⟩ := h.shape
    exact ⟨_, _, _, _, _, _, _, rfl⟩
  acs b hb := by
    rw [← h.acs b hb]
    cases b <;> rfl
  carry hk := nomatch hk

theorem setPc (h : RegisterFrame ds k s t) (p : Addr) : RegisterFrame ds k s (t.setPc p) where
  shape := by
    obtain ⟨_, _, _, _, _, _, _, rfl⟩ := h.shape
    exact ⟨_, _, _, _, _, _, _, rfl⟩
  acs b hb := by
    rw [← h.acs b hb]
    cases b <;> rfl
  carry hk := h.carry hk

theorem setFree (h : RegisterFrame ds k s t) (f : Nat) : RegisterFrame ds k s (t.setFree f) where
  shape := by
    obtain ⟨_, _, _, _, _, _, _, rfl⟩ := h.shape
    exact ⟨_, _, _, _, _, _, _, rfl⟩
  acs b hb := by
    rw [← h.acs b hb]
    cases b <;> rfl
  carry hk := h.carry hk

end RegisterFrame

theorem aluFinish_frame (f : Alu) (s : State) (t : Nat) :
    RegisterFrame (if f.noLoad then [] else [f.acd]) (!f.noLoad) s (aluFinish f s t) := by
  unfold aluFinish
  dsimp only
  cases f.noLoad with
  | true => exact (RegisterFrame.refl _ _ s).setPc _
  | false => exact (((RegisterFrame.refl _ _ s).setAc (List.mem_singleton_self _) _).setCarry _).setPc _

/-- One accumulator written. -/
theorem setAc_setPc_frame (k : Bool) (s : State) (a : Acc) (v : Word) (p : Addr) :
    RegisterFrame [a] k s ((s.setAc a v).setPc p) :=
  ((RegisterFrame.refl _ _ s).setAc (List.mem_singleton_self _) _).setPc _

theorem setAcPair_setPc_frame (k : Bool) (s : State) (a : Acc) (v : BitVec 32) (p : Addr) :
    RegisterFrame [a, accNext a] k s ((s.setAcPair a v).setPc p) :=
  ((RegisterFrame.refl _ _ s).setAcPair (by simp) (by simp) _).setPc _

/-- An execution that completes within the frame. -/
def CompletesWithin (i : Instr) (ds : List Acc) (s : State) : Prop :=
  ∃ t, exec i s = .next t ∧ RegisterFrame ds (registerCarry i) s t

theorem dad_completes (x y : Acc) (s : State) : CompletesWithin (.dad x y) [y] s := by
  unfold CompletesWithin
  rw [exec_dad]
  split
  · exact ⟨_, rfl, ((((RegisterFrame.refl _ _ s).setFree _).setAc (List.mem_singleton_self _) _).setCarry _).setPc _⟩
  · exact ⟨_, rfl, (((RegisterFrame.refl _ _ s).setAc (List.mem_singleton_self _) _).setCarry _).setPc _⟩

theorem dsb_completes (x y : Acc) (s : State) : CompletesWithin (.dsb x y) [y] s := by
  unfold CompletesWithin
  rw [exec_dsb]
  split
  · exact ⟨_, rfl, ((((RegisterFrame.refl _ _ s).setFree _).setAc (List.mem_singleton_self _) _).setCarry _).setPc _⟩
  · exact ⟨_, rfl, (((RegisterFrame.refl _ _ s).setAc (List.mem_singleton_self _) _).setCarry _).setPc _⟩

theorem lrb_completes (x y : Acc) (s : State) : CompletesWithin (.lrb x y) [x, y] s := by
  refine ⟨_, rfl, RegisterFrame.setPc (RegisterFrame.setAc ?_ (by simp) _) _⟩
  split
  · exact RegisterFrame.refl _ _ s
  · exact (RegisterFrame.refl _ _ s).setAc (by simp) _

theorem div_completes (s : State) : CompletesWithin .div [.a0, .a1] s := by
  unfold CompletesWithin
  have hexec : exec .div s = execDiv s := rfl
  rw [hexec, execDiv]
  split
  · exact ⟨_, rfl, ((RegisterFrame.refl _ _ s).setCarry _).setPc _⟩
  · exact ⟨_, rfl, ((((RegisterFrame.refl _ _ s).setAc (a := .a1) (by simp) _).setAc (a := .a0) (by simp) _).setCarry _).setPc _⟩

theorem divideSigned_completes (n : Int) (s : State) :
    ∃ t, runExec (divideSigned n) s = .next t ∧ RegisterFrame [.a0, .a1] true s t := by
  rw [runExec_divideSigned]
  cases signedDivide n s.ac2.toInt with
  | none =>
    exact ⟨_, rfl, (((((RegisterFrame.refl _ _ s).setFree _).setAc (a := .a0) (by simp) _).setAc (a := .a1) (by simp)
      _).setCarry _).setPc _⟩
  | some qr =>
    exact ⟨_, rfl, ((((RegisterFrame.refl _ _ s).setAc (a := .a1) (by simp) _).setAc (a := .a0) (by simp) _).setCarry
      _).setPc _⟩

/-- The skip on a comparison completes with PC alone changed. -/
theorem setPc_frame (k : Bool) (s : State) (p : Addr) : RegisterFrame [] k s (s.setPc p) :=
  (RegisterFrame.refl _ _ s).setPc _

theorem registerOnly_completes {i : Instr} {ds : List Acc} (s : State) (h : registerDests i = some ds) :
    CompletesWithin i ds s := by
  cases i with
  | com f | neg f | mov f | inc f | adc f | sub f | add f | and f =>
    cases h
    exact ⟨_, rfl, aluFinish_frame _ _ _⟩
  | adi | sbi | hxl | hxr | hlv | iori | xori | andi | addi | ior | xor | anc | lsh | lob | cob =>
    cases h
    exact ⟨_, rfl, setAc_setPc_frame _ _ _ _ _⟩
  | dlsh | dhxl | dhxr =>
    cases h
    exact ⟨_, rfl, setAcPair_setPc_frame _ _ _ _ _⟩
  | mul | muls =>
    cases h
    exact ⟨_, rfl, setAcPair_setPc_frame _ _ .a0 _ _⟩
  | dad x y =>
    cases h
    exact dad_completes x y s
  | dsb x y =>
    cases h
    exact dsb_completes x y s
  | xch x y =>
    cases h
    exact ⟨_, rfl, (((RegisterFrame.refl _ _ s).setAc (a := x) (by simp) _).setAc (a := y) (by simp) _).setPc _⟩
  | lrb x y =>
    cases h
    exact lrb_completes x y s
  | div =>
    cases h
    exact div_completes s
  | divs | divx =>
    cases h
    exact divideSigned_completes _ s
  | sgt | sge =>
    cases h
    exact ⟨_, rfl, setPc_frame _ _ _⟩
  | _ => cases h

/-- Settles O17: each instruction is a chain of register writes, and the frame is closed under each. -/
theorem registerOnlyFrame : Obligations.RegisterOnlyFrame := by
  unfold Obligations.RegisterOnlyFrame
  intro i ds s h
  obtain ⟨t, ht, hf⟩ := registerOnly_completes s h
  obtain ⟨a, b, c, d, y, p, f, hshape⟩ := hf.shape
  refine ⟨t, ht, ?_, hf.acs, hf.carry, fun n => ?_⟩
  · rw [hshape]
    rfl
  · rw [hshape]
    rfl

/-! ### Examples, and the step of an undisturbed machine -/

/-- Settles O3: the words are the encodings, and decoding gives an encoded instruction back. -/
theorem exampleWordsDecode : Obligations.ExampleWordsDecode := by
  unfold Obligations.ExampleWordsDecode
  intro c hlef
  have hwf : ∀ i : Instr, i.wf { c with lef := false } = true → i.wf c = true := by
    intro i hi
    rwa [← hlef] at hi
  refine ⟨?_, ?_, ?_, ?_, ?_, ?_, ?_⟩
  · exact decode_of_word (hwf _ rfl) rfl rfl
  · exact decode_of_word (hwf _ rfl) rfl rfl
  · exact decode_of_word (hwf _ rfl) rfl rfl
  · exact decode_of_word (hwf _ rfl) rfl rfl
  · exact decode_of_word (hwf _ rfl) rfl rfl
  · have hinten : Instr.inten.wf { c with lef := false } = true := by cases h : c.mapKind <;> rfl
    exact decode_of_word (hwf _ hinten) rfl rfl
  · exact decode_of_word (hwf _ rfl) rfl rfl

/-- Settles O4: the fetch reads the words at PC, and they decode to the instruction. -/
theorem stepRunsDecodedInstruction : Obligations.StepRunsDecodedInstruction := by
  unfold Obligations.StepRunsDecodedInstruction
  intro s w2 i hu he hrun hq hr h2 hd
  simp only [State.undisturbed, Bool.and_eq_true, List.isEmpty_iff, Bool.not_eq_true'] at hu
  obtain ⟨⟨⟨hin, hpow⟩, hsus⟩, hres⟩ := hu
  have hfetch : fetchInstr s = .ok i s := by
    simp only [fetchInstr, Exec.bind_apply, Exec.get_apply, memRead_quiet hq hr]
    exact instructionOf_quiet hq h2 hd
  have htake : takeInputs s = s := by
    rw [takeInputs, hin]
  rw [step, htake, machineStep, if_neg (by simp [hpow, hsus]), if_neg (by simp [he]), if_neg (by simp [hres]), wholeStep,
    if_pos hrun, runInstruction]
  congr 1
  unfold executeFrom
  rw [hfetch]

end Sys2Proof.Proofs.Registers
end

section
/-! SUPPORT. What surrounds an instruction: the end of an instruction, the data channel, endless instructions and RESET, what
comes from outside (49_io.md, 60_exceptions.md section 1, 70_reset_and_hazards.md). -/

namespace Sys2Proof.Proofs.Cycle

open Sys2Proof Sys2Proof.Machine

-- Theorems elaborated side by side each hold a thread's stack, and the memory limit is near.
set_option Elab.async false

/-! ### The data channel at the end of an instruction -/

theorem orderRequests_nil (order : List (BitVec 6)) : orderRequests order [] = [] := by
  simp [orderRequests]

theorem serveChannel_of_empty {s : State} (h : s.dchQueue = []) : serveChannel s = s := by
  rw [serveChannel, h, orderRequests_nil, List.foldl_nil, ← h]
  rfl

/-! ### The end of an instruction (60_exceptions.md R561) -/

theorem unended_eq_false {s : State} (hs : s.console.suspended = false) (hc : s.cut = none) : s.unended = false := by
  simp [State.unended, hs, hc]

theorem endStep_next (s : State) : endStep (.next s) = runExec endOfInstruction s := rfl

/-- The end of an instruction in progress: after the data channel and the holds, an interrupt or a stop. -/
theorem endOfInstruction_apply {s : State} (hu : s.unended = false) (he : s.endless = .none) : endOfInstruction s =
    (if (serveChannel s).advanceHolds.canInterrupt = true then takeInterrupt
      else if (serveChannel s).advanceHolds.console.stopPending = true then stopProcessor else pure ())
        (serveChannel s).advanceHolds := by
  simp only [endOfInstruction, Exec.bind_apply, Exec.get_apply, hu, he, Bool.false_eq_true, if_false, ne_eq, not_true_eq_false,
    Exec.modify_apply]

theorem endStep_endless {s : State} (hu : s.unended = false) (he : s.endless ≠ .none) :
    endStep (.next s) = .next (serveChannel s) := by
  rw [endStep_next]
  apply runExec_ok
  simp only [endOfInstruction, Exec.bind_apply, Exec.get_apply, hu, Bool.false_eq_true, if_false, ne_eq, he,
    not_false_eq_true, if_true, Exec.modify_apply]

theorem endStep_unended {s : State} (hu : s.unended = true) : endStep (.next s) = .next s := by
  rw [endStep_next]
  apply runExec_ok
  simp only [endOfInstruction, Exec.bind_apply, Exec.get_apply, hu, if_true, Exec.pure_apply]

theorem stopProcessor_apply (s : State) : stopProcessor s = .ok () (((s.setFree (s.free + 1)).setRun false).setConsole
    { s.console with stopPending := false, oneShot := .none, dataLights := Config.freeWord s.free, addressLights := s.pc }) :=
  rfl

/-- An interrupt whose chain ends goes to the chain's end. -/
theorem takeInterrupt_ends {s : State} (hq : s.quiet = true) {n : Nat} {e : Addr} {x : State} (hn : n ≤ 34359738368)
    (hf : State.followAuto n s.interrupted 1 = some (e, x)) : takeInterrupt s = .ok () (x.setPc e) := by
  have hchase := chase_auto_calm supBus_calm chainFuel s.interrupted 0 1 (State.interrupted_calm hq)
  rw [State.followAuto_mono n chainFuel _ _ hn hf] at hchase
  rw [takeInterrupt_quiet hq, hchase]

theorem takeInterrupt_stuck {s : State} (hq : s.quiet = true) (hf : State.followAuto 34359738368 s.interrupted 1 = none) :
    ∃ t, takeInterrupt s = .error .stuck t := by
  have hchase := chase_auto_calm supBus_calm chainFuel s.interrupted 0 1 (State.interrupted_calm hq)
  rw [chainFuel, hf] at hchase
  obtain ⟨t, ht⟩ := hchase
  exact ⟨t, by rw [takeInterrupt_quiet hq, chainFuel, ht]⟩

/-- Settles O5: the parts of the end of an instruction, each under its condition. -/
theorem endOfInstruction : Obligations.EndOfInstruction := by
  unfold Obligations.EndOfInstruction
  refine ⟨fun t hs hc he => ?_, fun t hs hc he => endStep_endless (unended_eq_false hs hc) he,
    fun t hs => endStep_unended (by simp [State.unended, hs]), fun f => rfl, fun r => rfl⟩
  have hend := endOfInstruction_apply (unended_eq_false hs hc) he
  dsimp only
  generalize (serveChannel t).advanceHolds = u at hend
  refine ⟨serveChannel_of_empty, fun hi hp => ?_, fun hi hp => ⟨Config.freeWord u.free, ?_⟩, fun hi hq => ⟨fun n e x hn hf => ?_, fun hf => ?_⟩⟩
  · rw [if_neg (by simp [hi]), if_neg (by simp [hp])] at hend
    exact runExec_ok hend
  · rw [if_neg (by simp [hi]), if_pos hp] at hend
    exact runExec_ok hend
  · rw [if_pos hi, takeInterrupt_ends hq hn hf] at hend
    exact runExec_ok hend
  · obtain ⟨x, hx⟩ := takeInterrupt_stuck hq hf
    rw [if_pos hi, hx] at hend
    exact ⟨_, runExec_stuck hend, rfl⟩

/-! ### The step of a machine between steps -/

/-- The parts of the condition that nothing is asked from outside. -/
theorem undisturbed_iff (s : State) : s.undisturbed = true ↔ s.inputs = [] ∧ s.console.powered = true
    ∧ s.console.suspended = false ∧ s.console.resetInside = false := by
  simp only [State.undisturbed, Bool.and_eq_true, List.isEmpty_iff, Bool.not_eq_true', and_assoc]

theorem takeInputs_of_none {s : State} (h : s.inputs = []) : takeInputs s = s := by
  rw [takeInputs, h]

/-- Power, no suspension: the machine does something. -/
theorem machineStep_active {s : State} (hp : s.console.powered = true) (hs : s.console.suspended = false) :
    machineStep exec s = if s.endless ≠ .none then endlessStep s else if s.console.resetInside = true then abandonStep exec s
      else wholeStep exec s := by
  rw [machineStep, if_neg (by simp [hp, hs])]

theorem step_undisturbed_endless {s : State} (hu : s.undisturbed = true) (he : s.endless ≠ .none) : step s = endlessStep s := by
  obtain ⟨hin, hp, hs, hr⟩ := (undisturbed_iff s).1 hu
  rw [step, takeInputs_of_none hin, machineStep_active hp hs, if_pos he]

theorem step_undisturbed {s : State} (hu : s.undisturbed = true) (he : s.endless = .none) : step s = wholeStep exec s := by
  obtain ⟨hin, hp, hs, hr⟩ := (undisturbed_iff s).1 hu
  rw [step, takeInputs_of_none hin, machineStep_active hp hs, if_neg (by simp [he]), if_neg (by simp [hr])]

/-! ### RESET inside an instruction (70_reset_and_hazards.md R601) -/

/-- The words of a memory each as it was at a moment of its own. -/
theorem word_mixMemory (words : Nat) (f : Nat → Memory) (moment : Nat → Nat) (m : Memory) (h : Memory.wf m = true) (pa : Nat) :
    Memory.word (mixMemory words f moment m) pa = if pa < words then Memory.word (f (moment pa)) pa else Memory.word m pa := by
  unfold mixMemory
  induction words with
  | zero => rfl
  | succ n ih =>
    rw [List.range_succ, List.foldl_append, List.foldl_cons, List.foldl_nil]
    have hwf : Memory.wf ((List.range n).foldl (fun m k => Memory.setWord m k (Memory.word (f (moment k)) k)) m) = true :=
      mixMemory_wf n f moment m h
    by_cases hpa : pa = n
    · subst hpa
      rw [Memory.word_setWord_same _ hwf, if_pos (by omega)]
    · rw [Memory.word_setWord_other _ hwf _ _ _ hpa, ih]
      by_cases hlt : pa < n
      · rw [if_pos hlt, if_pos (by omega)]
      · rw [if_neg hlt, if_neg (by omega)]

/-- Each word of memory after a cut is the word at some moment. -/
theorem word_mixed (c : Nat) (f : Nat → State) (h : ∀ k, Memory.wf (f k).mem = true) (pa : Nat) :
    ∃ k, Memory.word (mixed c f).mem pa = Memory.word (f k).mem pa := by
  have hword := word_mixMemory (f (momentAt c 0)).cfg.memWords (fun n => (f n).mem) (fun k => momentAt c (256 + k))
    (f (momentAt c 0)).mem (h _) pa
  have hmem : (mixed c f).mem = mixMemory (f (momentAt c 0)).cfg.memWords (fun n => (f n).mem)
    (fun k => momentAt c (256 + k)) (f (momentAt c 0)).mem := rfl
  rw [hmem, hword]
  split
  · exact ⟨_, rfl⟩
  · exact ⟨_, rfl⟩

theorem ac_mixed (c : Nat) (f : Nat → State) (n : Acc) : ∃ k, (mixed c f).ac n = (f k).ac n := by
  cases n with
  | a0 => exact ⟨momentAt c 1, rfl⟩
  | a1 => exact ⟨momentAt c 2, rfl⟩
  | a2 => exact ⟨momentAt c 3, rfl⟩
  | a3 => exact ⟨momentAt c 4, rfl⟩

theorem fpac_mixed (c : Nat) (f : Nat → State) (n : Acc) : ∃ k, (mixed c f).fpac n = (f k).fpac n := by
  cases n with
  | a0 => exact ⟨momentAt c 7, rfl⟩
  | a1 => exact ⟨momentAt c 8, rfl⟩
  | a2 => exact ⟨momentAt c 9, rfl⟩
  | a3 => exact ⟨momentAt c 10, rfl⟩

/-- A RESET inside an instruction that leaves the machine unsuspended came before any suspension of the instruction. -/
theorem abandonStep_run {s t : State} (h : abandonStep exec s = .next t) (ht : t.console.suspended = false) :
    ∃ v, wholeStep exec (((s.setConsole { s.console with resetInside := false }).setDchQueue []).setCut
      (some (momentAt s.free 0))) = .next v ∧ v.console.suspended = false := by
  unfold abandonStep at h
  dsimp only at h
  split at h
  · next v hv =>
    refine ⟨v, hv, ?_⟩
    by_cases hs : v.console.suspended = true
    · rw [if_pos hs] at h
      cases h
      rw [← ht]
      rfl
    · simpa using hs
  · cases h
  · cases h

theorem wf_nextOr_wholeStep {u : State} (h : u.inv = true) (k : Nat) :
    Memory.wf (nextOr u (wholeStep exec (u.setCut (some k)))).mem = true := by
  have hk : (u.setCut (some k)).inv = true := h
  generalize ho : wholeStep exec (u.setCut (some k)) = o
  cases o with
  | next t => exact ((State.inv_iff t).1 (Invariant.preserved_wholeStep hk t ho)).1
  | fault f => exact ((State.inv_iff u).1 h).1
  | refused r => exact ((State.inv_iff u).1 h).1

/-- A console function of a machine in an endless instruction. -/
theorem console_of_endless {s : State} (hp : s.console.powered = true) (hs : s.console.suspended = false)
    (hon : s.console.power = .on) (he : s.endless ≠ .none) (f : ConsoleFn) :
    applyInput s (.console f) = runningFunction f s := by
  have hacts : s.consoleActs = true := by simp [State.consoleActs, hp, hs, hon]
  have happly : applyInput s (.console f) = consoleFunction f s := rfl
  rw [happly, consoleFunction, if_neg (by simp [hacts]), if_pos (by simp [he])]

/-- Settles O28: the endless states serve the channel, RESET ends them, and a RESET inside an instruction mixes its moments. -/
theorem endlessAndReset : Obligations.EndlessAndReset := by
  unfold Obligations.EndlessAndReset
  refine ⟨fun s hu => ⟨fun he => ?_, fun he hc => ?_, fun he hc => ?_⟩, fun s hp hs hon he => ?_, ?_⟩
  · rw [step_undisturbed_endless hu (by simp [he]), endlessStep, if_neg (by simp [he])]
  · rw [step_undisturbed_endless hu (by simp [he]), endlessStep, if_neg (by simp [hc])]
  · rw [step_undisturbed_endless hu (by simp [he]), endlessStep, if_pos ⟨he, hc⟩]
  · dsimp only
    rw [console_of_endless hp hs hon he, console_of_endless hp hs hon he]
    obtain ⟨t, ht, hmask, hmap, hion, hrun, hend, hmem, -, -, -, -, hacs, -⟩ := resetFunction_apply s
    have hreset : runningFunction .reset s = t := by
      show s.after resetFunction = t
      rw [State.after, ht]
    rw [hreset]
    exact ⟨rfl, hend, hrun, hion, hmask, hmap, hmem, hacs⟩
  · intro s t hp hs hr he hin hstep ht u moment
    rw [step, takeInputs_of_none hin, machineStep_active hp hs, if_neg (by simp [he]), if_pos hr] at hstep
    obtain ⟨v, hv, hvs⟩ := abandonStep_run hstep ht
    obtain ⟨x, hx, -, hmask, hmap, hion, hrun, -, hmem, -, hq, hcut, hcarry, hacs⟩ := abandonStep_next hv hvs
    have hxt : x = t := by
      rw [hx] at hstep
      exact Host.Outcome.next.inj hstep
    subst hxt
    refine ⟨hrun, hion, hmask, hmap, hq, hcut, fun n => ?_, fun n => ?_, ?_, fun hinv pa _ => ?_⟩
    · rw [(hacs n).1]
      exact ac_mixed _ _ n
    · rw [(hacs n).2]
      exact fpac_mixed _ _ n
    · rw [hcarry]
      exact ⟨momentAt s.free 5, rfl⟩
    · rw [hmem]
      have huinv : u.inv = true := Invariant.inv_of_same hinv rfl rfl rfl
      exact word_mixed _ _ (fun k => wf_nextOr_wholeStep huinv k) pa

/-! ### One request on the data channel (49_io.md R507; 46_map.md R315) -/

theorem blockOf_toNat (a : Addr) : (blockOf a).toNat = a.toNat / 1024 := by
  have ha := a.isLt
  rw [blockOf, BitVec.extractLsb'_toNat, Nat.shiftRight_eq_div_pow]
  omega

theorem offsetOf_toNat (a : Addr) : (offsetOf a).toNat = a.toNat % 1024 := by
  rw [offsetOf, BitVec.extractLsb'_toNat, Nat.shiftRight_eq_div_pow]
  omega

theorem physAddr_eq (b : BitVec 8) (a : Addr) : physAddr b a = b.toNat * 1024 + a.toNat % 1024 := by
  rw [physAddr, offsetOf_toNat]

/-- A map's entry for the block of an address, by the address's number. -/
theorem entryAt_blockOf (m : Vector MapEntry 32) (a : Addr) :
    entryAt m (blockOf a) = m.toList.getD (a.toNat / 1024) MapEntry.zero := by
  have ha : a.toNat / 1024 < m.toList.length := by
    have := a.isLt
    rw [Vector.length_toList]
    omega
  rw [List.getD_eq_getElem _ _ ha, Vector.getElem_toList, entryAt]
  simp only [blockOf_toNat]

/-- The data channel map a request of a device goes through. -/
theorem dchEntry_eq (s : State) (r : DchRequest) : s.dchEntry r =
    (if s.cfg.mapKind = .map230 then
      (match r.map with | .a => s.map.dmapA | .b => s.map.dmapB | .c => s.map.dmapC | .d => s.map.dmapD)
      else s.map.dmapA).toList.getD (r.addr.toNat / 1024) MapEntry.zero := by
  rw [← entryAt_blockOf, State.dchEntry]
  cases s.cfg.mapKind with
  | none => rfl
  | map200 => rfl
  | map230 =>
    rw [if_pos rfl]
    cases r.map <;> rfl

theorem hasMap_iff (s : State) : s.hasMap = true ↔ s.cfg.mapKind ≠ .none := by
  simp [State.hasMap]

theorem dchMapped_iff (s : State) : s.dchMapped = true ↔ s.cfg.mapKind ≠ .none ∧ s.map.dchEn = true := by
  rw [State.dchMapped, Bool.and_eq_true, hasMap_iff]

theorem dchTranslate_eq (s : State) (r : DchRequest) : s.dchTranslate r =
    if s.cfg.mapKind ≠ .none ∧ s.map.dchEn = true then (s.dchEntry r).phys.toNat * 1024 + r.addr.toNat % 1024
      else r.addr.toNat := by
  unfold State.dchTranslate
  by_cases h : s.cfg.mapKind ≠ .none ∧ s.map.dchEn = true
  · rw [if_pos h, if_pos ((dchMapped_iff s).2 h), physAddr_eq]
  · rw [if_neg h, if_neg (fun hm => h ((dchMapped_iff s).1 hm))]

theorem ustat_dchp (m : MapUnit) : (m.ustat m.lastUser).dchp = (match m.lastUser with | .a => m.ustatA.dchp | .b => m.ustatB.dchp) := by
  cases m.lastUser <;> rfl

/-- Data channel protection refuses an input to a write protected block on the S/200 and C/300. -/
theorem dchRefused_iff (s : State) (r : DchRequest) : s.dchRefused r = true ↔ (s.cfg.mapKind = .map200 ∧ s.map.dchEn = true
    ∧ (s.dchEntry r).wp = true ∧ (s.map.ustat s.map.lastUser).dchp = true) ∧ r.input.isSome = true := by
  have hmapped := dchMapped_iff s
  unfold State.dchRefused
  simp only [Bool.and_eq_true, beq_iff_eq, hmapped]
  constructor
  · rintro ⟨⟨⟨⟨hk, -, hen⟩, hp⟩, hw⟩, hi⟩
    exact ⟨⟨hk, hen, hw, hp⟩, hi⟩
  · rintro ⟨⟨hk, hen, hw, hp⟩, hi⟩
    exact ⟨⟨⟨⟨hk, by simp [hk], hen⟩, hp⟩, hw⟩, hi⟩

/-! ### The order of the requests -/

theorem flatMap_of_unlisted {l : List (BitVec 6)} {q : List DchRequest} (h : ∀ x ∈ q, x.code ∉ l) :
    l.flatMap (fun c => q.filter fun r => r.code == c) = [] := by
  rw [List.flatMap_eq_nil_iff]
  intro c hc
  rw [List.filter_eq_nil_iff]
  intro x hx heq
  exact h x hx (by rw [beq_iff_eq.1 heq]; exact hc)

/-- Two requests of listed devices come in bus order. -/
theorem orderRequests_pair {r q : DchRequest} {before between after : List (BitVec 6)} {l : List DchRequest}
    (hnd : (before ++ r.code :: between ++ q.code :: after).Nodup) (hl : l = [r, q] ∨ l = [q, r]) :
    orderRequests (before ++ r.code :: between ++ q.code :: after) l = [r, q] := by
  have hne : r.code ≠ q.code ∧ (∀ x ∈ [r, q], x.code ∉ before) ∧ (∀ x ∈ [r, q], x.code ∉ between)
      ∧ ∀ x ∈ [r, q], x.code ∉ after := by
    simp only [List.nodup_append, List.nodup_cons, List.mem_cons, List.mem_append] at hnd
    simp only [List.mem_cons, List.not_mem_nil, or_false, forall_eq_or_imp, forall_eq]
    grind
  obtain ⟨hrq, hb, hm, ha⟩ := hne
  have hmem : ∀ x, x ∈ l ↔ x ∈ [r, q] := by
    intro x
    rcases hl with rfl | rfl
    · rfl
    · simp [or_comm]
  have hfr : l.filter (fun x => x.code == r.code) = [r] := by
    rcases hl with rfl | rfl <;> simp [Ne.symm hrq]
  have hfq : l.filter (fun x => x.code == q.code) = [q] := by
    rcases hl with rfl | rfl <;> simp [hrq]
  have hrest : l.filter (fun x => !(before ++ r.code :: between ++ q.code :: after).contains x.code) = [] := by
    rw [List.filter_eq_nil_iff]
    intro x hx
    have hx' := (hmem x).1 hx
    simp only [List.mem_cons, List.not_mem_nil, or_false] at hx'
    rcases hx' with rfl | rfl <;> simp
  unfold orderRequests
  rw [hnd.dedup, hrest]
  simp only [List.flatMap_append, List.flatMap_cons, hfr, hfq, flatMap_of_unlisted (fun x hx => hb x ((hmem x).1 hx)),
    flatMap_of_unlisted (fun x hx => hm x ((hmem x).1 hx)), flatMap_of_unlisted (fun x hx => ha x ((hmem x).1 hx))]
  rfl

/-- Settles O10: a request's entry and place by the model's own translation, the order by the bus order. -/
theorem dataChannel : Obligations.DataChannel := by
  unfold Obligations.DataChannel
  refine ⟨fun s r => ?_, fun s r q before between after hbus hnd hq => ?_, fun s hu he hrun hone => ?_⟩
  · intro m table x pa barred
    have hx : s.dchEntry r = x := dchEntry_eq s r
    have hpa : s.dchTranslate r = pa := (dchTranslate_eq s r).trans (by rw [hx])
    have hiff : s.dchRefused r = true ↔ barred ∧ r.input.isSome = true := by
      have h := dchRefused_iff s r
      rw [hx, ustat_dchp] at h
      exact h
    refine ⟨fun v hv hb => ?_, fun v hv hb => ?_, fun hv hev => ?_⟩
    · rw [serveRequest, if_pos (hiff.2 ⟨hb, by simp [hv]⟩)]
    · rw [serveRequest, if_neg (fun h => hb (hiff.1 h).1), hv, hpa]
    · have hnot : ¬s.dchRefused r = true := fun h => by simpa [hv] using (hiff.1 h).2
      rw [serveRequest, if_neg hnot, hv, hpa]
      dsimp only
      rw [State.physRead_quiet hev]
      rfl
  · rw [serveChannel, hbus]
    rw [hbus] at hnd
    rw [orderRequests_pair hnd hq]
    rfl
  · rw [step_undisturbed hu he, wholeStep, if_neg (by simp [hrun]), idleStep, hone]

/-! ### Power (49_io.md R544; 70_reset_and_hazards.md R604) -/

/-- What the loss of power leaves. -/
theorem loseSupply_left (s : State) : (loseSupply s).console.powered = false ∧ (loseSupply s).run = false
    ∧ (loseSupply s).mem = s.mem := by
  obtain ⟨t, ht, -, -, -, hrun, -, hmem, -, -, -⟩ := powerUp_apply s
  have hafter : s.after powerUp = t := by rw [State.after, ht]
  rw [loseSupply, hafter]
  exact ⟨rfl, hrun, hmem⟩

/-- What the return of power leaves. -/
theorem gainSupply_left (restart : Bool) (s : State) : (gainSupply restart s).console.powered = true
    ∧ (gainSupply restart s).run = false ∧ (gainSupply restart s).ion = false ∧ (gainSupply restart s).mask = 0
    ∧ (gainSupply restart s).map.userEn = false ∧ (gainSupply restart s).mem = s.mem
    ∧ (gainSupply restart s).console.restartPending = restart := by
  obtain ⟨t, ht, hmask, hmap, hion, hrun, -, hmem, -, -, -⟩ := powerUp_apply s
  have hafter : s.after powerUp = t := by rw [State.after, ht]
  rw [gainSupply, hafter]
  exact ⟨rfl, hrun, hion, hmask, hmap, hmem, rfl⟩

theorem clockTick_eq (k : BitVec 2) (s : State) : clockTick k s =
    s.setRtc (if s.cfg.hasRtc && s.rtc.busy && s.rtc.freq == k then { s.rtc with busy := false, done := true } else s.rtc) := by
  unfold clockTick
  by_cases h : (s.cfg.hasRtc && s.rtc.busy && s.rtc.freq == k) = true
  · have h' : (s.cfg.hasRtc && s.rtc.freq == k && s.rtc.busy) = true := by
      rw [← h, Bool.and_right_comm]
    rw [if_pos h, if_pos h']
  · have h' : ¬(s.cfg.hasRtc && s.rtc.freq == k && s.rtc.busy) = true := by
      rwa [Bool.and_right_comm]
    rw [if_neg h, if_neg h']
    rfl

theorem applyInput_powered {s : State} (hp : s.console.powered = true) (f : State → State) : ifPowered f s = f s := by
  rw [ifPowered, if_pos hp]

/-! ### References that ADDRESS COMPARE or a memory error meets (70_reset_and_hazards.md R611; 49_io.md R535) -/

theorem suspendCpu_apply {α : Type} (s : State) : (suspendCpu : Exec α) s = .error .trap s.suspendedAt := by
  simp only [suspendCpu, Exec.bind_apply, freshWord_apply, Exec.modify_apply, Exec.throw_apply, addrOf_eq_setWidth]
  rfl

theorem spendCycle_uncut {s : State} (hc : s.cut = none) : spendCycle s = .ok () s := by
  simp only [spendCycle, Exec.bind_apply, Exec.get_apply, hc]
  rfl

theorem beforeAccess_uncut {s : State} (hc : s.cut = none) (a : Addr) : beforeAccess a s =
    if s.comparing = .stopAddr ∧ s.watchedAddr = a then .error .trap s.suspendedAt else .ok () s := by
  simp only [beforeAccess, Exec.bind_apply, spendCycle_uncut hc, Exec.get_apply]
  by_cases h : s.comparing = .stopAddr ∧ s.watchedAddr = a
  · rw [if_pos h, if_pos (by simp [h])]
    exact suspendCpu_apply s
  · rw [if_neg h, if_neg (by simpa using h)]
    rfl

theorem memRead_of_translate {s : State} (hc : s.cut = none) {a : Addr}
    (hb : ¬(s.comparing = .stopAddr ∧ s.watchedAddr = a)) {pa : Nat} (ht : s.translate false false a = .ok pa) :
    memRead a s = readAt pa a s := by
  simp only [memRead, readBus, Exec.bind_apply, beforeAccess_uncut hc, if_neg hb, Exec.get_apply, ht]

theorem memWrite_of_translate {s : State} (hc : s.cut = none) {a : Addr} (v : Word)
    (hb : ¬(s.comparing = .stopAddr ∧ s.watchedAddr = a)) {pa : Nat} (ht : s.translate false true a = .ok pa) :
    memWrite a v s = writeAt pa a v s := by
  simp only [memWrite, writeBus, Exec.bind_apply, beforeAccess_uncut hc, if_neg hb, Exec.get_apply, ht]

theorem readable_translate {s : State} {a : Addr} (h : s.readable a = true) :
    ∃ pa, s.translate false false a = .ok pa ∧ s.look a = s.content pa := by
  unfold State.readable at h
  unfold State.look
  split at h
  · next pa hpa => exact ⟨pa, hpa, rfl⟩
  · cases h

theorem writable_translate {s : State} {a : Addr} (h : s.writable a = true) (v : Word) :
    ∃ pa, s.translate false true a = .ok pa ∧ s.put a v = s.physWrite pa v := by
  unfold State.writable at h
  unfold State.put
  split at h
  · next pa hpa => exact ⟨pa, hpa, rfl⟩
  · cases h

theorem readAt_apply {s t : State} {pa : Nat} {v : Word} (h : s.physRead pa = (v, t)) (a : Addr) : readAt pa a s =
    match afterAccess false a v t with
    | .ok _ u => .ok v u
    | .error e u => .error e u := by
  simp only [readAt, Exec.bind_apply, Exec.get_apply, h, Exec.set_apply]
  generalize afterAccess false a v t = o
  cases o <;> rfl

/-- What follows an access: MONITOR shows the word of a watched location, STOP/STORE suspends after a store to it. -/
theorem afterAccess_apply (w : Bool) (a : Addr) (v : Word) (s : State) : afterAccess w a v s =
    match s.comparing with
    | .monitor => .ok () (if s.watchedAddr = a then s.setConsole { s.console with dataLights := v } else s)
    | .stopStore => if w = true ∧ s.watchedAddr = a then .error .trap s.suspendedAt else .ok () s
    | _ => .ok () s := by
  simp only [afterAccess, Exec.bind_apply, Exec.get_apply]
  cases s.comparing with
  | off => rfl
  | stopAddr => rfl
  | monitor =>
    dsimp only
    by_cases h : s.watchedAddr = a
    · rw [if_pos h, if_pos (by simp [h])]
      rfl
    · rw [if_neg h, if_neg (by simp [h])]
      rfl
  | stopStore =>
    dsimp only
    by_cases h : w = true ∧ s.watchedAddr = a
    · rw [if_pos h, if_pos (by simp [h])]
      exact suspendCpu_apply s
    · rw [if_neg h, if_neg (by simpa using h)]
      rfl

/-- An error that waits at an installed physical word is recorded when the ERCC checks. -/
theorem physRead_error {s : State} {pa : Nat} (hpa : pa < s.cfg.memWords) (he : s.cfg.hasErcc = true)
    (hm : s.ercc.mode.getLsbD 1 = true) {e : MemoryError} {rest : List MemoryError} (hev : s.ercc.events = e :: rest)
    (hea : e.addr = pa) : s.physRead pa = (e.delivered.getD (s.content pa),
      s.setErcc { s.ercc with faultAddr := BitVec.ofNat 17 pa, code := e.code, done := true, events := rest }) := by
  have hmode : (s.ercc.mode == 2 || s.ercc.mode == 3) = true := by
    generalize s.ercc.mode = m at hm ⊢
    revert m
    decide
  have hchecks : s.erccChecks = true := by rw [State.erccChecks, he, hmode]; rfl
  have htake : takeError pa s.ercc.events = some (e, rest) := by rw [hev, takeError, if_pos hea]
  unfold State.physRead State.content
  dsimp only
  rw [if_pos hpa, if_pos hpa, if_pos hchecks, htake]
  dsimp only
  cases e.delivered <;> rfl

/-- The comparison in force with the POWER switch not in LOCK. -/
theorem comparing_unlocked {s : State} (h : (s.console.power == .lock) = false) : s.comparing = s.console.addrCmp := by
  rw [State.comparing, if_neg (fun hc => by simp [hc.1] at h)]

theorem comparing_locked {s : State} (h : (s.console.power == .lock) = true) (hm : s.console.addrCmp ≠ .monitor) :
    s.comparing = .off := by
  rw [State.comparing, if_pos ⟨by simpa using h, hm⟩]

theorem comparing_monitor {s : State} (h : s.console.addrCmp = .monitor) : s.comparing = .monitor := by
  rw [State.comparing, if_neg (fun hc => hc.2 h), h]

/-- A read that no comparison stops. -/
theorem memRead_uncompared {s : State} (hc : s.cut = none) (hev : s.ercc.events = []) {a : Addr} (hr : s.readable a = true)
    (hb : s.comparing = .off ∨ s.comparing = .stopStore) : memRead a s = .ok (s.look a) s := by
  obtain ⟨pa, ht, hl⟩ := readable_translate hr
  rw [memRead_of_translate hc (by rcases hb with h | h <;> simp [h]) ht, readAt_apply (State.physRead_quiet hev pa), hl,
    afterAccess_apply]
  rcases hb with h | h
  · rw [h]
  · have hread : ¬(false = true ∧ s.watchedAddr = a) := by simp
    rw [h]
    dsimp only
    rw [if_neg hread]

/-- A read that MONITOR shows. -/
theorem memRead_monitored {s : State} (hc : s.cut = none) (hev : s.ercc.events = []) {a : Addr} (hr : s.readable a = true)
    (hb : s.comparing = .monitor) (hw : s.watchedAddr = a) :
    memRead a s = .ok (s.look a) (s.setConsole { s.console with dataLights := s.look a }) := by
  obtain ⟨pa, ht, hl⟩ := readable_translate hr
  rw [memRead_of_translate hc (by simp [hb]) ht, readAt_apply (State.physRead_quiet hev pa), hl, afterAccess_apply, hb]
  dsimp only
  rw [if_pos hw]

/-- A store changes nothing of what ADDRESS COMPARE looks at. -/
theorem comparing_put (s : State) (a : Addr) (v : Word) : (s.put a v).comparing = s.comparing := by
  rw [State.put_eq]
  rfl

theorem memWrite_uncompared {s : State} (hc : s.cut = none) {a : Addr} (v : Word) (hw : s.writable a = true)
    (hb : s.comparing = .off) : memWrite a v s = .ok () (s.put a v) := by
  obtain ⟨pa, ht, hp⟩ := writable_translate hw v
  rw [memWrite_of_translate hc v (by simp [hb]) ht]
  simp only [writeAt, Exec.bind_apply, Exec.modify_apply, ← hp]
  rw [afterAccess_apply, comparing_put, hb]

theorem memWrite_stopped {s : State} (hc : s.cut = none) {a : Addr} (v : Word) (hw : s.writable a = true)
    (hb : s.comparing = .stopStore) (ha : s.watchedAddr = a) : memWrite a v s = .error .trap (s.put a v).suspendedAt := by
  obtain ⟨pa, ht, hp⟩ := writable_translate hw v
  have ha' : (s.put a v).watchedAddr = a := by
    rw [State.put_eq]
    exact ha
  rw [memWrite_of_translate hc v (by simp [hb]) ht]
  simp only [writeAt, Exec.bind_apply, Exec.modify_apply, ← hp]
  rw [afterAccess_apply, comparing_put, hb]
  exact if_pos ⟨rfl, ha'⟩

theorem memory_stopAddr {s : State} (hc : s.cut = none) {a : Addr} (v : Word) (hb : s.comparing = .stopAddr)
    (ha : s.watchedAddr = a) : memRead a s = .error .trap s.suspendedAt ∧ memWrite a v s = .error .trap s.suspendedAt := by
  have hstop : beforeAccess a s = .error .trap s.suspendedAt := by
    rw [beforeAccess_uncut hc, if_pos ⟨hb, ha⟩]
  constructor
  · simp only [memRead, readBus, Exec.bind_apply, hstop]
  · simp only [memWrite, writeBus, Exec.bind_apply, hstop]

/-- Settles O12: each event by what it does to the state, and a reference by the comparison in force. -/
theorem outsideEvents : Obligations.OutsideEvents := by
  unfold Obligations.OutsideEvents
  refine ⟨fun s k hp => ?_, fun s hp => ?_, fun s a pa e rest hoff hc ht hpa he hm hev hea => ?_, fun s a v hc hev hsw => ?_⟩
  · obtain ⟨h1, h2, h3⟩ := loseSupply_left s
    have hlost : applyInput s .powerLost = loseSupply s := applyInput_powered hp _
    dsimp only
    rw [hlost]
    refine ⟨(applyInput_powered hp _).trans (clockTick_eq k s), (applyInput_powered hp _).trans ?_, h1, h2, h3, fun hr => ?_⟩
    · cases hopt : s.cfg.hasPfar with
      | true =>
        rw [if_pos rfl, Bool.or_true]
      | false =>
        rw [if_neg (by simp), Bool.or_false]
        rfl
    · have hauto : applyInput s .restartDelay = autoRestart s := rfl
      rw [hauto, autoRestart, if_pos ⟨hp, hr⟩]
  · have hrestore : applyInput s .powerRestored = restorePower s := rfl
    dsimp only
    rw [hrestore]
    refine ⟨fun hoff => ?_, fun hon => ?_⟩
    · rw [restorePower, if_pos (.inr hoff)]
    · rw [restorePower, if_neg (by simp [hp, hon])]
      exact gainSupply_left _ s
  · refine ⟨?_, ?_⟩
    · rw [memRead_of_translate hc (by simp [hoff]) ht, readAt_apply (physRead_error hpa he hm hev hea), afterAccess_apply]
      have hsame : ∀ x, (s.setErcc x).comparing = s.comparing := fun _ => rfl
      rw [hsame, hoff]
    · simp [State.erccReq, he]
  · have hwatch : s.watchedAddr = a := by rw [State.watchedAddr, addrOf_eq_setWidth, hsw]
    refine ⟨fun hcmp hl => ?_, fun hcmp hl hw => ?_, fun hcmp hr => ?_, fun hcmp hl hr => ?_, fun hcmp hl hw => ?_,
      fun hcmp hr => ?_⟩
    · exact memory_stopAddr hc v ((comparing_unlocked hl).trans hcmp) hwatch
    · exact memWrite_stopped hc v hw ((comparing_unlocked hl).trans hcmp) hwatch
    · refine memRead_uncompared hc hev hr ?_
      rcases hlock : (s.console.power == .lock) with _ | _
      · exact .inr ((comparing_unlocked hlock).trans hcmp)
      · exact .inl (comparing_locked hlock (by rw [hcmp]; decide))
    · exact memRead_uncompared hc hev hr (.inl (comparing_locked hl (by rcases hcmp with h | h <;> rw [h] <;> decide)))
    · exact memWrite_uncompared hc v hw (comparing_locked hl (by rcases hcmp with h | h <;> rw [h] <;> decide))
    · exact memRead_monitored hc hev hr (comparing_monitor hcmp) hwatch

end Sys2Proof.Proofs.Cycle
end

section
/-! SUPPORT. Effective addresses and the loads, stores and jumps that use them (20_memory.md section 3, 40_fixed_point.md
section 2, 44_program_flow.md sections 1 and 2). -/

namespace Sys2Proof.Proofs.Addresses

open Sys2Proof Sys2Proof.Machine Sys2Proof.Proofs.Cycle Sys2Proof.Proofs.FixedPoint Sys2Proof.Proofs.Encoding

-- Theorems elaborated side by side each hold a thread's stack, and the memory limit is near.
set_option Elab.async false

/-! ### Index modes as integers (20_memory.md R74, R78) -/

/-- A sum of an address and a signed displacement, clipped to 15 bits. -/
theorem ofInt_toNat_add {n w : Nat} (a : BitVec n) (d : BitVec w) :
    BitVec.ofInt 15 (a.toNat + d.toInt) = a.setWidth 15 + d.signExtend 15 := by
  rw [BitVec.ofInt_add, BitVec.ofInt_natCast, BitVec.ofNat_toNat]
  rfl

theorem shortBase_eq (s : State) (m : ShortMem) : s.shortBase m =
    match m.index with
    | .absolute => BitVec.ofNat 15 m.disp.toNat
    | .relative => BitVec.ofInt 15 (s.pc.toNat + m.disp.toInt)
    | .ac2 => BitVec.ofInt 15 (s.ac2.toNat + m.disp.toInt)
    | .ac3 => BitVec.ofInt 15 (s.ac3.toNat + m.disp.toInt) := by
  unfold State.shortBase
  cases m.index with
  | absolute =>
    dsimp only
    rw [BitVec.ofNat_toNat]
  | relative =>
    dsimp only
    rw [ofInt_toNat_add, BitVec.setWidth_eq]
  | ac2 =>
    dsimp only
    rw [ofInt_toNat_add, addrOf_eq_setWidth]
  | ac3 =>
    dsimp only
    rw [ofInt_toNat_add, addrOf_eq_setWidth]

theorem extBase_eq (s : State) (x : ExtMem) : s.extBase x =
    match x.index with
    | .absolute => x.disp
    | .relative => BitVec.ofInt 15 (s.pc.toNat + 1 + x.disp.toInt)
    | .ac2 => BitVec.ofInt 15 (s.ac2.toNat + x.disp.toInt)
    | .ac3 => BitVec.ofInt 15 (s.ac3.toNat + x.disp.toInt) := by
  unfold State.extBase
  cases x.index with
  | absolute => rfl
  | relative =>
    have hcast : (s.pc.toNat : Int) + 1 = ((s.pc.toNat + 1 : Nat) : Int) := rfl
    dsimp only
    rw [BitVec.ofInt_add, hcast, BitVec.ofInt_natCast, BitVec.ofInt_toInt, BitVec.ofNat_add, BitVec.ofNat_toNat,
      BitVec.setWidth_eq]
    rfl
  | ac2 =>
    dsimp only
    rw [ofInt_toNat_add, BitVec.signExtend_eq, addrOf_eq_setWidth]
  | ac3 =>
    dsimp only
    rw [ofInt_toNat_add, BitVec.signExtend_eq, addrOf_eq_setWidth]

/-! ### Chains of the short class (20_memory.md R77) -/

/-- An indirect operand of the short class in a calm state goes where `followAuto` says. -/
theorem eaShort_indirect {s : State} (h : s.calm = true) (he : s.map.enablePending = none) {m : ShortMem} (hm : m.ind = true) :
    match State.followAuto chainFuel s (s.shortBase m) with
    | some (e, t) => eaShort m s = .ok e t
    | none => ∃ t, eaShort m s = .error .stuck t := by
  have hchase := chase_auto_calm eaBus_calm chainFuel s 0 (s.shortBase m) ⟨h, he⟩
  have hea : eaShort m s = chase eaBus true chainFuel 0 false (s.shortBase m) s := by
    simp only [eaShort, Exec.bind_apply, Exec.get_apply, hm, if_true]
    rfl
  rwa [← hea] at hchase

theorem eaShort_followAuto {s t : State} (h : s.calm = true) (he : s.map.enablePending = none) {m : ShortMem} (hm : m.ind = true)
    {n : Nat} (hn : n ≤ chainFuel) {e : Addr} (hf : State.followAuto n s (s.shortBase m) = some (e, t)) :
    eaShort m s = .ok e t := by
  have hea := eaShort_indirect h he hm
  rwa [State.followAuto_mono n chainFuel _ _ hn hf] at hea

/-- A chain of one level. -/
theorem followAuto_one {s : State} {a : Addr} (hw : isIndirect (s.look a) = false) :
    State.followAuto 1 s a = some
      (((if 16 ≤ a.toNat ∧ a.toNat ≤ 23 then s.look a + 1 else if 24 ≤ a.toNat ∧ a.toNat ≤ 31 then s.look a - 1
        else s.look a).setWidth 15),
      if 16 ≤ a.toNat ∧ a.toNat ≤ 31 then s.put a (if 16 ≤ a.toNat ∧ a.toNat ≤ 23 then s.look a + 1
        else if 24 ≤ a.toNat ∧ a.toNat ≤ 31 then s.look a - 1 else s.look a) else s) := by
  rw [isIndirect_eq_msb] at hw
  simp only [State.followAuto, hw, Bool.false_eq_true, if_false]

/-- Settles O18: the index modes by their definitions, the chains by `followAuto`. -/
theorem operandAddresses : Obligations.OperandAddresses := by
  unfold Obligations.OperandAddresses
  refine ⟨fun s m x => ⟨fun hm => ?_, fun hx => ?_⟩, fun s m h he hm hw => ?_, fun s t m n e h he hm hn hf => ?_⟩
  · exact (eaShort_direct s m hm).trans (congrArg (EStateM.Result.ok · s) (shortBase_eq s m))
  · exact (eaExt_calm_direct s x hx).trans (congrArg (EStateM.Result.ok · s) (extBase_eq s x))
  · have hone := followAuto_one hw
    have hea : ∀ {e : Addr} {t : State}, State.followAuto 1 s (s.shortBase m) = some (e, t) → eaShort m s = .ok e t :=
      eaShort_followAuto h he hm (by decide)
    dsimp only
    refine ⟨fun hr => hea ?_, fun hr => hea ?_, fun hr => hea ?_⟩
    · rw [hone, if_pos hr, if_pos ⟨hr.1, by omega⟩]
    · rw [hone, if_neg (by omega), if_pos hr, if_pos ⟨by omega, hr.2⟩]
    · rw [hone, if_neg (by omega), if_neg (by omega), if_neg (by omega)]
  · exact eaShort_followAuto h he hm hn hf

/-! ### A stored word (20_memory.md R61, R65) -/

theorem put_of_translate {s : State} {a : Addr} {pa : Nat} (ht : s.translate false true a = .ok pa) (v : Word) :
    s.put a v = s.physWrite pa v := by
  rw [State.put, ht]

theorem physWrite_missing {s : State} {pa : Nat} (h : s.cfg.memWords ≤ pa) (v : Word) : s.physWrite pa v = s := by
  rw [State.physWrite, if_neg (by omega)]

theorem wf_physWrite {s : State} (h : Memory.wf s.mem = true) (pa : Nat) (v : Word) : Memory.wf (s.physWrite pa v).mem = true := by
  unfold State.physWrite
  split
  · exact Memory.wf_setWord _ h _ _
  · exact h

/-- Settles O21: the laws of a store at the physical word the address goes to. -/
theorem storedWordReadsBack : Obligations.StoredWordReadsBack := by
  unfold Obligations.StoredWordReadsBack
  intro s a v pa hwf ht
  rw [put_of_translate ht]
  exact ⟨fun hpa => State.content_physWrite_same hwf hpa v, fun qa hq => State.content_physWrite_other hwf hq v,
    fun n h0 h1 => State.byte_physWrite hwf pa v n h0 h1, fun hpa => physWrite_missing hpa v, State.physWrite_eq s pa v,
    wf_physWrite hwf pa v⟩

/-! ### The frame of an address calculation -/

/-- A low address is its own physical address in a calm state. -/
theorem unmapped_of_lt {s : State} {a : Addr} (ha : a.toNat < 1024) : s.unmapped a = a.toNat := by
  have hb : (blockOf a == 31) = false := by
    have h0 := blockOf_toNat a
    rw [beq_eq_false_iff_ne]
    intro hb
    rw [hb] at h0
    simp at h0
    omega
  rw [State.unmapped, hb, Bool.and_false, if_neg (by simp)]

/-- A state that differs in memory outside the auto-index words at most nowhere. -/
structure IndexFrame (s t : State) : Prop where
  shape : t = s.setMem t.mem
  wf : Memory.wf t.mem = true
  bytes : ∀ n, n < 32 ∨ 64 ≤ n → Memory.byte t.mem n = Memory.byte s.mem n

theorem IndexFrame.refl {s : State} (h : Memory.wf s.mem = true) : IndexFrame s s :=
  ⟨rfl, h, fun _ _ => rfl⟩

theorem IndexFrame.trans {s t u : State} (h1 : IndexFrame s t) (h2 : IndexFrame t u) : IndexFrame s u where
  shape := by
    rw [h2.shape, h1.shape]
    rfl
  wf := h2.wf
  bytes n hn := (h2.bytes n hn).trans (h1.bytes n hn)

/-- A store to an auto-index word. -/
theorem IndexFrame.put {s : State} (h : s.calm = true) (hwf : Memory.wf s.mem = true) {a : Addr} (ha : 16 ≤ a.toNat ∧ a.toNat ≤ 31)
    (v : Word) : IndexFrame s (s.put a v) := by
  have hp : s.put a v = s.physWrite a.toNat v := by
    rw [State.put_of_calm h, unmapped_of_lt (by omega)]
  rw [hp]
  exact ⟨State.physWrite_eq s _ v, wf_physWrite hwf _ v, fun n hn => State.byte_physWrite hwf _ v n (by omega) (by omega)⟩

/-- A chain with auto-index updates stores to the auto-index words only. -/
theorem followAuto_frame : ∀ (n : Nat) (s t : State) (a e : Addr), s.calm = true → Memory.wf s.mem = true →
    State.followAuto n s a = some (e, t) → IndexFrame s t
  | 0, _, _, _, _, _, _, h => by simp [State.followAuto] at h
  | n + 1, s, t, a, e, hc, hwf, h => by
    simp only [State.followAuto] at h
    generalize hv : (if 16 ≤ a.toNat ∧ a.toNat ≤ 23 then s.look a + 1 else if 24 ≤ a.toNat ∧ a.toNat ≤ 31 then s.look a - 1
      else s.look a) = v at h
    have hstep : IndexFrame s (if 16 ≤ a.toNat ∧ a.toNat ≤ 31 then s.put a v else s)
        ∧ (if 16 ≤ a.toNat ∧ a.toNat ≤ 31 then s.put a v else s).calm = true := by
      split
      · next ha => exact ⟨IndexFrame.put hc hwf ha v, (State.put_calm s a v).trans hc⟩
      · exact ⟨IndexFrame.refl hwf, hc⟩
    split at h
    · exact hstep.1.trans (followAuto_frame n _ t _ e hstep.2 hstep.1.wf h)
    · cases h
      exact hstep.1

/-- An extended operand in a calm state changes nothing. -/
theorem eaExt_unchanged {s t : State} (h : s.calm = true) (he : s.map.enablePending = none) {x : ExtMem} {e : Addr}
    (hx : eaExt x s = .ok e t) : t = s := by
  cases hind : x.ind with
  | false =>
    rw [eaExt_calm_direct s x hind] at hx
    cases hx
    rfl
  | true =>
    have hchase : eaExt x s = chase eaBus false chainFuel 0 false (s.extBase x) s := by
      simp only [eaExt, Exec.bind_apply, Exec.get_apply, hind, if_true]
      rfl
    rw [hchase, chase_calm rfl rfl (enablePendingUser_none he) h] at hx
    split at hx
    · cases hx
      rfl
    · cases hx

/-- Settles O20: the extended class stores nothing, the short class to the words its chain passes. -/
theorem addressCalculationFrame : Obligations.AddressCalculationFrame := by
  unfold Obligations.AddressCalculationFrame
  intro s t e h he hwf
  refine ⟨fun x hx => eaExt_unchanged h he hx, fun m hm => ?_⟩
  have hframe : IndexFrame s t := by
    cases hind : m.ind with
    | false =>
      rw [eaShort_direct s m hind] at hm
      cases hm
      exact IndexFrame.refl hwf
    | true =>
      have hea := eaShort_indirect h he hind
      split at hea
      · next e' t' hf =>
        rw [hea] at hm
        cases hm
        exact followAuto_frame _ _ _ _ _ h hwf hf
      · obtain ⟨t', ht'⟩ := hea
        rw [ht'] at hm
        cases hm
  exact ⟨hframe.shape, hframe.bytes⟩

/-! ### The length of a chain (20_memory.md R76) -/

theorem chainAddr_shift (s : State) (a : Addr) (k : Nat) : s.chainAddr (addrOf (s.look a)) k = s.chainAddr a (k + 1) := by
  induction k with
  | zero => rfl
  | succ k ih =>
    rw [State.chainAddr, ih]
    rfl

/-- A chain does not end within n levels when all of its first n words are indirect. -/
theorem follow_eq_none_iff (s : State) (n : Nat) (a : Addr) :
    s.follow n a = none ↔ ∀ k, k < n → isIndirect (s.look (s.chainAddr a k)) = true := by
  induction n generalizing a with
  | zero => simp [State.follow]
  | succ n ih =>
    rw [State.follow]
    constructor
    · intro h k hk
      split at h
      · next hi =>
        cases k with
        | zero => exact hi
        | succ k =>
          rw [← chainAddr_shift]
          exact (ih _).1 h k (by omega)
      · cases h
    · intro h
      have hi : isIndirect (s.look a) = true := h 0 (by omega)
      rw [if_pos hi, ih]
      intro k hk
      rw [chainAddr_shift]
      exact h (k + 1) (by omega)

/-- Two equal addresses of a chain are followed by equal addresses. -/
theorem chainAddr_add {s : State} {a : Addr} {i j : Nat} (h : s.chainAddr a i = s.chainAddr a j) (m : Nat) :
    s.chainAddr a (i + m) = s.chainAddr a (j + m) := by
  induction m with
  | zero => exact h
  | succ m ih =>
    have hi : s.chainAddr a (i + (m + 1)) = addrOf (s.look (s.chainAddr a (i + m))) := rfl
    have hj : s.chainAddr a (j + (m + 1)) = addrOf (s.look (s.chainAddr a (j + m))) := rfl
    rw [hi, hj, ih]

/-- Among 32,769 addresses of a chain two are equal. -/
theorem chainAddr_repeats (s : State) (a : Addr) : ∃ i j, i < j ∧ j ≤ 32768 ∧ s.chainAddr a i = s.chainAddr a j := by
  have hcard : Fintype.card (Fin 32768) < Fintype.card (Fin 32769) := by
    rw [Fintype.card_fin, Fintype.card_fin]
    omega
  obtain ⟨i, j, hne, heq⟩ := Fintype.exists_ne_map_eq_of_card_lt (fun i : Fin 32769 => (s.chainAddr a i.val).toFin) hcard
  have haddr : s.chainAddr a i.val = s.chainAddr a j.val := by
    have h := congrArg BitVec.ofFin heq
    exact h
  rcases Nat.lt_or_gt_of_ne (fun h => hne (Fin.ext h)) with hlt | hlt
  · exact ⟨i.val, j.val, hlt, by omega, haddr⟩
  · exact ⟨j.val, i.val, hlt, by omega, haddr.symm⟩

/-- Every address of a chain is among its first 32,768. -/
theorem chainAddr_early (s : State) (a : Addr) (k : Nat) : ∃ l, l < 32768 ∧ s.chainAddr a k = s.chainAddr a l := by
  induction k using Nat.strong_induction_on with
  | _ k ih =>
    by_cases hk : k < 32768
    · exact ⟨k, hk, rfl⟩
    · obtain ⟨i, j, hij, hj, heq⟩ := chainAddr_repeats s a
      obtain ⟨l, hl, h⟩ := ih (k - (j - i)) (by omega)
      refine ⟨l, hl, ?_⟩
      rw [← h]
      have hadd := chainAddr_add heq (k - j)
      rw [show j + (k - j) = k by omega, show i + (k - j) = k - (j - i) by omega] at hadd
      exact hadd.symm

theorem follow_none_of_none {s : State} {a : Addr} (h : s.follow 32768 a = none) (n : Nat) : s.follow n a = none := by
  rw [follow_eq_none_iff] at h ⊢
  intro k _
  obtain ⟨l, hl, heq⟩ := chainAddr_early s a k
  rw [heq]
  exact h l hl

theorem follow_stable (s : State) (a : Addr) {n : Nat} (hn : 32768 ≤ n) : s.follow n a = s.follow 32768 a := by
  cases h : s.follow 32768 a with
  | none => exact follow_none_of_none h n
  | some e => exact s.follow_mono _ _ a hn h

/-! ### A chain that a RESET may cut (70_reset_and_hazards.md R601) -/

/-- A read in a calm state but for the cycles left: it is made, or the instruction is abandoned before it. -/
theorem readBus_cut {s : State} (h : s.calm = true) (c : Option Nat) (a : Addr) :
    (∃ d, readBus false a (s.setCut c) = .ok (s.look a) (s.setCut d)) ∨ readBus false a (s.setCut c) = .error .trap (s.setCut c) := by
  obtain ⟨hq, hu⟩ := (State.calm_iff s).1 h
  obtain ⟨hoff, hev, -⟩ := (State.quiet_iff s).1 hq
  have hspent : ∀ d, beforeAccess a (s.setCut c) = .ok () (s.setCut d) →
      readBus false a (s.setCut c) = .ok (s.look a) (s.setCut d) := fun d hb => by
    have hcmp : (s.setCut d).comparing = .off := hoff
    have htr : (s.setCut d).translate false false a = .ok (s.unmapped a) := by
      have hud : (s.setCut d).userMode = false := hu
      rw [State.translate, hud, Bool.and_false, Bool.or_self, if_neg (by simp)]
      rfl
    have hphys : (s.setCut d).physRead (s.unmapped a) = (s.content (s.unmapped a), s.setCut d) :=
      State.physRead_quiet (s := s.setCut d) hev _
    simp only [readBus, Exec.bind_apply, hb, Exec.get_apply, htr, readAt_apply hphys, afterAccess_apply, hcmp,
      State.look_of_calm h]
  have hnot : ¬((s.setCut none).comparing = .stopAddr ∧ (s.setCut none).watchedAddr = a) := fun hc => by
    have hcmp : (s.setCut none).comparing = .off := hoff
    rw [hcmp] at hc
    cases hc.1
  cases c with
  | none => exact .inl ⟨none, hspent none ((beforeAccess_uncut rfl a).trans (if_neg hnot))⟩
  | some n =>
    cases n with
    | zero =>
      have hspend : spendCycle (s.setCut (some 0)) = .error .trap (s.setCut (some 0)) := rfl
      right
      simp only [readBus, beforeAccess, Exec.bind_apply, hspend]
    | succ k =>
      have hspend : spendCycle (s.setCut (some (k + 1))) = .ok () (s.setCut (some k)) := rfl
      have hcmp : (s.setCut (some k)).comparing = .off := hoff
      refine .inl ⟨some k, hspent (some k) ?_⟩
      simp only [beforeAccess, Exec.bind_apply, hspend, Exec.get_apply, hcmp]
      rfl

/-- A chain of the extended class changes nothing but the cycles left. -/
theorem chase_cut {s : State} (h : s.calm = true) (he : s.map.enablePending = none) (n : Nat) :
    ∀ (k : Nat) (a : Addr) (c : Option Nat), ∃ d, stateOf (chase eaBus false n k false a (s.setCut c)) = s.setCut d := by
  obtain ⟨hq, hu⟩ := (State.calm_iff s).1 h
  induction n with
  | zero => exact fun k a c => ⟨c, rfl⟩
  | succ n ih =>
    intro k a c
    have hguard : ∀ d, eaBus.guard k (s.setCut d) = .ok () (s.setCut d) := fun d => by
      have hud : (s.setCut d).userMode = false := hu
      show indirectGuard k (s.setCut d) = _
      simp [indirectGuard, hud]
    have hafter : ∀ d, eaBus.after (s.setCut d) = .ok () (s.setCut d) := fun d => enablePendingUser_none he
    rcases readBus_cut h c a with ⟨d, hr⟩ | hr
    · have hlevel : chainLevel eaBus false false a (s.setCut c) = .ok (s.look a, isIndirect (s.look a)) (s.setCut d) := by
        have hr' : eaBus.read false a (s.setCut c) = .ok (s.look a) (s.setCut d) := hr
        simp only [chainLevel, Exec.bind_apply, hr']
        cases autoUpdate a (s.look a) <;> simp
      simp only [chase, Exec.bind_apply, hguard, hlevel, hafter]
      cases isIndirect (s.look a) with
      | false => exact ⟨d, rfl⟩
      | true => exact ih (k + 1) (addrOf (s.look a)) d
    · have hlevel : chainLevel eaBus false false a (s.setCut c) = .error .trap (s.setCut c) := by
        have hr' : eaBus.read false a (s.setCut c) = .error .trap (s.setCut c) := hr
        simp only [chainLevel, Exec.bind_apply, hr']
      simp only [chase, Exec.bind_apply, hguard, hlevel]
      exact ⟨c, rfl⟩

/-- The rule of EJMP. -/
def ejmpRule (x : ExtMem) : Exec Unit := do
  let e ← eaExt x
  jumpTo e

theorem exec_ejmp (x : ExtMem) (s : State) : exec (.ejmp x) s = runExec (ejmpRule x) s := rfl

theorem eaExt_indirect {x : ExtMem} (hx : x.ind = true) (s : State) :
    eaExt x s = chase eaBus false chainFuel 0 false (s.extBase x) s := by
  simp only [eaExt, Exec.bind_apply, Exec.get_apply, hx, if_true]
  rfl

/-- At every moment of an EJMP in a calm state the accumulators are those before it. -/
theorem ejmp_moment {s : State} (h : s.calm = true) (he : s.map.enablePending = none) {x : ExtMem} (hx : x.ind = true) (k : Nat) :
    ∀ n, (stateAfterCycles (ejmpRule x) s k).ac n = s.ac n ∧ (stateAfterCycles (ejmpRule x) s k).fpac n = s.fpac n := by
  obtain ⟨d, hd⟩ := chase_cut h he chainFuel 0 (s.extBase x) (some k)
  have hea : eaExt x (s.setCut (some k)) = chase eaBus false chainFuel 0 false (s.extBase x) (s.setCut (some k)) :=
    eaExt_indirect hx _
  unfold stateAfterCycles ejmpRule
  rw [Exec.bind_apply, hea]
  generalize chase eaBus false chainFuel 0 false (s.extBase x) (s.setCut (some k)) = o at hd
  cases o with
  | ok e t =>
    have ht : t = s.setCut d := hd
    subst ht
    intro n
    cases n <;> exact ⟨rfl, rfl⟩
  | error e t =>
    have ht : t = s.setCut d := hd
    subst ht
    intro n
    cases n <;> exact ⟨rfl, rfl⟩

/-- Settles O19: of 32,769 addresses of a chain two are equal, so a chain that has not ended by then never ends. -/
theorem chainsEndOrNeverEnd : Obligations.ChainsEndOrNeverEnd := by
  unfold Obligations.ChainsEndOrNeverEnd
  refine ⟨fun s a n hn => follow_stable s a hn, fun s x h he hx => ⟨fun e hf => ?_, fun hf => ?_⟩⟩
  · exact eaExt_calm h he x (fun _ => State.follow_chainFuel s hf) (fun hd => by simp [hx] at hd)
  · have hstuck : ejmpRule x s = .error .stuck s := by
      rw [ejmpRule, Exec.bind_apply, eaExt_indirect hx, chase_calm rfl rfl (enablePendingUser_none he) h,
        follow_none_of_none hf chainFuel]
    refine ⟨stuckIn (ejmpRule x) s, (exec_ejmp x s).trans (runExec_stuck hstuck), rfl, fun n => ?_⟩
    have hmixed : ∀ n, (stuckIn (ejmpRule x) s).ac n = (mixed s.free (stateAfterCycles (ejmpRule x) s)).ac n
        ∧ (stuckIn (ejmpRule x) s).fpac n = (mixed s.free (stateAfterCycles (ejmpRule x) s)).fpac n := fun n => by
      cases n <;> exact ⟨rfl, rfl⟩
    obtain ⟨i, hi⟩ := ac_mixed s.free (stateAfterCycles (ejmpRule x) s) n
    obtain ⟨j, hj⟩ := fpac_mixed s.free (stateAfterCycles (ejmpRule x) s) n
    rw [(hmixed n).1, (hmixed n).2, hi, hj]
    exact ⟨(ejmp_moment h he hx i n).1, (ejmp_moment h he hx j n).2⟩

/-! ### Loads and stores (40_fixed_point.md section 2, 41_logical.md section 2) -/

/-- MAP SINGLE CYCLE stays off in a rule that finds it off. -/
theorem singleOver_of_none {s : State} (h : s.map.singlePending = false) : s.singleOver = s := by
  unfold State.singleOver
  rw [← h]
  rfl

theorem singleUse_ok {m : Exec Unit} {s t : State} (h : m s = .ok () t) : singleUse m s = .ok () t.singleOver := by
  rw [singleUse, h]

theorem addressed_short {m : ShortMem} {s u : State} {e : Addr} (h : eaShort m s = .ok e u) : s.Addressed u :=
  Addressing.eaShort m s u e h

theorem addressed_ext {x : ExtMem} {s u : State} {e : Addr} (h : eaExt x s = .ok e u) : s.Addressed u :=
  Addressing.eaExt x s u e h

theorem exec_lda {m : ShortMem} {s u : State} {e : Addr} (a : Acc) (h : eaShort m s = .ok e u)
    (hs : s.map.singlePending = false) (hq : u.quiet = true) (hr : u.readable e = true) :
    exec (.lda a m) s = .next ((u.setAc a (u.look e)).setPc (s.pc + 1)) := by
  have haddr := addressed_short h
  have hexec : exec (.lda a m) s = execLda a m s := rfl
  have hover : ((u.setAc a (u.look e)).setPc (s.pc + 1)).singleOver = (u.setAc a (u.look e)).setPc (s.pc + 1) :=
    singleOver_of_none (by simp [haddr.single, hs])
  rw [hexec, execLda, ← hover]
  apply runExec_ok
  apply singleUse_ok
  simp only [Exec.bind_apply, eaShortSingle_none hs h, readBus_quiet hq hr, Exec.modify_apply, advance_apply, State.setAc_pc,
    haddr.pc]

theorem exec_sta {m : ShortMem} {s u : State} {e : Addr} (a : Acc) (h : eaShort m s = .ok e u)
    (hs : s.map.singlePending = false) (hq : u.quiet = true) (hw : u.writable e = true) :
    exec (.sta a m) s = .next ((u.put e (s.ac a)).setPc (s.pc + 1)) := by
  have haddr := addressed_short h
  have hexec : exec (.sta a m) s = execSta a m s := rfl
  have hover : ((u.put e (s.ac a)).setPc (s.pc + 1)).singleOver = (u.put e (s.ac a)).setPc (s.pc + 1) :=
    singleOver_of_none (by simp [haddr.single, hs])
  rw [hexec, execSta, ← hover]
  apply runExec_ok
  apply singleUse_ok
  simp only [Exec.bind_apply, eaShortSingle_none hs h, Exec.get_apply, writeBus_quiet hq hw, advance_apply, State.put_pc,
    haddr.pc, haddr.ac]

theorem exec_lef {m : ShortMem} {s u : State} {e : Addr} (a : Acc) (h : eaShort m s = .ok e u) :
    exec (.lef a m) s = .next ((u.setAc a (wordOfAddr e)).setPc (s.pc + 1)) := by
  have hexec : exec (.lef a m) s = execLef a m s := rfl
  rw [hexec, execLef]
  apply runExec_ok
  simp only [Exec.bind_apply, h, Exec.modify_apply, advance_apply, State.setAc_pc, (addressed_short h).pc]

theorem exec_elda {x : ExtMem} {s u : State} {e : Addr} (a : Acc) (h : eaExt x s = .ok e u) (hq : u.quiet = true)
    (hr : u.readable e = true) : exec (.elda a x) s = .next ((u.setAc a (u.look e)).setPc (s.pc + 2)) := by
  have hexec : exec (.elda a x) s = execElda a x s := rfl
  rw [hexec, execElda]
  apply runExec_ok
  simp only [Exec.bind_apply, h, memRead_quiet hq hr, Exec.modify_apply, advance_apply, State.setAc_pc, (addressed_ext h).pc]

theorem exec_esta {x : ExtMem} {s u : State} {e : Addr} (a : Acc) (h : eaExt x s = .ok e u) (hq : u.quiet = true)
    (hw : u.writable e = true) : exec (.esta a x) s = .next ((u.put e (s.ac a)).setPc (s.pc + 2)) := by
  have haddr := addressed_ext h
  have hexec : exec (.esta a x) s = execEsta a x s := rfl
  rw [hexec, execEsta]
  apply runExec_ok
  simp only [Exec.bind_apply, h, Exec.get_apply, memWrite_quiet hq hw, advance_apply, State.put_pc, haddr.pc, haddr.ac]

theorem exec_elef {x : ExtMem} {s u : State} {e : Addr} (a : Acc) (h : eaExt x s = .ok e u) :
    exec (.elef a x) s = .next ((u.setAc a (wordOfAddr e)).setPc (s.pc + 2)) := by
  have hexec : exec (.elef a x) s = execElef a x s := rfl
  rw [hexec, execElef]
  apply runExec_ok
  simp only [Exec.bind_apply, h, Exec.modify_apply, advance_apply, State.setAc_pc, (addressed_ext h).pc]

/-! ### The reference of a MAP SINGLE CYCLE (46_map.md R321, R340) -/

/-- The one mapped reference goes where the user's would. -/
theorem translate_single {s : State} (hc : s.calm = true) (hm : s.hasMap = true) (w : Bool) (b : Addr) :
    s.translate true w b = (s.setMap { s.map with userEn := true }).translate false w b := by
  have hu : s.userMode = false := ((State.calm_iff s).1 hc).2
  have hu' : (s.setMap { s.map with userEn := true }).userMode = true := by
    have : (s.setMap { s.map with userEn := true }).userMode = (s.hasMap && true) := rfl
    rw [this, hm]
    rfl
  have hmapped : (s.setMap { s.map with userEn := true }).mapped w b = s.mapped w b := by
    cases s.map.lastUser <;> cases s.map.ab <;> rfl
  rw [State.translate, State.translate, hu, hm, hu', if_pos (by simp), if_pos (by simp), hmapped]

theorem readBus_single {s : State} (hq : s.quiet = true) {b : Addr} {pa : Nat} (ht : s.translate true false b = .ok pa) :
    readBus true b s = .ok (s.content pa) s := by
  obtain ⟨hoff, hev, -⟩ := (State.quiet_iff s).1 hq
  simp only [readBus, Exec.bind_apply, beforeAccess_quiet hq, Exec.get_apply, ht, readAt_apply (State.physRead_quiet hev pa),
    afterAccess_apply, hoff]

theorem writeBus_single {s : State} (hq : s.quiet = true) {b : Addr} {pa : Nat} (v : Word) (ht : s.translate true true b = .ok pa) :
    writeBus true b v s = .ok () (s.physWrite pa v) := by
  obtain ⟨hoff, -, -⟩ := (State.quiet_iff s).1 hq
  simp only [writeBus, Exec.bind_apply, beforeAccess_quiet hq, Exec.get_apply, ht, writeAt, Exec.modify_apply, afterAccess_apply,
    State.physWrite_comparing, hoff]

/-- An indirect operand whose one address word is read through the user map. -/
theorem eaShortSingle_indirect {s : State} (hc : s.calm = true) {m : ShortMem} (hm : m.ind = true)
    (hs : s.map.singlePending = true) (he : s.map.enablePending = none) {pa : Nat}
    (ht : s.translate true false (s.shortBase m) = .ok pa) (hw : isIndirect (s.content pa) = false)
    (hb : (s.shortBase m).toNat < 16 ∨ 31 < (s.shortBase m).toNat) :
    eaShortSingle m s = .ok (addrOf (s.content pa), false) s := by
  obtain ⟨hq, hu⟩ := (State.calm_iff s).1 hc
  have hread : eaBus.read true (s.shortBase m) s = .ok (s.content pa) s := readBus_single hq ht
  have hguard : eaBus.guard 0 s = .ok () s := eaBus_calm.guard s 0 ⟨hc, he⟩
  have hafter : eaBus.after s = .ok () s := eaBus_calm.after s ⟨hc, he⟩
  have hauto : autoUpdate (s.shortBase m) (s.content pa) = none := by
    rw [autoUpdate, if_neg (by simp; omega), if_neg (by simp; omega)]
  have hlevel : chainLevel eaBus true true (s.shortBase m) s = .ok (s.content pa, false) s := by
    simp only [chainLevel, Exec.bind_apply, hread, hauto, hw]
    rfl
  have hone : ∀ n, chase eaBus true (n + 1) 0 true (s.shortBase m) s = .ok (addrOf (s.content pa)) s := fun n => by
    simp only [chase, Exec.bind_apply, hguard, hlevel, hafter, Bool.false_eq_true, if_false, Exec.pure_apply]
  have hchase : indirectAuto true (s.shortBase m) s = .ok (addrOf (s.content pa)) s := hone 34359738367
  simp only [eaShortSingle, Exec.bind_apply, Exec.get_apply, hm, if_true, hs, hchase, Exec.pure_apply]

theorem eaShortSingle_direct {s : State} {m : ShortMem} (hm : m.ind = false) (hs : s.map.singlePending = true) :
    eaShortSingle m s = .ok (s.shortBase m, true) s := by
  simp only [eaShortSingle, Exec.bind_apply, Exec.get_apply, hm, Bool.false_eq_true, if_false, hs, Exec.pure_apply]

/-- LDA after its address and its operand. -/
theorem exec_lda_single {s : State} (a : Acc) {m : ShortMem} {e : Addr} {k : Bool} {v : Word}
    (hea : eaShortSingle m s = .ok (e, k) s) (hr : readBus k e s = .ok v s) : exec (.lda a m) s =
    .next (((s.setAc a v).setPc (s.pc + 1)).setMap { s.map with singlePending := false }) := by
  have hexec : exec (.lda a m) s = execLda a m s := rfl
  have hover : ((s.setAc a v).setPc (s.pc + 1)).setMap { s.map with singlePending := false } =
      ((s.setAc a v).setPc (s.pc + 1)).singleOver := by
    simp [State.singleOver]
  rw [hexec, execLda, hover]
  apply runExec_ok
  apply singleUse_ok
  simp only [Exec.bind_apply, hea, hr, Exec.modify_apply, advance_apply, State.setAc_pc]

/-- STA after its address and its store. -/
theorem exec_sta_single {s t : State} (a : Acc) {m : ShortMem} {e : Addr} {k : Bool} (hea : eaShortSingle m s = .ok (e, k) s)
    (hw : writeBus k e (s.ac a) s = .ok () t) (hpc : t.pc = s.pc) (hmap : t.map = s.map) : exec (.sta a m) s =
    .next ((t.setPc (s.pc + 1)).setMap { s.map with singlePending := false }) := by
  have hexec : exec (.sta a m) s = execSta a m s := rfl
  have hover : (t.setPc (s.pc + 1)).setMap { s.map with singlePending := false } = (t.setPc (s.pc + 1)).singleOver := by
    simp [State.singleOver, hmap]
  rw [hexec, execSta, hover]
  apply runExec_ok
  apply singleUse_ok
  simp only [Exec.bind_apply, hea, Exec.get_apply, hw, advance_apply, hpc]

/-- Settles O22: each load and store after its address calculation, with or without a MAP SINGLE CYCLE. -/
theorem loadsAndStores : Obligations.LoadsAndStores := by
  unfold Obligations.LoadsAndStores
  refine ⟨fun s u a e => ⟨fun m hm hs => ⟨exec_lda a hm hs, exec_sta a hm hs, exec_lef a hm⟩,
    fun x hx => ⟨exec_elda a hx, exec_esta a hx, exec_elef a hx⟩⟩, fun s a m pa hc hm hs => ?_⟩
  have hq := State.quiet_of_calm hc
  dsimp only
  refine ⟨fun hd ht => ?_, fun hd ht => ?_, fun hi he ht hw hb => ?_⟩
  · rw [← translate_single hc hm] at ht
    exact exec_lda_single a (eaShortSingle_direct hd hs) (readBus_single hq ht)
  · rw [← translate_single hc hm] at ht
    exact exec_sta_single a (eaShortSingle_direct hd hs) (writeBus_single hq _ ht) (by simp) (by simp)
  · rw [← translate_single hc hm] at ht
    have hea := eaShortSingle_indirect hc hi hs he ht ((isIndirect_eq_msb _).trans hw) hb
    rw [addrOf_eq_setWidth] at hea
    exact ⟨exec_lda_single a hea (readBus_quiet hq (State.readable_of_calm hc _)),
      exec_sta_single a hea (writeBus_quiet hq (State.writable_of_calm hc _) _) (by simp) (by simp)⟩

/-! ### Jumps and modify-and-skip (44_program_flow.md sections 1 and 2) -/

theorem modifySkip_quiet {u : State} (hq : u.quiet = true) {e : Addr} (hr : u.readable e = true) (hw : u.writable e = true)
    (len : Addr) (d : Word) : modifySkip len d e u =
    .ok () ((u.put e (u.look e + d)).setPc (u.pc + if u.look e + d = 0 then len + 1 else len)) := by
  simp only [modifySkip, Exec.bind_apply, memRead_quiet hq hr, memWrite_quiet hq hw, advanceSkip_apply, State.put_pc, beq_iff_eq]

/-- Settles O24: the address first, then the jump or the stored word. -/
theorem jumpsAndModifySkips : Obligations.JumpsAndModifySkips := by
  unfold Obligations.JumpsAndModifySkips
  refine ⟨fun s u e => ⟨fun m hm => ⟨?_, ?_⟩, fun x hx => ⟨?_, ?_⟩⟩, fun s u e hq hr hw => ?_⟩
  · apply runExec_ok
    simp only [Exec.bind_apply, hm, jumpTo_apply]
  · apply runExec_ok
    simp only [Exec.bind_apply, hm, Exec.modify_apply, jumpTo_apply]
    rfl
  · apply runExec_ok
    simp only [Exec.bind_apply, hx, jumpTo_apply]
  · apply runExec_ok
    simp only [Exec.bind_apply, hx, Exec.modify_apply, jumpTo_apply]
    rfl
  · dsimp only
    rw [BitVec.sub_eq_add_neg]
    refine ⟨fun m hm => ⟨?_, ?_⟩, fun x hx => ⟨?_, ?_⟩⟩
    · apply runExec_ok
      simp only [Exec.bind_apply, hm, modifySkip_quiet hq hr hw, (addressed_short hm).pc]
      rfl
    · apply runExec_ok
      simp only [Exec.bind_apply, hm, modifySkip_quiet hq hr hw, (addressed_short hm).pc]
      rfl
    · apply runExec_ok
      simp only [Exec.bind_apply, hx, modifySkip_quiet hq hr hw, (addressed_ext hx).pc]
      rfl
    · apply runExec_ok
      simp only [Exec.bind_apply, hx, modifySkip_quiet hq hr hw, (addressed_ext hx).pc]
      rfl

/-! ### What a store leaves alone -/

theorem hiByte_wordOfBytes (h l : Byte) : hiByte (wordOfBytes h l) = h := by
  apply BitVec.eq_of_toNat_eq
  have hh := h.isLt
  have hl := l.isLt
  rw [hiByte, fld_toNat, wordOfBytes, toNat_append_eq_add]
  omega

theorem loByte_wordOfBytes (h l : Byte) : loByte (wordOfBytes h l) = l := by
  apply BitVec.eq_of_toNat_eq
  have hl := l.isLt
  rw [loByte, fld_toNat, wordOfBytes, toNat_append_eq_add]
  omega

/-- The low bit of a byte pointer selects the byte. -/
theorem fld_low_eq_zero_iff (bp : Word) : fld bp 15 1 = 0 ↔ bp.toNat % 2 = 0 := by
  rw [← BitVec.toNat_inj, fld_toNat]
  simp

/-- A byte stored in a word leaves every other byte of memory. -/
theorem byte_physWrite_withByte {s : State} (h : Memory.wf s.mem = true) (pa : Nat) (bp : Word) (b : Byte) {n : Nat}
    (hn : n ≠ 2 * pa + bp.toNat % 2) :
    Memory.byte (s.physWrite pa (withByte bp (s.content pa) b)).mem n = Memory.byte s.mem n := by
  unfold State.physWrite
  split
  · next hpa =>
    have hword : s.content pa = wordOfBytes (Memory.byte s.mem (2 * pa)) (Memory.byte s.mem (2 * pa + 1)) := by
      rw [State.content, if_pos hpa, Memory.word]
    rw [State.setMem_mem, Memory.byte_setWord _ h, hword, withByte]
    by_cases h1 : n = 2 * pa + 1
    · have hlow : fld bp 15 1 = 0 := (fld_low_eq_zero_iff bp).2 (by omega)
      rw [if_pos h1, if_pos hlow, loByte_wordOfBytes, loByte_wordOfBytes, h1]
    · rw [if_neg h1]
      by_cases h0 : n = 2 * pa
      · have hlow : ¬fld bp 15 1 = 0 := fun hc => by
          have := (fld_low_eq_zero_iff bp).1 hc
          omega
        rw [if_pos h0, if_neg hlow, hiByte_wordOfBytes, hiByte_wordOfBytes, h0]
      · rw [if_neg h0]
  · rfl

/-- A state that differs from another in PC and memory at most, with a bound on the bytes that differ. -/
def StoresWithin (P : Nat → Prop) (u t : State) : Prop :=
  t = (u.setPc t.pc).setMem t.mem ∧ ∀ n, ¬P n → Memory.byte t.mem n = Memory.byte u.mem n

/-- A word stored before PC moves. -/
theorem storesWithin_put {u : State} {e : Addr} {pa : Nat} (ht : u.translate false true e = .ok pa) (hwf : Memory.wf u.mem = true)
    (v : Word) (p : Addr) : StoresWithin (fun n => n = 2 * pa ∨ n = 2 * pa + 1) u ((u.put e v).setPc p) := by
  refine ⟨?_, fun n hn => ?_⟩
  · rw [State.put_eq]
    rfl
  · rw [State.setPc_mem, put_of_translate ht]
    exact State.byte_physWrite hwf pa v n (fun h => hn (.inl h)) (fun h => hn (.inr h))

theorem writable_of_translate {u : State} {e : Addr} {pa : Nat} (ht : u.translate false true e = .ok pa) : u.writable e = true := by
  rw [State.writable, ht]

/-- A byte stored before PC moves. -/
theorem storesWithin_putByte {s : State} {bp : Word} {pa : Nat} (hr : s.translate false false (bytePtrAddr bp) = .ok pa)
    (hw : s.translate false true (bytePtrAddr bp) = .ok pa) (hwf : Memory.wf s.mem = true) (b : Byte) (p : Addr) :
    StoresWithin (fun n => n = 2 * pa + bp.toNat % 2) s ((s.putByte bp b).setPc p) := by
  have hlook : s.look (bytePtrAddr bp) = s.content pa := by rw [State.look, hr]
  have hput : s.putByte bp b = s.physWrite pa (withByte bp (s.content pa) b) := by
    rw [State.putByte, put_of_translate hw, hlook]
  refine ⟨?_, fun n hn => ?_⟩
  · rw [hput, State.physWrite_eq]
    rfl
  · rw [State.setPc_mem, hput]
    exact byte_physWrite_withByte hwf pa bp b hn

theorem exec_stb {s : State} (x y : Acc) (hq : s.quiet = true) (hr : s.readable (bytePtrAddr (s.ac x)) = true)
    (hw : s.writable (bytePtrAddr (s.ac x)) = true) :
    exec (.stb x y) s = .next ((s.putByte (s.ac x) (loByte (s.ac y))).setPc (s.pc + 1)) := by
  have hexec : exec (.stb x y) s = execStb x y s := rfl
  rw [hexec, execStb]
  apply runExec_ok
  simp only [Exec.bind_apply, byteWrite_quiet hq hr hw, advance_apply, State.putByte, State.put_pc]

theorem exec_estb {s : State} (a : Acc) (ix : Index) (d : Word) (heap : s.cfg.hasEap = true) (hq : s.quiet = true)
    (hr : s.readable (bytePtrAddr (s.extBytePtr ix d)) = true) (hw : s.writable (bytePtrAddr (s.extBytePtr ix d)) = true) :
    exec (.estb a ix d) s = .next ((s.putByte (s.extBytePtr ix d) (loByte (s.ac a))).setPc (s.pc + 2)) := by
  have hexec : exec (.estb a ix d) s = execEstb a ix d s := rfl
  rw [hexec, execEstb]
  apply runExec_ok
  simp only [Exec.bind_apply, needsEap_ok heap, byteWrite_quiet hq hr hw, advance_apply, State.putByte, State.put_pc]

/-- A word-storing instruction after its address calculation is a store and a move of PC. -/
theorem exec_wordStore {s u : State} {e : Addr} {i : Instr}
    (hi : ((∃ m, eaShort m s = .ok e u ∧ (i = .isz m ∨ i = .dsz m ∨ ∃ a, i = .sta a m)) ∧ s.map.singlePending = false)
      ∨ (∃ x, eaExt x s = .ok e u ∧ (i = .eisz x ∨ i = .edsz x ∨ ∃ a, i = .esta a x)))
    (hq : u.quiet = true) (hr : u.readable e = true) (hw : u.writable e = true) :
    ∃ v p, exec i s = .next ((u.put e v).setPc p) := by
  obtain ⟨hshort, hext⟩ := jumpsAndModifySkips.2 s u e hq hr hw
  rcases hi with ⟨⟨m, hm, h⟩, hs⟩ | ⟨x, hx, h⟩
  · obtain ⟨hisz, hdsz⟩ := hshort m hm
    rcases h with rfl | rfl | ⟨a, rfl⟩
    · exact ⟨_, _, hisz⟩
    · exact ⟨_, _, hdsz⟩
    · exact ⟨_, _, exec_sta a hm hs hq hw⟩
  · obtain ⟨heisz, hedsz⟩ := hext x hx
    rcases h with rfl | rfl | ⟨a, rfl⟩
    · exact ⟨_, _, heisz⟩
    · exact ⟨_, _, hedsz⟩
    · exact ⟨_, _, exec_esta a hx hq hw⟩

/-- Settles O23: each instruction is one store and a move of PC, and a store leaves every other byte. -/
theorem storeFrame : Obligations.StoreFrame := by
  unfold Obligations.StoreFrame
  intro s u e pa i
  refine ⟨fun hi hq hr ht hwf => ?_, fun bp hi hq hr htr htw hwf => ?_⟩
  · obtain ⟨v, p, hexec⟩ := exec_wordStore hi hq hr (writable_of_translate ht)
    obtain ⟨hshape, hbytes⟩ := storesWithin_put ht hwf v p
    exact ⟨_, hexec, hshape, fun n h0 h1 => hbytes n (fun h => h.elim h0 h1)⟩
  · have hw := writable_of_translate htw
    have hstore : ∃ b p, exec i s = .next ((s.putByte bp b).setPc p) := by
      rcases hi with ⟨x, y, rfl, rfl⟩ | ⟨heap, a, ix, d, rfl, rfl⟩
      · exact ⟨_, _, exec_stb x y hq hr hw⟩
      · exact ⟨_, _, exec_estb a ix d heap hq hr hw⟩
    obtain ⟨b, p, hexec⟩ := hstore
    obtain ⟨hshape, hbytes⟩ := storesWithin_putByte htr htw hwf b p
    exact ⟨_, hexec, hshape, hbytes⟩

/-! ### Comparisons and the dispatch (44_program_flow.md R269 to R271, R274) -/

/-- The table entry of a dispatch: the displacement is the difference of the numbers. -/
theorem dispatch_entry (e : Addr) (n l : Word) : e - addrOf l + addrOf n = e + BitVec.ofInt 15 (n.toInt - l.toInt) := by
  have hof : ∀ w : Word, BitVec.ofInt 15 w.toInt = addrOf w := fun w =>
    (BitVec.signExtend_eq_setWidth_of_le w (by omega)).trans (addrOf_eq_setWidth w).symm
  rw [Int.sub_eq_add_neg, BitVec.ofInt_add, BitVec.ofInt_neg, hof, hof]
  generalize addrOf l = p
  generalize addrOf n = q
  bv_omega

theorem exec_clm {s : State} (x y : Acc) {a : Addr} {len : Addr} (ha : (if x = y then s.pc + 1 else addrOf (s.ac y)) = a)
    (hlen : (if x = y then (3 : Addr) else 1) = len) (hq : s.quiet = true) (h0 : s.readable a = true) (h1 : s.readable (a + 1) = true) :
    exec (.clm x y) s = .next (s.setPc (s.pc +
      if decide ((s.look a).toInt ≤ (s.ac x).toInt) && decide ((s.ac x).toInt ≤ (s.look (a + 1)).toInt) then len + 1 else len)) := by
  have hexec : exec (.clm x y) s = execClm x y s := rfl
  rw [hexec, execClm, ha, hlen]
  apply runExec_ok
  simp only [Exec.bind_apply, memRead_quiet hq h0, memRead_quiet hq h1, advanceSkip_apply, Bool.decide_and]

/-- The rule of DSPA after its address calculation. -/
theorem exec_dspa_of {s u t : State} (a : Acc) {x : ExtMem} {e : Addr} (h : eaExt x s = .ok e u) (hq : u.quiet = true)
    (h0 : u.readable (e - 2) = true) (h1 : u.readable (e - 1) = true)
    (ht : (if (s.ac a).toInt < (u.look (e - 2)).toInt ∨ (u.look (e - 1)).toInt < (s.ac a).toInt then advance 2 else do
      let w ← memRead (e + BitVec.ofInt 15 ((s.ac a).toInt - (u.look (e - 2)).toInt))
      if w = 0xFFFF then advance 2 else jumpThrough w) u = .ok () t) : exec (.dspa a x) s = .next t := by
  have hexec : exec (.dspa a x) s = execDspa a x s := rfl
  rw [hexec, execDspa]
  apply runExec_ok
  simp only [Exec.bind_apply, h, memRead_quiet hq h0, memRead_quiet hq h1, dispatch_entry]
  exact ht

/-- DSPA inside its limits goes on with the table entry. -/
theorem exec_dspa_inside {s u t : State} (a : Acc) {x : ExtMem} {e : Addr} (h : eaExt x s = .ok e u) (hq : u.quiet = true)
    (h0 : u.readable (e - 2) = true) (h1 : u.readable (e - 1) = true) (hl : (u.look (e - 2)).toInt ≤ (s.ac a).toInt)
    (hh : (s.ac a).toInt ≤ (u.look (e - 1)).toInt) {entry : Addr}
    (hent : entry = e + BitVec.ofInt 15 ((s.ac a).toInt - (u.look (e - 2)).toInt)) (hr : u.readable entry = true)
    (ht : (if u.look entry = 0xFFFF then advance 2 else jumpThrough (u.look entry)) u = .ok () t) :
    exec (.dspa a x) s = .next t := by
  apply exec_dspa_of a h hq h0 h1
  rw [if_neg (by omega), ← hent]
  simp only [Exec.bind_apply, memRead_quiet hq hr]
  exact ht

theorem jumpThrough_direct {w : Word} (hw : isIndirect w = false) (u : State) : jumpThrough w u = .ok () (u.setPc (addrOf w)) := by
  rw [jumpThrough, if_neg (by simp [hw]), jumpTo_apply]

theorem jumpThrough_indirect {u : State} {w : Word} (hw : isIndirect w = true) (hc : u.calm = true)
    (he : u.map.enablePending = none) {j : Addr} (hf : u.follow chainFuel (addrOf w) = some j) :
    jumpThrough w u = .ok () (u.setPc j) := by
  rw [jumpThrough, if_pos hw]
  simp only [Exec.bind_apply, indirect_calm hc he hf, jumpTo_apply]

/-- Settles O25: the limits are read where the form says, and the table entry decides the jump. -/
theorem compareAndSkip : Obligations.CompareAndSkip := by
  unfold Obligations.CompareAndSkip
  refine ⟨fun x y s => ⟨rfl, rfl, fun hxy hq h0 h1 => ?_, fun hq h0 h1 => ?_⟩, fun s u a x e hx hq h0 h1 => ⟨fun hout => ?_,
    fun hl hh hr => ⟨fun hw => ?_, fun hw => ?_, fun j hc he hw hne hf => ?_⟩⟩⟩
  · exact exec_clm x y ((if_neg hxy).trans (addrOf_eq_setWidth _)) (if_neg hxy) hq h0 h1
  · have h2 : s.pc + 1 + 1 = s.pc + 2 := by bv_omega
    have hclm := exec_clm (s := s) x x (if_pos rfl) (if_pos rfl) hq h0 (by rwa [h2])
    rw [h2] at hclm
    exact hclm
  · have hpc : u.pc = s.pc := (addressed_ext hx).pc
    rw [← hpc]
    apply exec_dspa_of a hx hq h0 h1
    rw [if_pos hout, advance_apply]
  · have hpc : u.pc = s.pc := (addressed_ext hx).pc
    rw [← hpc]
    apply exec_dspa_inside a hx hq h0 h1 hl hh rfl hr
    rw [if_pos hw, advance_apply]
  · apply exec_dspa_inside a hx hq h0 h1 hl hh rfl hr
    have hne : ¬u.look (e + BitVec.ofInt 15 ((s.ac a).toInt - (u.look (e - 2)).toInt)) = 0xFFFF := fun hc => by
      rw [hc] at hw
      cases hw
    rw [if_neg hne, jumpThrough_direct hw, addrOf_eq_setWidth]
  · apply exec_dspa_inside a hx hq h0 h1 hl hh rfl hr
    rw [if_neg hne]
    apply jumpThrough_indirect hw hc he
    rw [addrOf_eq_setWidth]
    exact State.follow_chainFuel u hf

end Sys2Proof.Proofs.Addresses
end

section
/-! SUPPORT. EXECUTE and SYSTEM CALL, the stack and its faults, calls and returns, extended operations (43_stack.md,
44_program_flow.md sections 4 and 5, 45_xop_wcs.md). -/

namespace Sys2Proof.Proofs.Flow

open Sys2Proof Sys2Proof.Machine Sys2Proof.Proofs.FixedPoint

-- Theorems elaborated side by side each hold a thread's stack, and the memory limit is near.
set_option Elab.async false

/-! ### EXECUTE (44_program_flow.md R272) -/

/-- A word that needs no second word is the instruction it decodes to. -/
theorem instructionOf_oneWord {s : State} {w : Word} {i : Instr} (hn : s.needsSecond w = false)
    (hd : decode s.decodeCtx w 0 = .ok i) : instructionOf w s = .ok i s := by
  simp only [instructionOf, Exec.bind_apply, Exec.get_apply, hn, Bool.false_eq_true, if_false, Exec.pure_apply]
  rw [hd]
  rfl

/-- A chain of XCT that the first word ends. -/
theorem xctWord_of_not_xct {s : State} {a : Acc} (h : xctAcc s.decodeCtx (s.ac a) = none) (n : Nat) :
    s.xctWord n a = s.ac a := by
  cases n with
  | zero => rfl
  | succ n => rw [State.xctWord, h]

/-- A chain of XCT through one accumulator. -/
theorem xctWord_of_self {s : State} {a : Acc} (h : xctAcc s.decodeCtx (s.ac a) = some a) (n : Nat) :
    s.xctWord n a = s.ac a := by
  induction n with
  | zero => rfl
  | succ n ih =>
    rw [State.xctWord, h]
    exact ih

/-- XCT with no interrupt to honour, at a word it executes. -/
theorem exec_xct_of {s : State} {a : Acc} {i : Instr} (hs : s.canSuspend = false)
    (hi : instructionOf (s.xctWord 4 a) s = .ok i s) : exec (.xct a) s = execInner i s := by
  have hexec : exec (.xct a) s = execXct a s := rfl
  rw [hexec, execXct, executeFrom]
  simp only [hs, Bool.false_eq_true, if_false, hi]

theorem xctAcc_of_decode {c : DecodeCtx} {w : Word} {i : Instr} (hd : decode c w 0 = .ok i) (hx : ∀ b, i ≠ .xct b) :
    xctAcc c w = none := by
  rw [xctAcc, hd]
  split
  · next b hb =>
    cases hb
    exact absurd rfl (hx b)
  · rfl

theorem xctAcc_xct (c : DecodeCtx) (a : Acc) : xctAcc c (encode1 (.xct a)) = some a := by
  have hd : decode c (encode1 (.xct a)) 0 = .ok (.xct a) := Encoding.decodeOfEncode c (.xct a) rfl
  rw [xctAcc, hd]

/-- XCT is one word, whatever the feature. -/
theorem needsSecond_xct (s : State) (a : Acc) : s.needsSecond (encode1 (.xct a)) = false := by
  have hd : decode s.decodeCtx (encode1 (.xct a)) 0 = .ok (.xct a) := Encoding.decodeOfEncode _ (.xct a) rfl
  rw [State.needsSecond, hd]
  rfl

/-- A word that needs a second word is no XCT. -/
theorem not_xct_of_needsSecond {s : State} {w : Word} (hn : s.needsSecond w = true) (b : Acc) : w ≠ encode1 (.xct b) := by
  intro hw
  rw [hw, needsSecond_xct] at hn
  cases hn

theorem xctAcc_of_needsSecond {s : State} {w : Word} (hn : s.needsSecond w = true) : xctAcc s.decodeCtx w = none := by
  rw [xctAcc]
  split
  · next b hb => exact absurd (Encoding.encodeOfDecode _ _ _ _ hb).2.1.symm (not_xct_of_needsSecond hn b)
  · rfl

/-- Settles O26: the word is executed as it would be at PC, since it is no XCT or an XCT of itself. -/
theorem executeAccumulator : Obligations.ExecuteAccumulator := by
  unfold Obligations.ExecuteAccumulator
  intro a s
  have hone : s.canSuspend = false → ∀ i, decode s.decodeCtx (s.ac a) 0 = .ok i → s.needsSecond (s.ac a) = false →
      (∀ b, i ≠ .xct b) → exec (.xct a) s = exec i s := by
    intro hs i hd hn hx
    rw [Invariant.exec_eq_execInner (fun ⟨b, hb⟩ => hx b hb)]
    apply exec_xct_of hs
    rw [xctWord_of_not_xct (xctAcc_of_decode hd hx)]
    exact instructionOf_oneWord hn hd
  refine ⟨fun hs => ⟨hone hs, fun i hq hr hn hd => ?_, fun ha => ?_, fun n b ha => ?_⟩, fun hs => ?_⟩
  · have hx : ∀ b, i ≠ .xct b := fun b hb => by
      subst hb
      exact not_xct_of_needsSecond hn b (Encoding.encodeOfDecode _ _ _ _ hd).2.1.symm
    rw [Invariant.exec_eq_execInner (fun ⟨b, hb⟩ => hx b hb)]
    apply exec_xct_of hs
    rw [xctWord_of_not_xct (xctAcc_of_needsSecond hn)]
    exact instructionOf_quiet hq (by rw [if_pos hn]; exact ⟨hr, rfl⟩) hd
  · have hself : s.xctWord 4 a = s.ac a := xctWord_of_self (by rw [ha]; exact xctAcc_xct _ a) 4
    have hd : decode s.decodeCtx (s.ac a) 0 = .ok (.xct a) := by
      rw [ha]
      exact Encoding.decodeOfEncode _ (.xct a) rfl
    have hn : s.needsSecond (s.ac a) = false := by
      rw [ha]
      exact needsSecond_xct s a
    rw [exec_xct_of hs (by rw [hself]; exact instructionOf_oneWord hn hd)]
    rfl
  · have hd : decode s.decodeCtx (s.ac a) 0 = .ok (.adi n b) := by
      rw [ha]
      exact Encoding.decodeOfEncode _ (.adi n b) rfl
    have hn : s.needsSecond (s.ac a) = false := by
      rw [State.needsSecond, hd]
      rfl
    rw [hone hs _ hd hn (fun b h => by cases h)]
    exact (Registers.addSubtractImmediate.1 s.decodeCtx n b 0 s).2.2.1
  · have hexec : exec (.xct a) s = execXct a s := rfl
    rw [hexec, execXct, executeFrom]
    simp only [Exec.bind_apply, hs, if_true, suspendInstr, Exec.modify_apply, Exec.throw_apply]

/-! ### SYSTEM CALL (44_program_flow.md R273) -/

theorem systemEntered_calm {s : State} (h : s.quiet = true) : s.systemEntered.calm = true := by
  rw [State.calm_iff, State.systemEntered]
  cases hu : s.userMode with
  | true =>
    refine ⟨h, ?_⟩
    exact Bool.and_false _
  | false => exact ⟨h, hu⟩

/-- SYC after it has entered the system. -/
theorem exec_syc (x y : Acc) (s : State) {t : State} (h : (if x = .a0 ∧ y = .a0 then jumpIndirect 2 else do
      pushBlock (s.pc + 1)
      jumpIndirect 2
      let t ← get
      checkOverflow t.pc) s.systemEntered = .ok () t) : exec (.syc x y) s = .next t := by
  have hexec : exec (.syc x y) s = execSyc x y s := rfl
  rw [hexec, execSyc]
  apply runExec_ok
  cases hu : s.userMode with
  | true =>
    have hs : s.systemEntered = (s.setMap { s.map with userEn := false }).setSycHold .fresh := by
      rw [State.systemEntered, if_pos hu]
    rw [hs] at h
    simp only [if_true, Exec.bind_apply, Exec.modify_apply]
    exact h
  | false =>
    have hs : s.systemEntered = s := by
      rw [State.systemEntered, if_neg (by simp [hu])]
    rw [hs] at h
    simp only [Bool.false_eq_true, if_false]
    exact h

/-- Settles O27: the push and the jump in the calm state the call enters. -/
theorem systemCall : Obligations.SystemCall := by
  unfold Obligations.SystemCall
  intro x y s e hq
  have hc := systemEntered_calm hq
  refine ⟨fun hf => ?_, fun hxy hf ho => ?_⟩
  · apply exec_syc
    rw [if_pos ⟨rfl, rfl⟩]
    exact jumpIndirect_calm hc (State.follow_chainFuel _ hf)
  · have hb : (s.systemEntered.pushedBlock (s.pc + 1)).calm = true := (State.pushedBlock_calm _ _).trans hc
    apply exec_syc
    rw [if_neg hxy]
    simp only [Exec.bind_apply, pushBlock_calm hc, jumpIndirect_calm hb (State.follow_chainFuel _ hf), Exec.get_apply]
    exact checkOverflow_setPc hb ho _ e

/-! ### PC and the stack -/

theorem setPc_setPc (s : State) (p q : Addr) : (s.setPc p).setPc q = s.setPc q := rfl

theorem follow_setPc (s : State) (p : Addr) (n : Nat) (a : Addr) : (s.setPc p).follow n a = s.follow n a := by
  induction n generalizing a with
  | zero => rfl
  | succ n ih =>
    rw [State.follow, State.follow, State.setPc_look, ih]

theorem stackFaulted_setPc (s : State) (p pc : Addr) : (s.setPc p).stackFaulted pc = (s.stackFaulted pc).setPc p := by
  simp [State.stackFaulted, State.pushedBlock, State.pushed, State.setPc_put]

/-- The overflow check that faults does not depend on PC. -/
theorem checkOverflow_fault_setPc {t : State} (hc : t.calm = true) (ho : t.overflowed = true) (p next : Addr) {e : Addr}
    (hf : (t.stackFaulted next).follow 32768 0o43 = some e) :
    checkOverflow next (t.setPc p) = .error .trap (t.inStackFault next e) := by
  have hfault := checkOverflow_calm_fault (s := t.setPc p) hc ho next
    (by rw [stackFaulted_setPc, follow_setPc]; exact State.follow_chainFuel _ hf)
  rw [stackFaulted_setPc, setPc_setPc] at hfault
  exact hfault

theorem checkUnderflow_setPc {t : State} (hc : t.calm = true) (hu : t.underflowed = false) (p next : Addr) :
    checkUnderflow next (t.setPc p) = .ok () (t.setPc p) :=
  checkUnderflow_calm_ok (s := t.setPc p) hc hu next

/-- The underflow check that faults, the stack pointer first set to the limit (43_stack.md R235). -/
theorem checkUnderflow_fault_setPc {t : State} (hc : t.calm = true) (hu : t.underflowed = true) (p next : Addr) {e : Addr}
    (hf : ((t.put 0o40 (t.look 0o42)).stackFaulted next).follow 32768 0o43 = some e) :
    checkUnderflow next (t.setPc p) = .error .trap ((t.put 0o40 (t.look 0o42)).inStackFault next e) := by
  simp only [State.underflowed, Bool.and_eq_true, decide_eq_true_eq, Bool.not_eq_true'] at hu
  obtain ⟨hlow, hoff⟩ := hu
  have hcp : (t.setPc p).calm = true := hc
  have hq : ((t.put 0o40 (t.look 0o42)).setPc p).calm = true := (State.put_calm _ _ _).trans hc
  have hfault := stackFault_calm (α := Unit) hq next
    (by rw [stackFaulted_setPc, follow_setPc]; exact State.follow_chainFuel _ hf)
  rw [stackFaulted_setPc, setPc_setPc] at hfault
  simp only [checkUnderflow, Exec.bind_apply, memRead_calm hcp, State.setPc_look]
  rw [if_pos hlow]
  simp only [Exec.bind_apply, memRead_calm hcp, State.setPc_look]
  rw [if_neg (by rw [hoff]; exact Bool.false_ne_true)]
  simp only [Exec.bind_apply, memWrite_calm hcp, State.setPc_put]
  exact hfault

theorem stackFault_run {s : State} (hc : s.calm = true) {e : Addr} (hf : (s.stackFaulted s.pc).follow 32768 0o43 = some e) :
    (stackFault s.pc : Exec Unit) s = .error .trap (s.inStackFault s.pc e) :=
  stackFault_calm hc s.pc (State.follow_chainFuel _ hf)

/-! ### Several words pushed and popped (43_stack.md R237, R238) -/

theorem pushed_ac (s : State) (v : Word) (n : Acc) : (s.pushed v).ac n = s.ac n := by simp [State.pushed]

theorem pushed_pc (s : State) (v : Word) : (s.pushed v).pc = s.pc := by simp [State.pushed]

theorem pushedAll_pc (ws : List Word) : ∀ s : State, (s.pushedAll ws).pc = s.pc := by
  induction ws with
  | nil => exact fun s => rfl
  | cons w ws ih => exact fun s => (ih (s.pushed w)).trans (pushed_pc s w)

theorem pushedAll_calm (ws : List Word) : ∀ s : State, (s.pushedAll ws).calm = s.calm := by
  induction ws with
  | nil => exact fun s => rfl
  | cons w ws ih => exact fun s => (ih (s.pushed w)).trans (State.pushed_calm s w)

/-- The accumulators PSH passes, at most n + 1 of them. -/
def upTo (last : Acc) : Nat → Acc → List Acc
  | 0, i => [i]
  | n + 1, i => if i = last then [i] else i :: upTo last n (accNext i)

/-- The accumulators POP passes, at most n + 1 of them. -/
def downTo (last : Acc) : Nat → Acc → List Acc
  | 0, i => [i]
  | n + 1, i => if i = last then [i] else i :: downTo last n (accPrev i)

theorem accsUp_eq (x y : Acc) : accsUp x y = upTo y 3 x := by
  cases x <;> cases y <;> rfl

theorem accsDown_eq (x y : Acc) : accsDown x y = downTo y 3 x := by
  cases x <;> cases y <;> rfl

theorem pushAccs_calm (last : Acc) (n : Nat) : ∀ (i : Acc) (s : State), s.calm = true →
    pushAccs last n i s = .ok () (s.pushedAll ((upTo last n i).map s.ac)) := by
  induction n with
  | zero =>
    intro i s hc
    simp only [pushAccs, Exec.bind_apply, Exec.get_apply, push_calm hc]
    rfl
  | succ n ih =>
    intro i s hc
    simp only [pushAccs, Exec.bind_apply, Exec.get_apply, push_calm hc, upTo]
    split
    · rfl
    · rw [ih _ _ ((State.pushed_calm s _).trans hc)]
      have hacs : (s.pushed (s.ac i)).ac = s.ac := funext fun k => pushed_ac s _ k
      rw [hacs]
      rfl

theorem popInto_calm {s : State} (hc : s.calm = true) (a : Acc) : (s.popped.setAc a s.top).calm = true := by
  have hp : s.popped.calm = true := (State.popped_calm s).trans hc
  cases a <;> exact hp

theorem popAccs_calm (last : Acc) (n : Nat) : ∀ (i : Acc) (s : State), s.calm = true →
    popAccs last n i s = .ok () (s.poppedInto (downTo last n i)) := by
  induction n with
  | zero =>
    intro i s hc
    simp only [popAccs, Exec.bind_apply, pop_calm hc, Exec.modify_apply]
    rfl
  | succ n ih =>
    intro i s hc
    simp only [popAccs, Exec.bind_apply, pop_calm hc, Exec.modify_apply, downTo]
    split
    · rfl
    · rw [ih _ _ (popInto_calm hc i)]
      rfl

theorem poppedInto_calm (as : List Acc) : ∀ s : State, s.calm = true → (s.poppedInto as).calm = true := by
  induction as with
  | nil => exact fun s hc => hc
  | cons a as ih => exact fun s hc => ih _ (popInto_calm hc a)

theorem poppedInto_pc (as : List Acc) : ∀ s : State, (s.poppedInto as).pc = s.pc := by
  induction as with
  | nil => exact fun s => rfl
  | cons a as ih =>
    intro s
    have hstep : (s.popped.setAc a s.top).pc = s.pc := by simp [State.popped]
    exact (ih _).trans hstep

/-! ### The stack instructions -/

/-- PSH up to its overflow check. -/
theorem psh_run (x y : Acc) {s : State} (hc : s.calm = true) : (do
      pushAccs y 3 x
      advance 1
      checkOverflow (s.pc + 1) : Exec Unit) s =
    checkOverflow (s.pc + 1) ((s.pushedAll ((accsUp x y).map s.ac)).setPc (s.pc + 1)) := by
  simp only [Exec.bind_apply, pushAccs_calm y 3 x s hc, ← accsUp_eq, advance_apply, pushedAll_pc]

/-- POP up to its underflow check. -/
theorem pop_run (x y : Acc) {s : State} (hc : s.calm = true) : (do
      popAccs y 3 x
      advance 1
      checkUnderflow (s.pc + 1) : Exec Unit) s =
    checkUnderflow (s.pc + 1) ((s.poppedInto (accsDown x y)).setPc (s.pc + 1)) := by
  simp only [Exec.bind_apply, popAccs_calm y 3 x s hc, ← accsDown_eq, advance_apply, poppedInto_pc]

/-- PSHR up to its overflow check. -/
theorem pshr_run {s : State} (hc : s.calm = true) : (do
      push (wordOfAddr (s.pc + 2))
      advance 1
      checkOverflow (s.pc + 1) : Exec Unit) s =
    checkOverflow (s.pc + 1) ((s.pushed (0#1 ++ (s.pc + 2))).setPc (s.pc + 1)) := by
  simp only [Exec.bind_apply, push_calm hc, advance_apply, pushed_pc]
  rfl

theorem exec_msp_ok (x : Acc) {s : State} (hc : s.calm = true) (h : (s.look 0o40 + s.ac x).toNat ≤ (s.look 0o42).toNat) :
    exec (.msp x) s = .next ((s.put 0o40 (s.look 0o40 + s.ac x)).setPc (s.pc + 1)) := by
  have hexec : exec (.msp x) s = execMsp x s := rfl
  rw [hexec, execMsp]
  apply runExec_ok
  simp only [Exec.bind_apply, memRead_calm hc]
  rw [if_neg (Nat.not_lt.2 h)]
  simp only [Exec.bind_apply, memWrite_calm hc, advance_apply, State.put_pc]

theorem exec_msp_fault (x : Acc) {s : State} (hc : s.calm = true) (h : (s.look 0o42).toNat < (s.look 0o40 + s.ac x).toNat)
    {e : Addr} (hf : (s.stackFaulted s.pc).follow 32768 0o43 = some e) :
    exec (.msp x) s = .next (s.inStackFault s.pc e) := by
  have hexec : exec (.msp x) s = execMsp x s := rfl
  rw [hexec, execMsp]
  apply runExec_trap
  simp only [Exec.bind_apply, memRead_calm hc]
  rw [if_pos h]
  exact stackFault_run hc hf

/-- What SAVE has pushed before it sets the frame pointer (43_stack.md R241). -/
def savedBlock (s : State) : State :=
  let b := s.pushedAll [s.ac0, s.ac1, s.ac2]
  (b.pushed (b.look 0o41)).pushed (bitOf s.carry ++ (s.ac3.setWidth 15 : Addr))

theorem savedBlock_pc (s : State) : (savedBlock s).pc = s.pc := by
  simp [savedBlock, pushed_pc, pushedAll_pc]

theorem savedBlock_calm {s : State} (hc : s.calm = true) : (savedBlock s).calm = true := by
  simp [savedBlock, pushedAll_calm, hc]

theorem exec_save_ok (n : Word) {s : State} (hc : s.calm = true) (h : (s.look 0o40 + 5 + n).toNat ≤ (s.look 0o42).toNat) :
    exec (.save n) s = .next (((((savedBlock s).put 0o41 ((savedBlock s).look 0o40)).setAc3 ((savedBlock s).look 0o40)).put 0o40
      ((savedBlock s).look 0o40 + n)).setPc (s.pc + 2)) := by
  have hexec : exec (.save n) s = execSave n s := rfl
  have hb := savedBlock_calm hc
  have hp : ((savedBlock s).put 0o41 ((savedBlock s).look 0o40)).calm = true := (State.put_calm _ _ _).trans hb
  have h0 := (State.pushed_calm s s.ac0).trans hc
  have h1 := (State.pushed_calm _ s.ac1).trans h0
  have h2 := (State.pushed_calm _ s.ac2).trans h1
  have hblock : (((((s.pushed s.ac0).pushed s.ac1).pushed s.ac2).pushed
      ((((s.pushed s.ac0).pushed s.ac1).pushed s.ac2).look 0o41)).pushed (wordOfBitAddr s.carry (addrOf s.ac3)))
      = savedBlock s := by
    rw [addrOf_eq_setWidth]
    rfl
  rw [hexec, execSave]
  apply runExec_ok
  simp only [Exec.bind_apply, memRead_calm hc]
  rw [if_neg (Nat.not_lt.2 h)]
  simp only [Exec.bind_apply, push_calm hc, push_calm h0, push_calm h1, memRead_calm h2, push_calm h2,
    push_calm ((State.pushed_calm _ _).trans h2), hblock, memRead_calm hb, memWrite_calm hb, Exec.modify_apply]
  rw [memWrite_calm ((State.setAc3_calm _ _).trans hp)]
  simp only [advance_apply, State.put_pc, State.setAc3_pc, savedBlock_pc]

theorem exec_save_fault (n : Word) {s : State} (hc : s.calm = true) (h : (s.look 0o42).toNat < (s.look 0o40 + 5 + n).toNat)
    {e : Addr} (hf : (s.stackFaulted s.pc).follow 32768 0o43 = some e) :
    exec (.save n) s = .next (s.inStackFault s.pc e) := by
  have hexec : exec (.save n) s = execSave n s := rfl
  rw [hexec, execSave]
  apply runExec_trap
  simp only [Exec.bind_apply, memRead_calm hc]
  rw [if_pos h]
  exact stackFault_run hc hf

/-- Settles O29: the words go up or down one by one, and the check finds nothing. -/
theorem stackInstructions : Obligations.StackInstructions := by
  unfold Obligations.StackInstructions
  intro x y n s hc
  have hpush := (pushedAll_calm ((accsUp x y).map s.ac) s).trans hc
  refine ⟨fun ho => ?_, fun hu => ?_, fun ho => ?_, exec_msp_ok x hc, fun h => ?_⟩
  · exact runExec_ok ((psh_run x y hc).trans (checkOverflow_setPc hpush ho _ _))
  · exact runExec_ok ((pop_run x y hc).trans (checkUnderflow_setPc (poppedInto_calm _ s hc) hu _ _))
  · exact runExec_ok ((pshr_run hc).trans (checkOverflow_setPc ((State.pushed_calm _ _).trans hc) ho _ _))
  · intro b f fp
    have hf : savedBlock s = f := rfl
    have hsave := exec_save_ok n hc h
    rw [hf] at hsave
    exact hsave

/-- Settles O30: where the check faults, the stack fault of the words pushed or popped so far. -/
theorem stackFaults : Obligations.StackFaults := by
  unfold Obligations.StackFaults
  intro x y n e s hc
  have hpush := (pushedAll_calm ((accsUp x y).map s.ac) s).trans hc
  refine ⟨fun ho hf => ?_, fun hu hf => ?_, fun ho hf => ?_, fun h hf => exec_msp_fault x hc h hf,
    fun h hf => exec_save_fault n hc h hf⟩
  · exact runExec_trap ((psh_run x y hc).trans (checkOverflow_fault_setPc hpush ho _ _ hf))
  · exact runExec_trap ((pop_run x y hc).trans (checkUnderflow_fault_setPc (poppedInto_calm _ s hc) hu _ _ hf))
  · exact runExec_trap ((pshr_run hc).trans (checkOverflow_fault_setPc ((State.pushed_calm _ _).trans hc) ho _ _ hf))

/-! ### Calls and returns (44_program_flow.md section 5) -/

/-- A pending user map is switched on. -/
theorem enablePendingUser_apply (s : State) : enablePendingUser s = .ok () s.returned := by
  simp only [enablePendingUser, Exec.bind_apply, Exec.get_apply, State.returned]
  cases s.map.enablePending <;> rfl

theorem exec_pshj {s u : State} {x : ExtMem} {e : Addr} (hc : s.calm = true)
    (hx : eaExt x (s.pushed (0#1 ++ (s.pc + 2))) = .ok e u) (hu : u.calm = true) (ho : u.overflowed = false) :
    exec (.pshj x) s = .next (u.setPc e) := by
  have hx' : eaExt x (s.pushed (wordOfAddr (s.pc + 2))) = .ok e u := hx
  have hexec : exec (.pshj x) s = execPshj x s := rfl
  rw [hexec, execPshj]
  apply runExec_ok
  simp only [Exec.bind_apply, push_calm hc, hx', jumpTo_apply]
  exact checkOverflow_setPc hu ho _ _

theorem exec_popj {s : State} (hc : s.calm = true) (hu : s.popped.underflowed = false) :
    exec .popj s = .next (s.popped.setPc (addrOf s.top)).returned := by
  have hp := (State.popped_calm s).trans hc
  have hexec : exec .popj s = execPopj s := rfl
  rw [hexec, execPopj]
  apply runExec_ok
  simp only [Exec.bind_apply, pop_calm hc, jumpTo_apply, checkUnderflow_setPc hp hu, enablePendingUser_apply]

theorem poppedBlock_calm {s : State} (hc : s.calm = true) : s.poppedBlock.calm = true := by
  simp [State.poppedBlock, hc]

theorem exec_popb {s : State} (hc : s.calm = true) (hu : s.poppedBlock.underflowed = false) :
    exec .popb s = .next s.poppedBlock.returned := by
  have hexec : exec .popb s = execPopb s := rfl
  rw [hexec, execPopb]
  apply runExec_ok
  simp only [Exec.bind_apply, popBlock_calm hc, Exec.get_apply, checkUnderflow_calm_ok (poppedBlock_calm hc) hu,
    enablePendingUser_apply]

theorem exec_rtn {s t u : State} (hc : s.calm = true) (ht : t = (s.put 0o40 (s.look 0o41)).poppedBlock)
    (hu : u = t.put 0o41 t.ac3) (hn : u.underflowed = false) : exec .rtn s = .next u.returned := by
  have hp := (State.put_calm s 0o40 (s.look 0o41)).trans hc
  have htc : t.calm = true := by
    rw [ht]
    exact poppedBlock_calm hp
  have huc : u.calm = true := by
    rw [hu]
    exact (State.put_calm _ _ _).trans htc
  have hexec : exec .rtn s = execRtn s := rfl
  rw [hexec, execRtn]
  apply runExec_ok
  simp only [Exec.bind_apply, memRead_calm hc, memWrite_calm hc, popBlock_calm hp, ← ht, Exec.get_apply, memWrite_calm htc, ← hu,
    checkUnderflow_calm_ok huc hn, enablePendingUser_apply]

/-- The registers RSTR restores, from the words below a stack pointer. -/
def restored (s : State) (sp : Word) : State :=
  let at' (k : Word) : Addr := addrOf (sp - k)
  let w := s.look (addrOf sp)
  ((((((s.setCarry (isIndirect w)).setPc (addrOf w)).setAc3 (s.look (at' 1))).setAc2 (s.look (at' 2))).setAc1
    (s.look (at' 3))).setAc0 (s.look (at' 4)))

/-- RSTR: the registers, then the four stack words (44_program_flow.md R279). -/
theorem exec_rstr {s t1 t2 t3 : State} (hc : s.calm = true) {sp : Word} (hsp : sp = s.look 0o40)
    (h1 : t1 = (restored s sp).put 0o43 ((restored s sp).look (addrOf (sp - 5)))) (h2 : t2 = t1.put 0o42 (t1.look (addrOf (sp - 6))))
    (h3 : t3 = t2.put 0o41 (t2.look (addrOf (sp - 7)))) :
    exec .rstr s = .next (t3.put 0o40 (t3.look (addrOf (sp - 8)))).returned := by
  have hr : ∀ (t : State), t.calm = true → ∀ a, memRead a t = .ok (t.look a) t := fun t ht a => memRead_calm ht a
  have hw : ∀ (t : State), t.calm = true → ∀ a v, memWrite a v t = .ok () (t.put a v) := fun t ht a v => memWrite_calm ht a v
  have hexec : exec .rstr s = execRstr s := rfl
  rw [hexec, execRstr]
  apply runExec_ok
  subst h1 h2 h3 hsp
  simp [hr, hw, hc, enablePendingUser_apply, restored]

/-- Settles O32: each pops what it pops, and the pending user map is switched on last. -/
theorem callsAndReturns : Obligations.CallsAndReturns := by
  unfold Obligations.CallsAndReturns
  intro s hc
  refine ⟨fun x e u hx hu ho => exec_pshj hc hx hu ho, fun hu => ?_, fun hu => exec_popb hc hu,
    fun hu => exec_rtn hc rfl rfl hu, ?_⟩
  · rw [← addrOf_eq_setWidth]
    exact exec_popj hc hu
  · have hrstr := exec_rstr hc rfl rfl rfl rfl
    simp only [restored, isIndirect_eq_msb, addrOf_eq_setWidth] at hrstr
    have h0 : s.look 0o40 - 0 = s.look 0o40 := BitVec.sub_zero _
    dsimp only
    rw [h0]
    exact hrstr

/-! ### Extended operations (45_xop_wcs.md) -/

/-- The state of an extended operation before its jump. -/
def operandsPushed (s : State) (x y : Acc) : State :=
  let b := s.pushedBlock (s.pc + 1)
  (b.setAc2 (b.look 0o40 - 4 + BitVec.ofNat 16 (accNat x))).setAc3 (b.look 0o40 - 4 + BitVec.ofNat 16 (accNat y))

theorem operandsPushed_calm {s : State} (hc : s.calm = true) (x y : Acc) : (operandsPushed s x y).calm = true := by
  simp [operandsPushed, hc]

theorem jumpThrough_goes {t : State} (hc : t.calm = true) {w : Word} {e : Addr}
    (h : if w.msb then t.map.enablePending = none ∧ t.follow 32768 (w.setWidth 15) = some e else w.setWidth 15 = e) :
    jumpThrough w t = .ok () (t.setPc e) := by
  rw [← isIndirect_eq_msb, ← addrOf_eq_setWidth] at h
  cases hi : isIndirect w with
  | true =>
    rw [hi, if_pos rfl] at h
    exact Addresses.jumpThrough_indirect hi hc h.1 (State.follow_chainFuel _ h.2)
  | false =>
    rw [hi, if_neg (by simp)] at h
    rw [← h]
    exact Addresses.jumpThrough_direct hi t

theorem extendedOperation_calm {s : State} (hc : s.calm = true) (x y : Acc) {op e : Addr}
    (ho : (operandsPushed s x y).overflowed = false)
    (hg : jumpThrough ((operandsPushed s x y).look (addrOf ((operandsPushed s x y).look 0o44) + op)) (operandsPushed s x y)
      = .ok () ((operandsPushed s x y).setPc e)) :
    extendedOperation x y op s = .ok () ((operandsPushed s x y).setPc e) := by
  have hb : (s.pushedBlock (s.pc + 1)).calm = true := (State.pushedBlock_calm _ _).trans hc
  have ht := operandsPushed_calm hc x y
  have hset : ((s.pushedBlock (s.pc + 1)).setAc2 ((s.pushedBlock (s.pc + 1)).look 0o40 - 4 + BitVec.ofNat 16 (accNat x))).setAc3
    ((s.pushedBlock (s.pc + 1)).look 0o40 - 4 + BitVec.ofNat 16 (accNat y)) = operandsPushed s x y := rfl
  simp only [extendedOperation, Exec.bind_apply, Exec.get_apply, pushBlock_calm hc, memRead_calm hb, Exec.modify_apply, hset,
    memRead_calm ht, hg]
  exact checkOverflow_setPc ht ho _ _

/-- Settles O35: the block, the two addresses, the jump through the table; the control store where there is one. -/
theorem extendedOperations : Obligations.ExtendedOperations := by
  unfold Obligations.ExtendedOperations
  intro s x y op entry e hc
  refine ⟨fun ho => ⟨fun hg => ?_, fun hw hg => ?_⟩, fun hw he => ?_, fun hw he => ?_⟩
  · have hop : op.zeroExtend 15 = BitVec.ofNat 15 op.toNat := (BitVec.ofNat_toNat 15 op).symm
    have hgoes := jumpThrough_goes (operandsPushed_calm hc x y) hg
    apply runExec_ok
    apply extendedOperation_calm hc x y ho
    rw [hop, addrOf_eq_setWidth]
    exact hgoes
  · have hop : entry.zeroExtend 15 + 32 = BitVec.ofNat 15 (entry.toNat + 32) := by
      rw [BitVec.ofNat_add, BitVec.ofNat_toNat]
      rfl
    have hgoes := jumpThrough_goes (operandsPushed_calm hc x y) hg
    have hexec : exec (.xop1 x y entry) s = execXop1 x y entry s := rfl
    rw [hexec, execXop1, if_neg (by simp [hw])]
    apply runExec_ok
    apply extendedOperation_calm hc x y ho
    rw [hop, addrOf_eq_setWidth]
    exact hgoes
  · have hexec : exec (.xop1 x y entry) s = execXop1 x y entry s := rfl
    rw [hexec, execXop1, if_pos hw, he]
    rfl
  · have hexec : exec (.xop1 x y entry) s = execXop1 x y entry s := rfl
    rw [hexec]
    cases hcase : wcsEntryEffect entry x y s with
    | none => simp only [execXop1, hw, he, if_true, hcase]
    | some u => simp only [execXop1, hw, he, if_true, hcase]

/-! ### The stack without a MAP: what each word reads as (43_stack.md) -/

/-- A calm machine without a MAP whose reserved locations are installed. -/
structure Plain (s : State) : Prop where
  calm : s.calm = true
  noMap : s.hasMap = false
  installed : 48 ≤ s.cfg.memWords
  wf : Memory.wf s.mem = true

theorem Plain.unmapped {s : State} (h : Plain s) (a : Addr) : s.unmapped a = a.toNat := by
  rw [State.unmapped, h.noMap, Bool.false_and, if_neg (by simp)]

theorem Plain.put_eq {s : State} (h : Plain s) (a : Addr) (v : Word) : s.put a v = s.physWrite a.toNat v := by
  rw [State.put_of_calm h.calm, h.unmapped]

theorem Plain.put {s : State} (h : Plain s) (a : Addr) (v : Word) : Plain (s.put a v) where
  calm := (State.put_calm s a v).trans h.calm
  noMap := (State.put_hasMap s a v).trans h.noMap
  installed := by
    rw [State.put_cfg]
    exact h.installed
  wf := by
    rw [h.put_eq]
    exact Addresses.wf_physWrite h.wf _ v

theorem Plain.look_eq {s : State} (h : Plain s) (a : Addr) : s.look a = s.content a.toNat := by
  rw [State.look_of_calm h.calm, h.unmapped]

/-- What a word reads as after a store to an installed word. -/
theorem Plain.look_put {s : State} (h : Plain s) {a : Addr} (ha : a.toNat < s.cfg.memWords) (v : Word) (b : Addr) :
    (s.put a v).look b = if b = a then v else s.look b := by
  rw [(h.put a v).look_eq, h.look_eq, h.put_eq]
  by_cases hb : b = a
  · rw [if_pos hb, hb]
    exact State.content_physWrite_same h.wf ha v
  · rw [if_neg hb]
    exact State.content_physWrite_other h.wf (fun hn => hb (BitVec.eq_of_toNat_eq hn)) v

/-- The stack pointer of a plain machine reads `sp`, below 32,768, above the reserved locations and installed. -/
structure Stacked (s : State) (sp : Nat) : Prop where
  plain : Plain s
  pointer : s.look 0o40 = BitVec.ofNat 16 sp
  low : 35 ≤ sp
  high : sp < 32768
  installed : sp < s.cfg.memWords

theorem addrOf_ofNat (n : Nat) : addrOf (BitVec.ofNat 16 n) = BitVec.ofNat 15 n := by
  apply BitVec.eq_of_toNat_eq
  rw [addrOf_eq_setWidth, BitVec.toNat_setWidth, BitVec.toNat_ofNat, BitVec.toNat_ofNat]
  omega

theorem ofNat_addr_ne {m n : Nat} (hm : m < 32768) (hn : n < 32768) (h : m ≠ n) : (BitVec.ofNat 15 m : Addr) ≠ BitVec.ofNat 15 n := by
  intro heq
  have := congrArg BitVec.toNat heq
  rw [BitVec.toNat_ofNat, BitVec.toNat_ofNat] at this
  omega

theorem ofNat_toNat_addr {n : Nat} (h : n < 32768) : (BitVec.ofNat 15 n : Addr).toNat = n := by
  rw [BitVec.toNat_ofNat]
  omega

/-- A push in terms of stores. -/
theorem Stacked.pushed_eq {s : State} {sp : Nat} (h : Stacked s sp) (v : Word) :
    s.pushed v = (s.put (BitVec.ofNat 15 (sp + 1)) v).put 0o40 (BitVec.ofNat 16 (sp + 1)) := by
  have hnext : BitVec.ofNat 16 sp + 1 = BitVec.ofNat 16 (sp + 1) := by
    rw [BitVec.ofNat_add]
    rfl
  rw [State.pushed, h.pointer, hnext, addrOf_ofNat]

/-- What every word reads as after a push. -/
theorem Stacked.look_pushed {s : State} {sp : Nat} (h : Stacked s sp) (hs : sp + 1 < 32768) (hi : sp + 1 < s.cfg.memWords) (v : Word)
    {b : Nat} (hb : b < 32768) : (s.pushed v).look (BitVec.ofNat 15 b) =
      if b = 32 then BitVec.ofNat 16 (sp + 1) else if b = sp + 1 then v else s.look (BitVec.ofNat 15 b) := by
  have hp := h.plain.put (BitVec.ofNat 15 (sp + 1)) v
  have h40 : (0o40 : Addr) = BitVec.ofNat 15 32 := rfl
  have hinst := h.plain.installed
  rw [h.pushed_eq, hp.look_put (by rw [State.put_cfg]; exact (by decide : (0o40 : Addr).toNat < 48).trans_le hinst),
    h.plain.look_put (by rw [ofNat_toNat_addr hs]; exact hi), h40]
  by_cases h32 : b = 32
  · rw [if_pos h32, h32, if_pos rfl]
  · rw [if_neg h32, if_neg (ofNat_addr_ne hb (by omega) h32)]
    by_cases hsp : b = sp + 1
    · rw [if_pos hsp, hsp, if_pos rfl]
    · rw [if_neg hsp, if_neg (ofNat_addr_ne hb hs hsp)]

theorem Stacked.pushed {s : State} {sp : Nat} (h : Stacked s sp) (hs : sp + 1 < 32768) (hi : sp + 1 < s.cfg.memWords) (v : Word) :
    Stacked (s.pushed v) (sp + 1) where
  plain := (h.plain.put _ v).put _ _
  pointer := (h.look_pushed hs hi v (by omega : 32 < 32768)).trans (if_pos rfl)
  low := by have := h.low; omega
  high := hs
  installed := by
    have hcfg : (s.pushed v).cfg = s.cfg := by simp [State.pushed]
    rw [hcfg]
    exact hi

theorem pushed_cfg (s : State) (v : Word) : (s.pushed v).cfg = s.cfg := by simp [State.pushed]

/-- A return block: its five words, the stack pointer, every other word as before. -/
theorem Stacked.look_pushedBlock {s : State} {sp : Nat} (h : Stacked s sp) (hs : sp + 5 < 32768) (hi : sp + 5 < s.cfg.memWords)
    (pc : Addr) {b : Nat} (hb : b < 32768) : (s.pushedBlock pc).look (BitVec.ofNat 15 b) =
      if b = 32 then BitVec.ofNat 16 (sp + 5) else if b = sp + 5 then wordOfBitAddr s.carry pc else if b = sp + 4 then s.ac3
      else if b = sp + 3 then s.ac2 else if b = sp + 2 then s.ac1 else if b = sp + 1 then s.ac0
      else s.look (BitVec.ofNat 15 b) := by
  have h1 := h.pushed (by omega) (by omega) s.ac0
  have h2 := h1.pushed (by omega) (by rw [pushed_cfg]; omega) s.ac1
  have h3 := h2.pushed (by omega) (by rw [pushed_cfg, pushed_cfg]; omega) s.ac2
  have h4 := h3.pushed (by omega) (by rw [pushed_cfg, pushed_cfg, pushed_cfg]; omega) s.ac3
  rw [State.pushedBlock, h4.look_pushed (by omega) (by rw [pushed_cfg, pushed_cfg, pushed_cfg, pushed_cfg]; omega) _ hb,
    h3.look_pushed (by omega) (by rw [pushed_cfg, pushed_cfg, pushed_cfg]; omega) _ hb,
    h2.look_pushed (by omega) (by rw [pushed_cfg, pushed_cfg]; omega) _ hb,
    h1.look_pushed (by omega) (by rw [pushed_cfg]; omega) _ hb, h.look_pushed (by omega) (by omega) _ hb]
  by_cases h32 : b = 32
  · rw [if_pos h32, if_pos h32]
  · simp only [if_neg h32]

theorem Stacked.pushedBlock {s : State} {sp : Nat} (h : Stacked s sp) (hs : sp + 5 < 32768) (hi : sp + 5 < s.cfg.memWords)
    (pc : Addr) : Stacked (s.pushedBlock pc) (sp + 5) := by
  have h1 := h.pushed (by omega) (by omega) s.ac0
  have h2 := h1.pushed (by omega) (by rw [pushed_cfg]; omega) s.ac1
  have h3 := h2.pushed (by omega) (by rw [pushed_cfg, pushed_cfg]; omega) s.ac2
  have h4 := h3.pushed (by omega) (by rw [pushed_cfg, pushed_cfg, pushed_cfg]; omega) s.ac3
  exact h4.pushed (by omega) (by rw [pushed_cfg, pushed_cfg, pushed_cfg, pushed_cfg]; omega) _

/-- The stack pointer of the statements. -/
theorem stacked_of_look {s : State} (hc : s.calm = true) (hm : s.hasMap = false) (h48 : 48 ≤ s.cfg.memWords)
    (hwf : Memory.wf s.mem = true) (hlow : 35 ≤ (s.look 0o40).toNat) (hhigh : (s.look 0o40).toNat + 5 < 32768)
    (hinst : (s.look 0o40).toNat + 5 < s.cfg.memWords) : Stacked s (s.look 0o40).toNat where
  plain := ⟨hc, hm, h48, hwf⟩
  pointer := (BitVec.ofNat_toNat 16 _ ▸ (BitVec.setWidth_eq _).symm)
  low := hlow
  high := by omega
  installed := by omega

/-! ### What a stack fault leaves (43_stack.md R234) -/

theorem wordOfAddr_ofNat {n : Nat} (h : n < 32768) : wordOfAddr (BitVec.ofNat 15 n) = BitVec.ofNat 16 n := by
  apply BitVec.eq_of_toNat_eq
  rw [wordOfAddr, toNat_append_eq_add, BitVec.toNat_ofNat, BitVec.toNat_ofNat]
  simp
  omega

theorem wordOfBitAddr_true (w : Word) : wordOfBitAddr true (addrOf w) = w ||| 0x8000 := by
  apply BitVec.eq_of_getLsbD_eq
  intro i hi
  rw [wordOfBitAddr, BitVec.getLsbD_append, BitVec.getLsbD_or, addrOf_eq_setWidth, BitVec.getLsbD_setWidth]
  by_cases h : i < 15
  · have hbit : (0x8000 : Word).getLsbD i = false := by
      interval_cases i <;> rfl
    rw [if_pos h, hbit]
    simp [h]
  · have h15 : i = 15 := by omega
    subst h15
    simp [bitOf]

/-- Every word after a stack fault. -/
theorem Stacked.look_stackFaulted {s : State} {sp : Nat} (h : Stacked s sp) (hs : sp + 5 < 32768) (hi : sp + 5 < s.cfg.memWords)
    (pc : Addr) {b : Nat} (hb : b < 32768) : (s.stackFaulted pc).look (BitVec.ofNat 15 b) =
      if b = 34 then s.look 0o42 ||| 0x8000 else (s.pushedBlock pc).look (BitVec.ofNat 15 b) := by
  have hblock := h.pushedBlock hs hi pc
  have h48 := hblock.plain.installed
  have h34 : (0o42 : Addr) = BitVec.ofNat 15 34 := rfl
  have h40 : (0o40 : Addr) = BitVec.ofNat 15 32 := rfl
  have hlook : ∀ c : Nat, c < 32768 → ((s.pushedBlock pc).put 0o40
      (wordOfAddr (addrOf ((s.pushedBlock pc).look 0o40)))).look (BitVec.ofNat 15 c) = (s.pushedBlock pc).look (BitVec.ofNat 15 c) := by
    intro c hc
    rw [hblock.plain.look_put ((by decide : (0o40 : Addr).toNat < 48).trans_le h48), hblock.pointer, addrOf_ofNat,
      wordOfAddr_ofNat hs]
    split
    · next heq => rw [heq, hblock.pointer]
    · rfl
  have hlimit : (s.pushedBlock pc).look (BitVec.ofNat 15 34) = s.look 0o42 := by
    have hlow := h.low
    rw [h.look_pushedBlock hs hi pc (by omega), if_neg (by omega), if_neg (by omega), if_neg (by omega), if_neg (by omega),
      if_neg (by omega), if_neg (by omega)]
    rfl
  rw [State.stackFaulted]
  rw [(hblock.plain.put _ _).look_put (by rw [State.put_cfg]; exact (by decide : (0o42 : Addr).toNat < 48).trans_le h48), hlook b hb,
    wordOfBitAddr_true, h34, hlook 34 (by omega), hlimit]
  by_cases hbb : b = 34
  · rw [if_pos hbb, hbb, if_pos rfl]
    rfl
  · rw [if_neg hbb, if_neg (ofNat_addr_ne hb (by omega) hbb)]

/-- A state that differs from another in memory at most. -/
def MemoryOnly (s t : State) : Prop := t = s.setMem t.mem

theorem MemoryOnly.trans {s t u : State} (h1 : MemoryOnly s t) (h2 : MemoryOnly t u) : MemoryOnly s u := by
  have h1' : t = s.setMem t.mem := h1
  have hset := congrArg (fun x : State => x.setMem u.mem) h1'
  exact Eq.trans h2 hset

theorem memoryOnly_put (s : State) (a : Addr) (v : Word) : MemoryOnly s (s.put a v) := State.put_eq s a v

theorem memoryOnly_pushed (s : State) (v : Word) : MemoryOnly s (s.pushed v) := (memoryOnly_put _ _ _).trans (memoryOnly_put _ _ _)

theorem memoryOnly_pushedBlock (s : State) (pc : Addr) : MemoryOnly s (s.pushedBlock pc) := by
  unfold State.pushedBlock
  exact ((((memoryOnly_pushed _ _).trans (memoryOnly_pushed _ _)).trans (memoryOnly_pushed _ _)).trans (memoryOnly_pushed _ _)).trans
    (memoryOnly_pushed _ _)

theorem memoryOnly_stackFaulted (s : State) (pc : Addr) : MemoryOnly s (s.stackFaulted pc) := by
  unfold State.stackFaulted
  exact ((memoryOnly_pushedBlock s pc).trans (memoryOnly_put _ _ _)).trans (memoryOnly_put _ _ _)

/-! ### What a return block gives back (43_stack.md R233) -/

/-- What every word reads as after a pop. -/
theorem Stacked.look_popped {s : State} {sp : Nat} (h : Stacked s sp) {b : Nat} (hb : b < 32768) :
    s.popped.look (BitVec.ofNat 15 b) = if b = 32 then BitVec.ofNat 16 (sp - 1) else s.look (BitVec.ofNat 15 b) := by
  have hlow := h.low
  have hprev : BitVec.ofNat 16 sp - 1 = BitVec.ofNat 16 (sp - 1) := by
    obtain ⟨n, rfl⟩ : ∃ n, sp = n + 1 := ⟨sp - 1, by omega⟩
    rw [BitVec.ofNat_add]
    exact BitVec.add_sub_cancel _ _
  rw [State.popped, h.plain.look_put ((by decide : (0o40 : Addr).toNat < 48).trans_le h.plain.installed), h.pointer, hprev]
  by_cases h32 : b = 32
  · rw [if_pos h32, h32]
    exact if_pos rfl
  · rw [if_neg h32]
    exact if_neg (ofNat_addr_ne hb (by omega) h32)

theorem popped_cfg (s : State) : s.popped.cfg = s.cfg := by simp [State.popped]

theorem Stacked.popped {s : State} {sp : Nat} (h : Stacked s sp) (hs : 36 ≤ sp) : Stacked s.popped (sp - 1) where
  plain := h.plain.put _ _
  pointer := (h.look_popped (by omega : 32 < 32768)).trans (if_pos rfl)
  low := by omega
  high := by have := h.high; omega
  installed := by
    have := h.installed
    rw [popped_cfg]
    omega

theorem Stacked.top_eq {s : State} {sp : Nat} (h : Stacked s sp) : s.top = s.look (BitVec.ofNat 15 sp) := by
  rw [State.top, h.pointer, addrOf_ofNat]

/-- The five words a return block is popped from. -/
theorem Stacked.poppedBlock_eq {s : State} {sp : Nat} (h : Stacked s sp) (hs : 40 ≤ sp) :
    s.poppedBlock.pc = addrOf (s.look (BitVec.ofNat 15 sp)) ∧ s.poppedBlock.carry = isIndirect (s.look (BitVec.ofNat 15 sp))
    ∧ s.poppedBlock.ac3 = s.look (BitVec.ofNat 15 (sp - 1)) ∧ s.poppedBlock.ac2 = s.look (BitVec.ofNat 15 (sp - 2))
    ∧ s.poppedBlock.ac1 = s.look (BitVec.ofNat 15 (sp - 3)) ∧ s.poppedBlock.ac0 = s.look (BitVec.ofNat 15 (sp - 4))
    ∧ s.poppedBlock.look 0o40 = BitVec.ofNat 16 (sp - 5) := by
  have hhigh := h.high
  have h1 := h.popped (by omega)
  have h2 := h1.popped (by omega)
  have h3 := h2.popped (by omega)
  have h4 := h3.popped (by omega)
  have t1 : s.popped.top = s.look (BitVec.ofNat 15 (sp - 1)) := by
    rw [h1.top_eq, h.look_popped (by omega), if_neg (by omega)]
  have t2 : s.popped.popped.top = s.look (BitVec.ofNat 15 (sp - 2)) := by
    rw [h2.top_eq, h1.look_popped (by omega), if_neg (by omega), h.look_popped (by omega), if_neg (by omega)]
    rfl
  have t3 : s.popped.popped.popped.top = s.look (BitVec.ofNat 15 (sp - 3)) := by
    rw [h3.top_eq, h2.look_popped (by omega), if_neg (by omega), h1.look_popped (by omega), if_neg (by omega),
      h.look_popped (by omega), if_neg (by omega)]
    rfl
  have t4 : s.popped.popped.popped.popped.top = s.look (BitVec.ofNat 15 (sp - 4)) := by
    rw [h4.top_eq, h3.look_popped (by omega), if_neg (by omega), h2.look_popped (by omega), if_neg (by omega),
      h1.look_popped (by omega), if_neg (by omega), h.look_popped (by omega), if_neg (by omega)]
    rfl
  have hpointer : s.popped.popped.popped.popped.popped.look 0o40 = BitVec.ofNat 16 (sp - 5) :=
    (h4.look_popped (by omega : 32 < 32768)).trans (if_pos rfl)
  have htop := h.top_eq
  refine ⟨?_, ?_, ?_, ?_, ?_, ?_, ?_⟩
  · simp [State.poppedBlock, htop]
  · simp [State.poppedBlock, htop]
  · simp [State.poppedBlock, t1]
  · simp [State.poppedBlock, t2]
  · simp [State.poppedBlock, t3]
  · simp [State.poppedBlock, t4]
  · simp only [State.poppedBlock, State.setAc0_look, State.setAc1_look, State.setAc2_look, State.setAc3_look, State.setPc_look,
      State.setCarry_look]
    exact hpointer

theorem Stacked.setCarry {s : State} {sp : Nat} (h : Stacked s sp) (c : Bool) : Stacked (s.setCarry c) sp :=
  ⟨⟨h.plain.calm, h.plain.noMap, h.plain.installed, h.plain.wf⟩, h.pointer, h.low, h.high, h.installed⟩

theorem addrOf_wordOfBitAddr (c : Bool) (p : Addr) : addrOf (wordOfBitAddr c p) = p := by
  have hp := p.isLt
  apply BitVec.eq_of_toNat_eq
  rw [addrOf, fld_toNat, wordOfBitAddr, toNat_append_eq_add]
  omega

theorem isIndirect_wordOfBitAddr (c : Bool) (p : Addr) : isIndirect (wordOfBitAddr c p) = c := by
  rw [isIndirect_eq_msb, wordOfBitAddr, BitVec.msb_append]
  cases c <;> rfl

/-- An address above the stack pointer, by its number. -/
theorem setWidth_add_ofNat (w : Word) (k : Nat) : (w.setWidth 15 + BitVec.ofNat 15 k : Addr) = BitVec.ofNat 15 (w.toNat + k) := by
  rw [BitVec.ofNat_add, BitVec.ofNat_toNat]

theorem ofNat_toNat_add (w : Word) (k : Nat) : (BitVec.ofNat 16 (w.toNat + k) : Word) = w + BitVec.ofNat 16 k := by
  rw [BitVec.ofNat_add, BitVec.ofNat_toNat, BitVec.setWidth_eq]

theorem stackFault_leaves {s : State} {w : Word} (h : Stacked s w.toNat) (hs : w.toNat + 5 < 32768)
    (hi : w.toNat + 5 < s.cfg.memWords) (pc : Addr) :
    (s.stackFaulted pc).look (w.setWidth 15 + 1) = s.ac0 ∧ (s.stackFaulted pc).look (w.setWidth 15 + 2) = s.ac1
    ∧ (s.stackFaulted pc).look (w.setWidth 15 + 3) = s.ac2 ∧ (s.stackFaulted pc).look (w.setWidth 15 + 4) = s.ac3
    ∧ (s.stackFaulted pc).look (w.setWidth 15 + 5) = bitOf s.carry ++ pc ∧ (s.stackFaulted pc).look 0o40 = w + 5
    ∧ (s.stackFaulted pc).look 0o42 = s.look 0o42 ||| 0x8000 := by
  have hlow := h.low
  have hread : ∀ k : Nat, 1 ≤ k → k ≤ 5 → (s.stackFaulted pc).look (w.setWidth 15 + BitVec.ofNat 15 k) =
      (s.pushedBlock pc).look (BitVec.ofNat 15 (w.toNat + k)) := fun k h1 h5 => by
    rw [setWidth_add_ofNat, h.look_stackFaulted hs hi pc (by omega), if_neg (by omega)]
  refine ⟨?_, ?_, ?_, ?_, ?_, ?_, ?_⟩
  · refine (hread 1 (by omega) (by omega)).trans ?_
    rw [h.look_pushedBlock hs hi pc (by omega), if_neg (by omega), if_neg (by omega), if_neg (by omega), if_neg (by omega),
      if_neg (by omega), if_pos rfl]
  · refine (hread 2 (by omega) (by omega)).trans ?_
    rw [h.look_pushedBlock hs hi pc (by omega), if_neg (by omega), if_neg (by omega), if_neg (by omega), if_neg (by omega),
      if_pos rfl]
  · refine (hread 3 (by omega) (by omega)).trans ?_
    rw [h.look_pushedBlock hs hi pc (by omega), if_neg (by omega), if_neg (by omega), if_neg (by omega), if_pos rfl]
  · refine (hread 4 (by omega) (by omega)).trans ?_
    rw [h.look_pushedBlock hs hi pc (by omega), if_neg (by omega), if_neg (by omega), if_pos rfl]
  · refine (hread 5 (by omega) (by omega)).trans ?_
    rw [h.look_pushedBlock hs hi pc (by omega), if_neg (by omega), if_pos rfl]
    rfl
  · refine (h.look_stackFaulted hs hi pc (by omega : 32 < 32768)).trans ?_
    rw [if_neg (by omega), h.look_pushedBlock hs hi pc (by omega), if_pos rfl, ofNat_toNat_add]
    rfl
  · exact (h.look_stackFaulted hs hi pc (by omega : 34 < 32768)).trans (if_pos rfl)

theorem returnBlock_restores {s : State} {w : Word} (h : Stacked s w.toNat) (hs : w.toNat + 5 < 32768)
    (hi : w.toNat + 5 < s.cfg.memWords) (pc : Addr) {t : State} (ht : t = ((s.pushedBlock pc).setCarry (!s.carry)).poppedBlock) :
    t.ac0 = s.ac0 ∧ t.ac1 = s.ac1 ∧ t.ac2 = s.ac2 ∧ t.ac3 = s.ac3 ∧ t.carry = s.carry ∧ t.pc = pc ∧ t.look 0o40 = w := by
  have hlow := h.low
  obtain ⟨hpc, hcarry, h3, h2, h1, h0, hp⟩ := ((h.pushedBlock hs hi pc).setCarry (!s.carry)).poppedBlock_eq (by omega)
  have hread : ∀ k : Nat, k ≤ 4 → ((s.pushedBlock pc).setCarry (!s.carry)).look (BitVec.ofNat 15 (w.toNat + 5 - k)) =
      (s.pushedBlock pc).look (BitVec.ofNat 15 (w.toNat + 5 - k)) := fun k hk => State.setCarry_look _ _ _
  rw [← ht] at hpc hcarry h3 h2 h1 h0 hp
  refine ⟨?_, ?_, ?_, ?_, ?_, ?_, ?_⟩
  · rw [h0, hread 4 (by omega), h.look_pushedBlock hs hi pc (by omega), if_neg (by omega), if_neg (by omega), if_neg (by omega),
      if_neg (by omega), if_neg (by omega), if_pos (by omega)]
  · rw [h1, hread 3 (by omega), h.look_pushedBlock hs hi pc (by omega), if_neg (by omega), if_neg (by omega), if_neg (by omega),
      if_neg (by omega), if_pos (by omega)]
  · rw [h2, hread 2 (by omega), h.look_pushedBlock hs hi pc (by omega), if_neg (by omega), if_neg (by omega), if_neg (by omega),
      if_pos (by omega)]
  · rw [h3, hread 1 (by omega), h.look_pushedBlock hs hi pc (by omega), if_neg (by omega), if_neg (by omega), if_pos (by omega)]
  · rw [hcarry]
    refine (congrArg isIndirect (hread 0 (by omega))).trans ?_
    rw [h.look_pushedBlock hs hi pc (by omega), if_neg (by omega), if_pos (by omega), isIndirect_wordOfBitAddr]
  · rw [hpc]
    refine (congrArg addrOf (hread 0 (by omega))).trans ?_
    rw [h.look_pushedBlock hs hi pc (by omega), if_neg (by omega), if_pos (by omega), addrOf_wordOfBitAddr]
  · rw [hp, Nat.add_sub_cancel, BitVec.ofNat_toNat, BitVec.setWidth_eq]

/-- Settles O31: five stores above the reserved locations, each read back. -/
theorem returnBlocks : Obligations.ReturnBlocks := by
  unfold Obligations.ReturnBlocks
  refine ⟨fun s pc hc hm h48 hwf hlow hhigh hinst => ?_, fun s pc hc hm h48 hwf hlow hhigh hinst => ?_⟩
  · obtain ⟨h1, h2, h3, h4, h5, hp, hl⟩ := stackFault_leaves (stacked_of_look hc hm h48 hwf hlow hhigh hinst) hhigh hinst pc
    exact ⟨h1, h2, h3, h4, h5, hp, hl, memoryOnly_stackFaulted s pc⟩
  · exact returnBlock_restores (stacked_of_look hc hm h48 hwf hlow hhigh hinst) hhigh hinst pc rfl

end Sys2Proof.Proofs.Flow
end

section
/-! SUPPORT. Bytes, bits, blocks, strings (42_byte_bit.md, 46_map.md LOAD MAP, 48_commercial.md section 3). -/

namespace Sys2Proof.Proofs.Bytes

open Sys2Proof Sys2Proof.Machine Sys2Proof.Proofs.FixedPoint

-- Theorems elaborated side by side each hold a thread's stack, and the memory limit is near.
set_option Elab.async false

/-! ### Byte pointers (20_memory.md R71) -/

theorem bytePtrAddr_eq (p : Word) : bytePtrAddr p = BitVec.ofNat 15 (p.toNat / 2) := by
  have hp := p.isLt
  apply BitVec.eq_of_toNat_eq
  rw [bytePtrAddr, fld_toNat, BitVec.toNat_ofNat]
  omega

theorem byteOfWord_eq (p w : Word) :
    byteOfWord p w = if p.toNat % 2 = 0 then w.extractLsb' 8 8 else w.extractLsb' 0 8 := by
  have hiff := Addresses.fld_low_eq_zero_iff p
  unfold byteOfWord
  by_cases h : p.toNat % 2 = 0
  · rw [if_pos h, if_pos (hiff.2 h)]
    rfl
  · rw [if_neg h, if_neg (fun hf => h (hiff.1 hf))]
    rfl

theorem withByte_eq (p w : Word) (b : Byte) :
    withByte p w b = if p.toNat % 2 = 0 then b ++ w.extractLsb' 0 8 else w.extractLsb' 8 8 ++ b := by
  have hiff := Addresses.fld_low_eq_zero_iff p
  unfold withByte
  by_cases h : p.toNat % 2 = 0
  · rw [if_pos h, if_pos (hiff.2 h)]
    rfl
  · rw [if_neg h, if_neg (fun hf => h (hiff.1 hf))]
    rfl

theorem lookByte_eq (s : State) (p : Word) : s.lookByte p =
    if p.toNat % 2 = 0 then (s.look (BitVec.ofNat 15 (p.toNat / 2))).extractLsb' 8 8
      else (s.look (BitVec.ofNat 15 (p.toNat / 2))).extractLsb' 0 8 := by
  rw [State.lookByte, byteOfWord_eq, bytePtrAddr_eq]

theorem putByte_eq (s : State) (p : Word) (b : Byte) : s.putByte p b = s.put (BitVec.ofNat 15 (p.toNat / 2))
    (if p.toNat % 2 = 0 then b ++ (s.look (BitVec.ofNat 15 (p.toNat / 2))).extractLsb' 0 8
      else (s.look (BitVec.ofNat 15 (p.toNat / 2))).extractLsb' 8 8 ++ b) := by
  rw [State.putByte, withByte_eq, bytePtrAddr_eq]

theorem loByte_eq_setWidth (w : Word) : loByte w = w.setWidth 8 := BitVec.setWidth_eq_extractLsb' (by omega) |>.symm

theorem wordOfAddr_toNat (a : Addr) : (wordOfAddr a).toNat = a.toNat := by
  have ha := a.isLt
  rw [wordOfAddr, toNat_append_eq_add]
  simp

/-- The extended byte pointer is twice the index value plus the displacement (42_byte_bit.md R214). -/
theorem extBytePtr_eq (s : State) (ix : Index) (d : Word) {base : Nat}
    (hb : base = match ix with
      | .absolute => 0
      | .relative => (s.pc + 1).toNat
      | .ac2 => s.ac2.toNat
      | .ac3 => s.ac3.toNat) : s.extBytePtr ix d = BitVec.ofNat 16 (2 * base + d.toNat) := by
  have htwo : ∀ w : Word, w.toNat = base → w * 2 + d = BitVec.ofNat 16 (2 * base + d.toNat) := fun w hw => by
    apply BitVec.eq_of_toNat_eq
    rw [BitVec.toNat_add, BitVec.toNat_mul, BitVec.toNat_ofNat, hw, show (2 : Word).toNat = 2 from rfl]
    omega
  cases ix with
  | absolute =>
    subst hb
    rw [State.extBytePtr, Nat.mul_zero, Nat.zero_add, BitVec.ofNat_toNat, BitVec.setWidth_eq]
  | relative => exact htwo _ ((wordOfAddr_toNat _).trans hb.symm)
  | ac2 => exact htwo _ hb.symm
  | ac3 => exact htwo _ hb.symm

theorem exec_ldb {s : State} (x y : Acc) (hq : s.quiet = true) (hr : s.readable (bytePtrAddr (s.ac x)) = true) :
    exec (.ldb x y) s = .next ((s.setAc y ((s.lookByte (s.ac x)).setWidth 16)).setPc (s.pc + 1)) := by
  have hexec : exec (.ldb x y) s = execLdb x y s := rfl
  rw [hexec, execLdb]
  apply runExec_ok
  simp only [Exec.bind_apply, byteRead_quiet hq hr, Exec.modify_apply, advance_apply, State.setAc_pc]

theorem exec_eldb {s : State} (a : Acc) (ix : Index) (d : Word) (heap : s.cfg.hasEap = true) (hq : s.quiet = true)
    (hr : s.readable (bytePtrAddr (s.extBytePtr ix d)) = true) :
    exec (.eldb a ix d) s = .next ((s.setAc a ((s.lookByte (s.extBytePtr ix d)).setWidth 16)).setPc (s.pc + 2)) := by
  have hexec : exec (.eldb a ix d) s = execEldb a ix d s := rfl
  rw [hexec, execEldb]
  apply runExec_ok
  simp only [Exec.bind_apply, needsEap_ok heap, byteRead_quiet hq hr, Exec.modify_apply, advance_apply, State.setAc_pc]

/-! ### Bit pointers (20_memory.md R72) -/

/-- The word and the bit of a bit pointer whose base is known. -/
theorem bitPointer_apply {s : State} (x y : Acc) {hi : Word} {base : Addr} (hhi : hi = if x = y then 0 else s.ac x)
    (hbase : hi.msb = false ∧ base = hi.setWidth 15
      ∨ hi.msb = true ∧ s.calm = true ∧ s.map.enablePending = none ∧ s.follow 32768 (hi.setWidth 15) = some base) :
    bitPointer x y s = .ok (base + BitVec.ofNat 15 ((s.ac y).toNat / 16), (s.ac y).toNat % 16) s := by
  have hlo := (s.ac y).isLt
  have hword : (fld (s.ac y) 0 12).zeroExtend 15 = BitVec.ofNat 15 ((s.ac y).toNat / 16) := by
    apply BitVec.eq_of_toNat_eq
    rw [BitVec.zeroExtend_eq_setWidth, BitVec.toNat_setWidth, fld_toNat, BitVec.toNat_ofNat]
    omega
  have hbit : (fld (s.ac y) 12 4).toNat = (s.ac y).toNat % 16 := by
    rw [fld_toNat]
    omega
  rw [← isIndirect_eq_msb, ← addrOf_eq_setWidth] at hbase
  rcases hbase with ⟨hm, hb⟩ | ⟨hm, hc, he, hf⟩
  · simp only [bitPointer, Exec.bind_apply, Exec.get_apply, ← hhi, hword, hbit, hm, Bool.false_eq_true, if_false, Exec.pure_apply,
      hb]
  · simp only [bitPointer, Exec.bind_apply, Exec.get_apply, ← hhi, hword, hbit, hm, if_true,
      indirect_calm hc he (State.follow_chainFuel s hf), Exec.pure_apply]

section Bits

variable {s : State} {x y : Acc} {a : Addr} {b : Nat}

theorem exec_bto (hq : s.quiet = true) (hp : bitPointer x y s = .ok (a, b) s) (hr : s.readable a = true)
    (hw : s.writable a = true) : exec (.bto x y) s = .next ((s.put a (s.look a ||| bitMask b)).setPc (s.pc + 1)) := by
  have hexec : exec (.bto x y) s = execBto x y s := rfl
  rw [hexec, execBto]
  apply runExec_ok
  simp only [Exec.bind_apply, hp, memRead_quiet hq hr, memWrite_quiet hq hw, advance_apply, State.put_pc]

theorem exec_btz (hq : s.quiet = true) (hp : bitPointer x y s = .ok (a, b) s) (hr : s.readable a = true)
    (hw : s.writable a = true) : exec (.btz x y) s = .next ((s.put a (s.look a &&& ~~~bitMask b)).setPc (s.pc + 1)) := by
  have hexec : exec (.btz x y) s = execBtz x y s := rfl
  rw [hexec, execBtz]
  apply runExec_ok
  simp only [Exec.bind_apply, hp, memRead_quiet hq hr, memWrite_quiet hq hw, advance_apply, State.put_pc]

/-- A skip on a zero bit. -/
theorem skip_on_zero (v : Word) (b : Nat) : (if (!v.getMsbD b) = true then (1 + 1 : Addr) else 1) = if v.getMsbD b then 1 else 2 := by
  cases v.getMsbD b <;> rfl

theorem exec_szbo (hq : s.quiet = true) (hp : bitPointer x y s = .ok (a, b) s) (hr : s.readable a = true)
    (hw : s.writable a = true) : exec (.szbo x y) s =
    .next ((s.put a (s.look a ||| bitMask b)).setPc (s.pc + if (s.look a).getMsbD b then 1 else 2)) := by
  have hexec : exec (.szbo x y) s = execSzbo x y s := rfl
  rw [hexec, execSzbo]
  apply runExec_ok
  simp only [Exec.bind_apply, hp, memRead_quiet hq hr, memWrite_quiet hq hw, advanceSkip_apply, State.put_pc, skip_on_zero]

theorem exec_szb (hq : s.quiet = true) (hp : bitPointer x y s = .ok (a, b) s) (hr : s.readable a = true) :
    exec (.szb x y) s = .next (s.setPc (s.pc + if (s.look a).getMsbD b then 1 else 2)) := by
  have hexec : exec (.szb x y) s = execSzb x y s := rfl
  rw [hexec, execSzb]
  apply runExec_ok
  simp only [Exec.bind_apply, hp, memRead_quiet hq hr, advanceSkip_apply, skip_on_zero]

theorem exec_snb (hq : s.quiet = true) (hp : bitPointer x y s = .ok (a, b) s) (hr : s.readable a = true) :
    exec (.snb x y) s = .next (s.setPc (s.pc + if (s.look a).getMsbD b then 2 else 1)) := by
  have hexec : exec (.snb x y) s = execSnb x y s := rfl
  rw [hexec, execSnb]
  apply runExec_ok
  simp only [Exec.bind_apply, hp, memRead_quiet hq hr, advanceSkip_apply]
  rfl

end Bits

/-- Settles O33: byte and bit pointers as numbers. -/
theorem byteAndBitInstructions : Obligations.ByteAndBitInstructions := by
  unfold Obligations.ByteAndBitInstructions
  refine ⟨fun s x y ix d hq => ?_, fun s x y base hq => ?_⟩
  · intro bp base xp wordAt byteAt stored mayRead mayWrite
    have hxp : s.extBytePtr ix d = xp := extBytePtr_eq s ix d rfl
    have hbyte : ∀ p, s.lookByte p = byteAt p := fun p => lookByte_eq s p
    have hput : ∀ p b, s.putByte p b = stored p b := fun p b => putByte_eq s p b
    have hread : ∀ p, mayRead p → s.readable (bytePtrAddr p) = true := fun p h => by
      rw [bytePtrAddr_eq]
      exact h
    have hwrite : ∀ p, mayWrite p → s.writable (bytePtrAddr p) = true := fun p h => by
      rw [bytePtrAddr_eq]
      exact h
    refine ⟨fun hr => ?_, fun hr hw => ?_, fun heap hr => ?_, fun heap hr hw => ?_⟩
    · rw [exec_ldb x y hq (hread _ hr), hbyte]
    · rw [Addresses.exec_stb x y hq (hread _ hr) (hwrite _ hw), hput, loByte_eq_setWidth]
    · rw [exec_eldb y ix d heap hq (by rw [hxp]; exact hread _ hr), hxp, hbyte]
    · rw [Addresses.exec_estb y ix d heap hq (by rw [hxp]; exact hread _ hr) (by rw [hxp]; exact hwrite _ hw), hxp, hput,
        loByte_eq_setWidth]
  · intro hi lo a b mask v hbase hr
    have hp : bitPointer x y s = .ok (a, b) s := bitPointer_apply x y rfl hbase
    exact ⟨fun hw => ⟨exec_bto hq hp hr hw, exec_btz hq hp hr hw, exec_szbo hq hp hr hw⟩, exec_szb hq hp hr, exec_snb hq hp hr⟩

/-! ### Resolved addresses in accumulators (42_byte_bit.md R221) -/

/-- An address in an accumulator is replaced by the end of its chain, or stays. -/
theorem resolveAcAddr_calm {s : State} (hc : s.calm = true) (he : s.map.enablePending = none) {n : Acc} {p : Addr}
    (h : if (s.ac n).msb then s.follow 32768 ((s.ac n).setWidth 15) = some p else s.ac n = 0#1 ++ p) :
    resolveAcAddr n s = .ok () (s.setAc n (0#1 ++ p)) := by
  rw [← isIndirect_eq_msb, ← addrOf_eq_setWidth] at h
  cases hi : isIndirect (s.ac n) with
  | true =>
    rw [hi, if_pos rfl] at h
    exact resolveAcAddr_indirect hc he hi (State.follow_chainFuel s h)
  | false =>
    rw [hi, if_neg (by simp)] at h
    rw [resolveAcAddr_direct hi, ← h]
    cases n <;> rfl

/-! ### Block moves (42_byte_bit.md R221, R222, R226) -/

theorem movedWord_eq (f : Word → Word) (s : State) :
    (s.put (addrOf s.ac3) (f (s.look (addrOf s.ac2)))).blockStep = s.movedWord f := by
  simp only [State.blockStep, State.movedWord, State.put_ac1, State.put_ac2, State.put_ac3]
  rfl

theorem movedWord_calm {s : State} (hc : s.calm = true) (f : Word → Word) : (s.movedWord f).calm = true := by
  simp [State.movedWord, hc]

theorem canSuspend_put (s : State) (a : Addr) (v : Word) : (s.put a v).canSuspend = s.canSuspend := by
  rw [State.put_eq]
  rfl

theorem canSuspend_movedWord (f : Word → Word) (s : State) : (s.movedWord f).canSuspend = s.canSuspend :=
  canSuspend_put s _ _

/-- One word of a block move, and what follows it. -/
theorem blockLoop_succ {s : State} (hc : s.calm = true) (f : Word → Word) (n : Nat) : blockLoop f (n + 1) s =
    if n ≠ 0 ∧ s.canSuspend = true then .error .trap ((s.movedWord f).setIonDelay .idle) else blockLoop f n (s.movedWord f) := by
  have hput := (State.put_calm s (addrOf s.ac3) (f (s.look (addrOf s.ac2)))).trans hc
  simp only [blockLoop, Exec.bind_apply, Exec.get_apply, memRead_calm hc, memWrite_calm hc, Exec.modify_apply, movedWord_eq,
    canSuspend_movedWord, Exec.ite_apply]
  split
  · rfl
  · rfl

theorem blockLoop_calm (f : Word → Word) (n : Nat) : ∀ s : State, s.calm = true → s.canSuspend = false →
    blockLoop f n s = .ok () ((State.movedWord f)^[n] s) := by
  induction n with
  | zero => exact fun s _ _ => rfl
  | succ n ih =>
    intro s hc hs
    rw [blockLoop_succ hc, if_neg (by simp [hs]), ih _ (movedWord_calm hc f) ((canSuspend_movedWord f s).trans hs)]
    rfl

theorem movedWord_pc (f : Word → Word) (s : State) : (s.movedWord f).pc = s.pc := by
  simp [State.movedWord]

theorem iterate_pc {g : State → State} (hg : ∀ s, (g s).pc = s.pc) (n : Nat) : ∀ s : State, (g^[n] s).pc = s.pc := by
  induction n with
  | zero => exact fun s => rfl
  | succ n ih => exact fun s => (ih (g s)).trans (hg s)

theorem blockCount_zero {w : Word} (h : w = 0 ∨ 32768 < w.toNat) : blockCount w = 0 := by
  rw [blockCount]
  rcases h with rfl | h
  · rfl
  · rw [if_neg (by omega)]

theorem blockCount_pos {w : Word} (h : w.toNat ≤ 32768) : blockCount w = w.toNat := by
  rw [blockCount, if_pos h]

theorem blockMove_none {s : State} (h : s.ac1 = 0 ∨ 32768 < s.ac1.toNat) (f : Word → Word) :
    blockMove f s = .ok () (s.setPc (s.pc + 1)) := by
  simp only [blockMove, Exec.bind_apply, Exec.get_apply, blockCount_zero h, if_true, advance_apply]

/-- A block move of at least one word after its addresses are resolved. -/
theorem blockMove_some {s : State} (h0 : 0 < s.ac1.toNat) (h : s.ac1.toNat ≤ 32768) (f : Word → Word) {t : State}
    (h2 : (do
      resolveAcAddr .a2
      resolveAcAddr .a3 : Exec Unit) s = .ok () t) : blockMove f s =
    match blockLoop f s.ac1.toNat t with
    | .ok _ u => .ok () (u.setPc (u.pc + 1))
    | .error e u => .error e u := by
  have hcount : ¬s.ac1.toNat = 0 := by omega
  rw [Exec.bind_apply] at h2
  simp only [blockMove, Exec.bind_apply, Exec.get_apply, blockCount_pos h, if_neg hcount]
  generalize resolveAcAddr .a2 s = o at h2
  cases o with
  | error e u => cases h2
  | ok a u =>
    dsimp only at h2 ⊢
    rw [h2]
    dsimp only
    generalize blockLoop f s.ac1.toNat t = r
    cases r <;> rfl

theorem blockMove_calm {s : State} (hc : s.calm = true) (he : s.map.enablePending = none) (hs : s.canSuspend = false)
    (h0 : 0 < s.ac1.toNat) (h : s.ac1.toNat ≤ 32768) {p q : Addr}
    (hp : if s.ac2.msb then s.follow 32768 (s.ac2.setWidth 15) = some p else s.ac2 = 0#1 ++ p)
    (hq : if s.ac3.msb then s.follow 32768 (s.ac3.setWidth 15) = some q else s.ac3 = 0#1 ++ q) (f : Word → Word) :
    blockMove f s = .ok () (((State.movedWord f)^[s.ac1.toNat] ((s.setAc2 (0#1 ++ p)).setAc3 (0#1 ++ q))).setPc (s.pc + 1)) := by
  have hfollow : ∀ n a, (s.setAc2 (0#1 ++ p)).follow n a = s.follow n a := by
    intro n
    induction n with
    | zero => exact fun _ => rfl
    | succ n ih => exact fun a => by rw [State.follow, State.follow, State.setAc2_look, ih]
  have h2 : resolveAcAddr .a2 s = .ok () (s.setAc2 (0#1 ++ p)) := resolveAcAddr_calm (n := .a2) hc he hp
  have h3 : resolveAcAddr .a3 (s.setAc2 (0#1 ++ p)) = .ok () ((s.setAc2 (0#1 ++ p)).setAc3 (0#1 ++ q)) :=
    resolveAcAddr_calm (s := s.setAc2 (0#1 ++ p)) (n := .a3) hc he (by rw [hfollow]; exact hq)
  rw [blockMove_some h0 h f (t := (s.setAc2 (0#1 ++ p)).setAc3 (0#1 ++ q)) (by rw [Exec.bind_apply, h2]; exact h3),
    blockLoop_calm f _ ((s.setAc2 (0#1 ++ p)).setAc3 (0#1 ++ q)) hc hs]
  dsimp only
  rw [iterate_pc (movedWord_pc f)]
  rfl

/-- A block move of more than one word with an interrupt to honour stops after the first. -/
theorem blockMove_suspended {s : State} (hc : s.calm = true) (hs : s.canSuspend = true) (h2 : s.ac2.msb = false)
    (h3 : s.ac3.msb = false) (h1 : 1 < s.ac1.toNat) (h : s.ac1.toNat ≤ 32768) (f : Word → Word) :
    blockMove f s = .error .trap ((s.movedWord f).setIonDelay .idle) := by
  have hr2 : resolveAcAddr .a2 s = .ok () s := resolveAcAddr_direct ((isIndirect_eq_msb _).trans h2)
  have hr3 : resolveAcAddr .a3 s = .ok () s := resolveAcAddr_direct ((isIndirect_eq_msb _).trans h3)
  obtain ⟨n, hn⟩ : ∃ n, s.ac1.toNat = n + 1 := ⟨s.ac1.toNat - 1, by omega⟩
  rw [blockMove_some (by omega) h f (t := s) (by rw [Exec.bind_apply, hr2]; exact hr3), hn, blockLoop_succ hc,
    if_pos ⟨by omega, hs⟩]

/-- Settles O34: the loop is the iteration of one word's move, cut after the first word by an interrupt. -/
theorem blockMoveInstructions : Obligations.BlockMoveInstructions := by
  unfold Obligations.BlockMoveInstructions
  refine ⟨fun s hc he hs => ⟨fun h => ⟨?_, ?_⟩, fun p q h0 h hp hq => ⟨?_, ?_⟩⟩, fun s hc hs h2 h3 h1 h => ⟨?_, ?_⟩⟩
  · exact runExec_ok (blockMove_none h _)
  · exact runExec_ok (blockMove_none h _)
  · exact runExec_ok (blockMove_calm hc he hs h0 h hp hq _)
  · exact runExec_ok (blockMove_calm hc he hs h0 h hp hq _)
  · exact runExec_trap (blockMove_suspended hc hs h2 h3 h1 h _)
  · exact runExec_trap (blockMove_suspended hc hs h2 h3 h1 h _)

/-! ### LOAD MAP (46_map.md R306, R330) -/

/-- A word loaded into the MAP leaves user mode and a pending MAP SINGLE CYCLE alone. -/
structure KeepsModes (load : MapUnit → Word → MapUnit) : Prop where
  user : ∀ m v, (load m v).userEn = m.userEn
  single : ∀ m v, (load m v).singlePending = m.singlePending

theorem loadTranslation200_modes (m : MapUnit) (v : Word) : (m.loadTranslation200 v).userEn = m.userEn
    ∧ (m.loadTranslation200 v).singlePending = m.singlePending := by
  unfold MapUnit.loadTranslation200
  split <;> exact ⟨rfl, rfl⟩

theorem loadDevices200_modes (m : MapUnit) (v : Word) : (m.loadDevices200 v).userEn = m.userEn
    ∧ (m.loadDevices200 v).singlePending = m.singlePending := by
  unfold MapUnit.loadDevices200
  dsimp only
  split <;> exact ⟨rfl, rfl⟩

theorem loadStatus200_modes (m : MapUnit) (v : Word) : (m.loadStatus200 v).userEn = m.userEn
    ∧ (m.loadStatus200 v).singlePending = m.singlePending := by
  unfold MapUnit.loadStatus200
  dsimp only
  split <;> exact ⟨rfl, rfl⟩

theorem load200_modes (m : MapUnit) (v : Word) : (m.load200 v).userEn = m.userEn
    ∧ (m.load200 v).singlePending = m.singlePending := by
  unfold MapUnit.load200
  split
  · exact loadTranslation200_modes m v
  · split
    · exact loadDevices200_modes m v
    · exact loadStatus200_modes m v

theorem load230_modes (m : MapUnit) (v : Word) : (m.load230 v).userEn = m.userEn
    ∧ (m.load230 v).singlePending = m.singlePending := by
  unfold MapUnit.load230
  dsimp only
  split <;> exact ⟨rfl, rfl⟩

theorem keepsModes_load200 : KeepsModes MapUnit.load200 :=
  ⟨fun m v => (load200_modes m v).1, fun m v => (load200_modes m v).2⟩

theorem keepsModes_load230 : KeepsModes MapUnit.load230 :=
  ⟨fun m v => (load230_modes m v).1, fun m v => (load230_modes m v).2⟩

/-- What keeps an interrupt from being honoured, the pending user enable aside. -/
def suspendable (s : State) : Bool :=
  s.run && s.ion && (s.sycHold == .idle && s.userHold == .idle && !s.map.singlePending) && s.intReq && !s.console.stopPending

theorem canSuspend_of_suspendable {s : State} (h : suspendable s = false) : s.canSuspend = false := by
  rw [Bool.eq_false_iff] at h ⊢
  intro hc
  apply h
  simp only [State.canSuspend, State.holdsOpen, suspendable, Bool.and_eq_true] at hc ⊢
  obtain ⟨⟨⟨⟨hrun, hion⟩, ⟨⟨hsyc, huser⟩, -⟩, hsingle⟩, hreq⟩, hstop⟩ := hc
  exact ⟨⟨⟨⟨hrun, hion⟩, ⟨hsyc, huser⟩, hsingle⟩, hreq⟩, hstop⟩

theorem suspendable_of_canSuspend {s : State} (he : s.map.enablePending = none) (h : s.canSuspend = false) :
    suspendable s = false := by
  rw [Bool.eq_false_iff] at h ⊢
  intro hc
  apply h
  simp only [State.canSuspend, State.holdsOpen, suspendable, Bool.and_eq_true] at hc ⊢
  obtain ⟨⟨⟨⟨hrun, hion⟩, ⟨hsyc, huser⟩, hsingle⟩, hreq⟩, hstop⟩ := hc
  exact ⟨⟨⟨⟨hrun, hion⟩, ⟨⟨hsyc, huser⟩, by rw [he]; rfl⟩, hsingle⟩, hreq⟩, hstop⟩

section Load

variable {load : MapUnit → Word → MapUnit}

theorem loadedWord_calm (hl : KeepsModes load) {s : State} (hc : s.calm = true) : (s.loadedWord load).calm = true := by
  rw [State.calm_iff] at hc ⊢
  refine ⟨hc.1, ?_⟩
  have hu : (s.loadedWord load).userMode = (s.hasMap && (load s.map (s.look (addrOf s.ac2) + s.ac0)).userEn) := rfl
  rw [hu, hl.user]
  exact hc.2

theorem suspendable_loadedWord (hl : KeepsModes load) (s : State) : suspendable (s.loadedWord load) = suspendable s := by
  have h : suspendable (s.loadedWord load) = (s.run && s.ion && (s.sycHold == .idle && s.userHold == .idle &&
      !(load s.map (s.look (addrOf s.ac2) + s.ac0)).singlePending) && s.intReq && !s.console.stopPending) := rfl
  rw [h, hl.single]
  rfl

/-- One word of a LOAD MAP, and what follows it. -/
theorem lmpLoop_succ {s : State} (hc : s.calm = true) (n : Nat) : lmpLoop load (n + 1) s =
    if n ≠ 0 ∧ (s.loadedWord load).canSuspend = true then .error .trap ((s.loadedWord load).setIonDelay .idle)
      else lmpLoop load n (s.loadedWord load) := by
  have hstep : (s.setMap (load s.map (s.look (addrOf s.ac2) + s.ac0))).lmpStep = s.loadedWord load := rfl
  simp only [lmpLoop, Exec.bind_apply, Exec.get_apply, memRead_calm hc, modifyMap, Exec.modify_apply, hstep, Exec.ite_apply]
  split
  · rfl
  · rfl

theorem lmpLoop_calm (hl : KeepsModes load) (n : Nat) : ∀ s : State, s.calm = true → suspendable s = false →
    lmpLoop load n s = .ok () ((State.loadedWord load)^[n] s) := by
  induction n with
  | zero => exact fun s _ _ => rfl
  | succ n ih =>
    intro s hc hs
    have hnext := (suspendable_loadedWord hl s).trans hs
    rw [lmpLoop_succ hc, if_neg (fun h => by rw [canSuspend_of_suspendable hnext] at h; cases h.2), ih _ (loadedWord_calm hl hc) hnext]
    rfl

/-- LOAD MAP of a number of words after the guards of both variants. -/
def loadWords (load : MapUnit → Word → MapUnit) (n : Nat) : Exec Unit := do
  resolveAcAddr .a2
  lmpLoop load n
  advance 1

theorem loadedWord_pc (s : State) : (s.loadedWord load).pc = s.pc := rfl

theorem loadWords_calm (hl : KeepsModes load) {s : State} (hc : s.calm = true) (he : s.map.enablePending = none)
    (hs : s.canSuspend = false) {p : Addr}
    (hp : if s.ac2.msb then s.follow 32768 (s.ac2.setWidth 15) = some p else s.ac2 = 0#1 ++ p) (n : Nat) :
    loadWords load n s = .ok () (((State.loadedWord load)^[n] (s.setAc2 (0#1 ++ p))).setPc (s.pc + 1)) := by
  have h2 : resolveAcAddr .a2 s = .ok () (s.setAc2 (0#1 ++ p)) := resolveAcAddr_calm (n := .a2) hc he hp
  have hsus : suspendable (s.setAc2 (0#1 ++ p)) = false := suspendable_of_canSuspend he hs
  simp only [loadWords, Exec.bind_apply, h2, lmpLoop_calm hl n (s.setAc2 (0#1 ++ p)) hc hsus, advance_apply,
    iterate_pc loadedWord_pc]
  rfl

theorem loadWords_suspended {s : State} (hc : s.calm = true) (h2 : s.ac2.msb = false) {n : Nat} (hn : 1 < n)
    (hs : (s.loadedWord load).canSuspend = true) :
    loadWords load n s = .error .trap ((s.loadedWord load).setIonDelay .idle) := by
  have hr : resolveAcAddr .a2 s = .ok () s := resolveAcAddr_direct ((isIndirect_eq_msb _).trans h2)
  obtain ⟨k, rfl⟩ : ∃ k, n = k + 1 := ⟨n - 1, by omega⟩
  simp only [loadWords, Exec.bind_apply, hr, lmpLoop_succ hc]
  rw [if_pos ⟨by omega, hs⟩]

end Load

theorem exec_lmp200_none {s : State} (h : s.lmpBarred = true ∨ blockCount s.ac1 = 0) :
    exec .lmp200 s = .next (s.setPc (s.pc + 1)) := by
  have hexec : exec .lmp200 s = execLmp200 s := rfl
  rw [hexec, execLmp200, if_pos h]
  rfl

theorem exec_lmp230_none {s : State} (h : s.lmpBarred = true ∨ s.ac1 = 0) : exec .lmp230 s = .next (s.setPc (s.pc + 1)) := by
  have hexec : exec .lmp230 s = execLmp230 s := rfl
  rw [hexec, execLmp230, if_pos h]
  rfl

theorem lmpBarred_of_calm {s : State} (hc : s.calm = true) : s.lmpBarred = false := by
  rw [State.lmpBarred, ((State.calm_iff s).1 hc).2, Bool.false_and]

theorem exec_lmp200_some {s : State} (hc : s.calm = true) (h0 : 0 < s.ac1.toNat) (h : s.ac1.toNat ≤ 32768) :
    exec .lmp200 s = runExec (loadWords MapUnit.load200 s.ac1.toNat) s := by
  have hexec : exec .lmp200 s = execLmp200 s := rfl
  have hcount : blockCount s.ac1 = s.ac1.toNat := blockCount_pos h
  rw [hexec, execLmp200, if_neg (by rw [lmpBarred_of_calm hc, hcount]; simp; omega), hcount]
  rfl

theorem exec_lmp230_some {s : State} (hc : s.calm = true) (h0 : 0 < s.ac1.toNat) :
    exec .lmp230 s = runExec (loadWords MapUnit.load230 s.ac1.toNat) s := by
  have hexec : exec .lmp230 s = execLmp230 s := rfl
  have hne : ¬s.ac1 = 0 := fun hz => by
    rw [hz] at h0
    exact absurd h0 (by decide)
  rw [hexec, execLmp230, if_neg (by rw [lmpBarred_of_calm hc]; exact not_or.2 ⟨Bool.false_ne_true, hne⟩)]
  rfl

/-- Settles O58: the loop is the iteration of one word's load, which leaves the modes alone. -/
theorem loadMap : Obligations.LoadMap := by
  unfold Obligations.LoadMap
  intro s
  refine ⟨fun hu hi => ?_, fun h => exec_lmp200_none (.inr (blockCount_zero h)), fun h => exec_lmp230_none (.inr h),
    fun p hc he hs h0 hp => ⟨fun h => ?_, ?_⟩, fun hc h2 h1 => ⟨fun h hs => ?_, fun hs => ?_⟩⟩
  · have hb : s.lmpBarred = true := by rw [State.lmpBarred, hu, hi]; rfl
    exact ⟨exec_lmp200_none (.inl hb), exec_lmp230_none (.inl hb)⟩
  · exact (exec_lmp200_some hc h0 h).trans (runExec_ok (loadWords_calm keepsModes_load200 hc he hs hp _))
  · exact (exec_lmp230_some hc h0).trans (runExec_ok (loadWords_calm keepsModes_load230 hc he hs hp _))
  · exact (exec_lmp200_some hc (by omega) h).trans (runExec_trap (loadWords_suspended hc h2 h1 hs))
  · exact (exec_lmp230_some hc (by omega)).trans (runExec_trap (loadWords_suspended hc h2 h1 hs))

/-! ### One character of a string (48_commercial.md R446, R447) -/

theorem sgnWord_of_msb {w : Word} (h : w.msb = true) : sgnWord w = -1 := by
  have h0 : w ≠ 0 := fun hz => by
    rw [hz] at h
    cases h
  rw [sgnWord, if_neg h0, if_pos h]
  rfl

theorem sgnWord_of_pos {w : Word} (h0 : w ≠ 0) (h : w.msb = false) : sgnWord w = 1 := by
  rw [sgnWord, if_neg h0, if_neg (by simp [h])]

theorem sub_neg_one (w : Word) : w - -1 = w + 1 := by bv_omega

theorem add_neg_one (w : Word) : w + -1 = w - 1 := by bv_omega

theorem nextSource_eq (s : State) : s.nextSource = s.pastSource := by
  rw [State.nextSource, State.pastSource]
  by_cases h0 : s.ac1 = 0
  · have hadd : s.ac3 + 0 = s.ac3 := BitVec.add_zero _
    have hsub : s.ac1 - 0 = s.ac1 := BitVec.sub_zero _
    have hsgn : sgnWord s.ac1 = 0 := by rw [h0]; rfl
    rw [if_pos h0, hsgn, hadd, hsub]
    rfl
  · rw [if_neg h0]
    cases hm : s.ac1.msb with
    | true => rw [sgnWord_of_msb hm, if_pos rfl, sub_neg_one, add_neg_one]
    | false => rw [sgnWord_of_pos h0 hm, if_neg (by simp)]

theorem nextTarget_eq (s : State) : s.nextTarget = s.pastTarget := by
  rw [State.nextTarget, State.pastTarget]
  by_cases h0 : s.ac0 = 0
  · have hadd : s.ac2 + 0 = s.ac2 := BitVec.add_zero _
    have hsub : s.ac0 - 0 = s.ac0 := BitVec.sub_zero _
    have hsgn : sgnWord s.ac0 = 0 := by rw [h0]; rfl
    rw [if_pos h0, hsgn, hadd, hsub]
    rfl
  · rw [if_neg h0]
    cases hm : s.ac0.msb with
    | true => rw [sgnWord_of_msb hm, if_pos rfl, sub_neg_one, add_neg_one]
    | false => rw [sgnWord_of_pos h0 hm, if_neg (by simp)]

theorem pastSource_calm (s : State) : s.pastSource.calm = s.calm := by
  unfold State.pastSource
  split
  · rfl
  · split <;> rfl

theorem pastTarget_calm (s : State) : s.pastTarget.calm = s.calm := by
  unfold State.pastTarget
  split
  · rfl
  · split <;> rfl

theorem pastSource_ac2 (s : State) : s.pastSource.ac2 = s.ac2 := by
  unfold State.pastSource
  split
  · rfl
  · split <;> rfl

theorem pastSource_pc (s : State) : s.pastSource.pc = s.pc := by
  unfold State.pastSource
  split
  · rfl
  · split <;> rfl

theorem pastTarget_pc (s : State) : s.pastTarget.pc = s.pc := by
  unfold State.pastTarget
  split
  · rfl
  · split <;> rfl

theorem putByte_pc (s : State) (p : Word) (b : Byte) : (s.putByte p b).pc = s.pc := by
  simp [State.putByte]

theorem sourceByte_calm {s : State} (hc : s.calm = true) : sourceByte s = .ok s.sourceChar s := by
  simp only [sourceByte, Exec.bind_apply, Exec.get_apply, State.sourceChar]
  by_cases h : s.ac1 = 0
  · rw [if_pos h, if_pos h]
    rfl
  · rw [if_neg h, if_neg h]
    exact byteRead_calm hc _

theorem targetByte_calm {s : State} (hc : s.calm = true) : targetByte s = .ok s.targetChar s := by
  simp only [targetByte, Exec.bind_apply, Exec.get_apply, State.targetChar]
  by_cases h : s.ac0 = 0
  · rw [if_pos h, if_pos h]
    rfl
  · rw [if_neg h, if_neg h]
    exact byteRead_calm hc _

/-- The loops' steps keep calm and PC. -/
structure StringStep (g : State → State) : Prop where
  calm : ∀ s, s.calm = true → (g s).calm = true
  pc : ∀ s, (g s).pc = s.pc

theorem StringStep.iterate_calm {g : State → State} (hg : StringStep g) (n : Nat) :
    ∀ s : State, s.calm = true → (g^[n] s).calm = true := by
  induction n with
  | zero => exact fun s hc => hc
  | succ n ih => exact fun s hc => ih (g s) (hg.calm s hc)

theorem stringStep_movedChar : StringStep State.movedChar where
  calm s hc := by
    rw [State.movedChar, pastTarget_calm, State.putByte_calm, pastSource_calm]
    exact hc
  pc s := by rw [State.movedChar, pastTarget_pc, putByte_pc, pastSource_pc]

theorem stringStep_pastPair : StringStep State.pastPair where
  calm s hc := by
    rw [State.pastPair, pastTarget_calm, pastSource_calm]
    exact hc
  pc s := by rw [State.pastPair, pastTarget_pc, pastSource_pc]

theorem stringStep_translatedChar (tbl : Word) : StringStep (State.translatedChar tbl) where
  calm s hc := by
    simp only [State.translatedChar, State.setAc1_calm, State.setAc2_calm, State.setAc3_calm, State.putByte_calm]
    exact hc
  pc s := by simp only [State.translatedChar, State.setAc1_pc, State.setAc2_pc, State.setAc3_pc, putByte_pc]

theorem stringStep_pastEqual : StringStep State.pastEqual where
  calm _ hc := hc
  pc _ := rfl

theorem stringStep_movedUntil : StringStep State.movedUntil where
  calm s hc := by
    simp only [State.movedUntil, State.setAc1_calm, State.setAc2_calm, State.setAc3_calm, State.putByte_calm]
    exact hc
  pc s := by simp only [State.movedUntil, State.setAc1_pc, State.setAc2_pc, State.setAc3_pc, putByte_pc]

/-! ### CMV and CMP -/

theorem moveLoop_succ {s : State} (hc : s.calm = true) (n : Nat) : moveLoop (n + 1) s = moveLoop n s.movedChar := by
  have hp : s.pastSource.calm = true := (pastSource_calm s).trans hc
  simp only [moveLoop, Exec.bind_apply, sourceByte_calm hc, Exec.modify_apply, nextSource_eq, Exec.get_apply, byteWrite_calm hp,
    nextTarget_eq, pastSource_ac2]
  rfl

theorem moveLoop_calm (n : Nat) : ∀ s : State, s.calm = true → moveLoop n s = .ok () (State.movedChar^[n] s) := by
  induction n with
  | zero => exact fun s _ => rfl
  | succ n ih =>
    intro s hc
    rw [moveLoop_succ hc, ih _ (stringStep_movedChar.calm s hc)]
    rfl

theorem exec_cmv {s : State} (hc : s.calm = true) (heap : s.cfg.hasEap = true) : exec .cmv s =
    .next ((State.movedChar^[countOf s.ac0] (s.setCarry (decide (countOf s.ac0 < countOf s.ac1)))).setPc (s.pc + 1)) := by
  have hexec : exec .cmv s = execCmv s := rfl
  rw [hexec, execCmv]
  apply runExec_ok
  simp only [Exec.bind_apply, needsEap_ok heap, Exec.modify_apply,
    moveLoop_calm _ (s.setCarry (decide (countOf s.ac0 < countOf s.ac1))) hc, advance_apply, iterate_pc stringStep_movedChar.pc]
  rfl

theorem compareCode_eq_none {a b : Byte} (h : a = b) : compareCode a b = none := by
  rw [compareCode, h, if_neg (Nat.lt_irrefl _), if_neg (Nat.lt_irrefl _)]

theorem compareCode_lt {a b : Byte} (h : a.toNat < b.toNat) : compareCode a b = some 0o177777 := by
  rw [compareCode, if_pos h]

theorem compareCode_gt {a b : Byte} (h : b.toNat < a.toNat) : compareCode a b = some 1 := by
  rw [compareCode, if_neg (by omega), if_pos h]

theorem compareLoop_succ {s : State} (hc : s.calm = true) (n : Nat) : compareLoop (n + 1) s =
    match compareCode s.sourceChar s.targetChar with
    | some c => .ok c s
    | none => compareLoop n s.pastPair := by
  simp only [compareLoop, Exec.bind_apply, sourceByte_calm hc, targetByte_calm hc]
  cases compareCode s.sourceChar s.targetChar with
  | some c => rfl
  | none =>
    simp only [Exec.bind_apply, Exec.modify_apply, nextSource_eq, nextTarget_eq]
    rfl

/-- Equal characters are passed. -/
theorem compareLoop_add (k n : Nat) : ∀ s : State, s.calm = true →
    (∀ j, j < k → (State.pastPair^[j] s).sourceChar = (State.pastPair^[j] s).targetChar) →
    compareLoop (k + n) s = compareLoop n (State.pastPair^[k] s) := by
  induction k with
  | zero =>
    intro s _ _
    rw [Nat.zero_add]
    rfl
  | succ k ih =>
    intro s hc h
    have h0 : s.sourceChar = s.targetChar := h 0 (by omega)
    rw [show k + 1 + n = k + n + 1 by omega, compareLoop_succ hc, compareCode_eq_none h0]
    exact ih s.pastPair (stringStep_pastPair.calm s hc) fun j hj => h (j + 1) (by omega)

theorem exec_cmp {s t : State} (heap : s.cfg.hasEap = true) {c : Word}
    (h : compareLoop (max (countOf s.ac0) (countOf s.ac1)) s = .ok c t) : exec .cmp s = .next ((t.setAc1 c).setPc (t.pc + 1)) := by
  have hexec : exec .cmp s = execCmp s := rfl
  rw [hexec, execCmp]
  apply runExec_ok
  simp only [Exec.bind_apply, needsEap_ok heap, h, Exec.modify_apply, advance_apply, State.setAc1_pc]

/-! ### CTR (48_commercial.md R448) -/

theorem translateByte_calm {s : State} (hc : s.calm = true) (tbl : Word) (b : Byte) :
    translateByte tbl b s = .ok (s.translated tbl b) s :=
  byteRead_calm hc _

theorem translateMove_succ {s : State} (hc : s.calm = true) (tbl : Word) (n : Nat) :
    translateMove tbl (n + 1) s = translateMove tbl n (s.translatedChar tbl) := by
  simp only [translateMove, Exec.bind_apply, Exec.get_apply, byteRead_calm hc, translateByte_calm hc, byteWrite_calm hc,
    Exec.modify_apply, State.translatedChar, State.putByte, State.put_ac1, State.put_ac2, State.put_ac3]

theorem translateMove_calm (tbl : Word) (n : Nat) : ∀ s : State, s.calm = true →
    translateMove tbl n s = .ok () ((State.translatedChar tbl)^[n] s) := by
  induction n with
  | zero => exact fun s _ => rfl
  | succ n ih =>
    intro s hc
    rw [translateMove_succ hc, ih _ ((stringStep_translatedChar tbl).calm s hc)]
    rfl

/-- The translations of the next pair of characters. -/
def translatedPair (tbl : Word) (s : State) : Byte × Byte :=
  (s.translated tbl (s.lookByte s.ac3), s.translated tbl (s.lookByte s.ac2))

theorem translateCompare_succ {s : State} (hc : s.calm = true) (tbl : Word) (n : Nat) : translateCompare tbl (n + 1) s =
    match compareCode (translatedPair tbl s).1 (translatedPair tbl s).2 with
    | some c => .ok c s
    | none => translateCompare tbl n s.pastEqual := by
  simp only [translateCompare, Exec.bind_apply, Exec.get_apply, byteRead_calm hc, translateByte_calm hc, translatedPair]
  cases compareCode (s.translated tbl (s.lookByte s.ac3)) (s.translated tbl (s.lookByte s.ac2)) with
  | some c => rfl
  | none => rfl

theorem translateCompare_add (tbl : Word) (k n : Nat) : ∀ s : State, s.calm = true →
    (∀ j, j < k → (translatedPair tbl (State.pastEqual^[j] s)).1 = (translatedPair tbl (State.pastEqual^[j] s)).2) →
    translateCompare tbl (k + n) s = translateCompare tbl n (State.pastEqual^[k] s) := by
  induction k with
  | zero =>
    intro s _ _
    rw [Nat.zero_add]
    rfl
  | succ k ih =>
    intro s hc h
    have h0 : (translatedPair tbl s).1 = (translatedPair tbl s).2 := h 0 (by omega)
    rw [show k + 1 + n = k + n + 1 by omega, translateCompare_succ hc, compareCode_eq_none h0]
    exact ih s.pastEqual (stringStep_pastEqual.calm s hc) fun j hj => h (j + 1) (by omega)

theorem addrOf_wordOfAddr (p : Addr) : addrOf (wordOfAddr p) = p := by
  have hp := p.isLt
  apply BitVec.eq_of_toNat_eq
  rw [addrOf, fld_toNat, wordOfAddr, toNat_append_eq_add]
  simp
  omega

theorem exec_ctr_move {s t : State} (hc : s.calm = true) (heap : s.cfg.hasEap = true) {p : Addr}
    (hr : resolveAcAddr .a0 s = .ok () (s.setAc0 (wordOfAddr p))) (hm : s.ac1.msb = true)
    (h : translateMove (s.look p) (countOf s.ac1) (s.setAc0 (wordOfAddr p)) = .ok () t) : exec .ctr s = .next (t.setPc (t.pc + 1)) := by
  have hcs : (s.setAc0 (wordOfAddr p)).calm = true := hc
  have hexec : exec .ctr s = execCtr s := rfl
  rw [hexec, execCtr]
  apply runExec_ok
  simp only [Exec.bind_apply, needsEap_ok heap, hr, Exec.get_apply, State.setAc0_ac0, addrOf_wordOfAddr, memRead_calm hcs,
    State.setAc0_look, hm, if_true, h, advance_apply]

theorem exec_ctr_compare {s t : State} (hc : s.calm = true) (heap : s.cfg.hasEap = true) {p : Addr}
    (hr : resolveAcAddr .a0 s = .ok () (s.setAc0 (wordOfAddr p))) (hm : s.ac1.msb = false) {c : Word}
    (h : translateCompare (s.look p) (countOf s.ac1) (s.setAc0 (wordOfAddr p)) = .ok c t) :
    exec .ctr s = .next ((t.setAc1 c).setPc (t.pc + 1)) := by
  have hcs : (s.setAc0 (wordOfAddr p)).calm = true := hc
  have hexec : exec .ctr s = execCtr s := rfl
  rw [hexec, execCtr]
  apply runExec_ok
  simp only [Exec.bind_apply, needsEap_ok heap, hr, Exec.get_apply, State.setAc0_ac0, addrOf_wordOfAddr, memRead_calm hcs,
    State.setAc0_look, hm, Bool.false_eq_true, if_false, h, Exec.modify_apply, advance_apply, State.setAc1_pc]

/-! ### CMT (48_commercial.md R449) -/

/-- A count that is not used up: one character less remains. -/
theorem countOf_step {w : Word} {n : Nat} (h : countOf w = n + 1) :
    sgnWord w = (if w.msb then -1 else 1) ∧ countOf (w - if w.msb then -1 else 1) = n := by
  have h0 : w ≠ 0 := fun hz => by
    rw [hz] at h
    cases h
  unfold countOf at h ⊢
  have hi := BitVec.toInt_eq_msb_cond w
  have hlt := w.isLt
  cases hm : w.msb with
  | true =>
    refine ⟨sgnWord_of_msb hm, ?_⟩
    rw [hm, if_pos rfl] at hi
    rw [if_pos rfl, sub_neg_one]
    have hge : 32768 ≤ w.toNat := by simpa using BitVec.le_toNat_of_msb_true hm
    have hadd : (w + 1).toInt = w.toInt + 1 := by
      rw [BitVec.toInt_add, Int.bmod_def]
      have h1 : (1 : Word).toInt = 1 := rfl
      rw [h1, hi]
      omega
    omega
  | false =>
    refine ⟨sgnWord_of_pos h0 hm, ?_⟩
    rw [if_neg (by simp)]
    rw [hm, if_neg (by simp)] at hi
    have hsub : (w - 1).toInt = w.toInt - 1 := by
      have hge := BitVec.toNat_lt_of_msb_false hm
      rw [BitVec.toInt_sub, Int.bmod_def]
      have h1 : (1 : Word).toInt = 1 := rfl
      rw [h1, hi]
      omega
    omega

theorem moveUntil_succ {s : State} (hc : s.calm = true) (a : Addr) {n : Nat} (hn : countOf s.ac1 = n + 1) :
    moveUntil a (n + 1) s = if s.stopsAt a = true then .ok () s else moveUntil a n s.movedUntil := by
  obtain ⟨hsgn, -⟩ := countOf_step hn
  have hstop : tableBit a (s.lookByte s.ac3) s = .ok (s.stopsAt a) s := by
    simp only [tableBit, Exec.bind_apply, memRead_calm hc, Exec.pure_apply, State.stopsAt]
  simp only [moveUntil, Exec.bind_apply, Exec.get_apply, byteRead_calm hc, hstop, Exec.ite_apply, Exec.pure_apply,
    byteWrite_calm hc, Exec.modify_apply, State.nextSource, State.movedUntil, State.putByte, State.put_ac1, State.put_ac2,
    State.put_ac3, State.setAc2_ac1, State.setAc2_ac3, hsgn]

theorem moveUntil_zero (a : Addr) (s : State) : moveUntil a 0 s = .ok () s := rfl

theorem movedUntil_ac1 (s : State) : s.movedUntil.ac1 = s.ac1 - (if s.ac1.msb then -1 else 1) := rfl

/-- Characters are moved up to the first that the table marks. -/
theorem moveUntil_add (a : Addr) (k n : Nat) : ∀ s : State, s.calm = true → countOf s.ac1 = k + n →
    (∀ j, j < k → (State.movedUntil^[j] s).stopsAt a = false) →
    moveUntil a (k + n) s = moveUntil a n (State.movedUntil^[k] s) ∧ countOf (State.movedUntil^[k] s).ac1 = n := by
  induction k with
  | zero =>
    intro s _ hn _
    rw [Nat.zero_add] at hn ⊢
    exact ⟨rfl, hn⟩
  | succ k ih =>
    intro s hc hn h
    have hn' : countOf s.ac1 = k + n + 1 := by omega
    have hstop : s.stopsAt a = false := h 0 (by omega)
    rw [show k + 1 + n = k + n + 1 by omega, moveUntil_succ hc a hn', if_neg (by simp [hstop])]
    exact ih s.movedUntil (stringStep_movedUntil.calm s hc) ((congrArg countOf (movedUntil_ac1 s)).trans (countOf_step hn').2)
      fun j hj => h (j + 1) (by omega)

theorem exec_cmt {s t : State} (heap : s.cfg.hasEap = true) {p : Addr}
    (hr : resolveAcAddr .a0 s = .ok () (s.setAc0 (wordOfAddr p)))
    (h : moveUntil p (countOf s.ac1) (s.setAc0 (wordOfAddr p)) = .ok () t) : exec .cmt s = .next (t.setPc (t.pc + 1)) := by
  have hexec : exec .cmt s = execCmt s := rfl
  rw [hexec, execCmt]
  apply runExec_ok
  simp only [Exec.bind_apply, needsEap_ok heap, hr, Exec.get_apply, State.setAc0_ac0, addrOf_wordOfAddr, h, advance_apply]

/-! ### The six instructions -/

theorem cmp_clauses {s : State} (hc : s.calm = true) (heap : s.cfg.hasEap = true) {k : Nat} :
    let m := max s.ac1.toInt.natAbs s.ac0.toInt.natAbs
    let at' (n : Nat) : State := State.pastPair^[n] s
    let done (code : Word) : State := ((at' k).setAc1 code).setPc (s.pc + 1)
    let x := (at' k).sourceChar.toNat
    let y := (at' k).targetChar.toNat
    k ≤ m → (∀ j, j < k → (at' j).sourceChar = (at' j).targetChar) →
      (k = m → exec .cmp s = .next (done 0)) ∧ (k < m → x < y → exec .cmp s = .next (done 0o177777))
      ∧ (k < m → y < x → exec .cmp s = .next (done 1)) := by
  intro m at' done x y hk heq
  have hloop : compareLoop (max (countOf s.ac0) (countOf s.ac1)) s = compareLoop (m - k) (at' k) := by
    have hm : max (countOf s.ac0) (countOf s.ac1) = k + (m - k) := by
      have hmax : max (countOf s.ac0) (countOf s.ac1) = m := Nat.max_comm _ _
      omega
    rw [hm]
    exact compareLoop_add k (m - k) s hc heq
  have hck : (at' k).calm = true := stringStep_pastPair.iterate_calm k s hc
  have hpc : (at' k).pc = s.pc := iterate_pc stringStep_pastPair.pc k s
  have hdone : ∀ {c : Word}, compareLoop (m - k) (at' k) = .ok c (at' k) → exec .cmp s = .next (done c) := fun h => by
    rw [exec_cmp heap (hloop.trans h), hpc]
  have hstop : ∀ {c : Word}, k < m → compareCode (at' k).sourceChar (at' k).targetChar = some c →
      exec .cmp s = .next (done c) := fun hlt hcode => hdone (by
    rw [show m - k = m - k - 1 + 1 by omega, compareLoop_succ hck, hcode])
  refine ⟨fun hkm => hdone ?_, fun hlt hxy => hstop hlt (compareCode_lt hxy), fun hlt hxy => hstop hlt (compareCode_gt hxy)⟩
  rw [show m - k = 0 by omega]
  rfl

theorem ctr_clauses {s : State} (hc : s.calm = true) (heap : s.cfg.hasEap = true) {p : Addr} {k : Nat}
    (hr : resolveAcAddr .a0 s = .ok () (s.setAc0 (wordOfAddr p))) (hm : s.ac1.msb = false) :
    let t := s.setAc0 (wordOfAddr p)
    let n := s.ac1.toInt.natAbs
    let pair (j : Nat) : Byte × Byte := translatedPair (s.look p) (State.pastEqual^[j] t)
    let done (code : Word) : State := ((State.pastEqual^[k] t).setAc1 code).setPc (s.pc + 1)
    k ≤ n → (∀ j, j < k → (pair j).1 = (pair j).2) →
      (k = n → exec .ctr s = .next (done 0))
      ∧ (k < n → (pair k).1.toNat < (pair k).2.toNat → exec .ctr s = .next (done 0o177777))
      ∧ (k < n → (pair k).2.toNat < (pair k).1.toNat → exec .ctr s = .next (done 1)) := by
  intro t n pair done hk heq
  have hct : t.calm = true := (State.setAc0_calm _ _).trans hc
  have hloop : translateCompare (s.look p) (countOf s.ac1) t = translateCompare (s.look p) (n - k) (State.pastEqual^[k] t) := by
    have hn : countOf s.ac1 = k + (n - k) := (show k + (n - k) = n by omega).symm
    rw [hn]
    exact translateCompare_add (s.look p) k (n - k) t hct heq
  have hck : (State.pastEqual^[k] t).calm = true := stringStep_pastEqual.iterate_calm k t hct
  have hpc : (State.pastEqual^[k] t).pc = s.pc := iterate_pc stringStep_pastEqual.pc k t
  have hdone : ∀ {c : Word}, translateCompare (s.look p) (n - k) (State.pastEqual^[k] t) = .ok c (State.pastEqual^[k] t) →
      exec .ctr s = .next (done c) := fun h => by
    rw [exec_ctr_compare hc heap hr hm (hloop.trans h), hpc]
  have hstop : ∀ {c : Word}, k < n → compareCode (pair k).1 (pair k).2 = some c → exec .ctr s = .next (done c) :=
    fun hlt hcode => hdone (by
      rw [show n - k = n - k - 1 + 1 by omega, translateCompare_succ hck, hcode])
  refine ⟨fun hkn => hdone ?_, fun hlt hxy => hstop hlt (compareCode_lt hxy), fun hlt hxy => hstop hlt (compareCode_gt hxy)⟩
  rw [show n - k = 0 by omega]
  rfl

/-- The move of CMT ends at the first character that the table marks, or with the count. -/
theorem moveUntil_ends {t : State} (hc : t.calm = true) (p : Addr) {k : Nat} (hk : k ≤ countOf t.ac1)
    (hgo : ∀ j, j < k → (State.movedUntil^[j] t).stopsAt p = false)
    (hend : k = countOf t.ac1 ∨ (State.movedUntil^[k] t).stopsAt p = true) :
    moveUntil p (countOf t.ac1) t = .ok () (State.movedUntil^[k] t) := by
  have hn : countOf t.ac1 = k + (countOf t.ac1 - k) := by omega
  obtain ⟨hmove, hleft⟩ := moveUntil_add p k (countOf t.ac1 - k) t hc hn hgo
  rw [← hn] at hmove
  rw [hmove]
  by_cases hz : countOf t.ac1 - k = 0
  · rw [hz]
    exact moveUntil_zero p _
  · have hstop : (State.movedUntil^[k] t).stopsAt p = true := hend.resolve_left (by omega)
    have hsucc : countOf t.ac1 - k = countOf t.ac1 - k - 1 + 1 := by omega
    rw [hsucc] at hleft ⊢
    rw [moveUntil_succ (stringStep_movedUntil.iterate_calm k t hc) p hleft, if_pos hstop]

/-- Settles O46: the loops of CMV, CMP, CTR and CMT as iterations of one character's step. -/
theorem stringInstructions : Obligations.StringInstructions := by
  unfold Obligations.StringInstructions
  refine ⟨?_, ?_⟩
  · intro s k hc heap source target at' done x y
    exact ⟨exec_cmv hc heap, cmp_clauses hc heap⟩
  · intro s p k hc heap he hp t n tbl pair x y done copied
    have hr : resolveAcAddr .a0 s = .ok () (s.setAc0 (wordOfAddr p)) := resolveAcAddr_calm hc he hp
    have hct : t.calm = true := (State.setAc0_calm _ _).trans hc
    refine ⟨fun hm => ?_, fun hm hk heq => ctr_clauses hc heap hr hm hk heq, fun hk hgo hend => ?_⟩
    · rw [exec_ctr_move hc heap hr hm (translateMove_calm tbl n t hct), iterate_pc (stringStep_translatedChar tbl).pc n t]
      rfl
    · rw [exec_cmt heap hr (moveUntil_ends hct p hk hgo hend), iterate_pc stringStep_movedUntil.pc k t]
      rfl

end Sys2Proof.Proofs.Bytes
end

section
/-! SUPPORT. The floating point status, the shapes of the floating point instructions, what each of them does
(47_floating_point.md). -/

namespace Sys2Proof.Proofs.Float

open Sys2Proof Sys2Proof.Machine Sys2Proof.Proofs.FixedPoint Sys2Proof.Proofs.Invariant Sys2Proof.Proofs.Addresses
  Sys2Proof.Proofs.Flow

-- Theorems elaborated side by side each hold a thread's stack, and the memory limit is near.
set_option Elab.async false

/-! ### The status register, bit by bit (10_state.md R24) -/

theorem fpsrBit_raiseFpsr (r : BitVec 32) {i : Nat} (hi : i < 32) (v : Bool) (j : Nat) :
    fpsrBit (raiseFpsr r i v) j = (fpsrBit r j || (decide (j = i) && v)) := by
  unfold raiseFpsr
  cases v with
  | false => simp
  | true =>
    rw [if_pos rfl, fpsrBit_setFpsrBit r hi]
    by_cases hj : j = i <;> simp [hj]

theorem fpsrBit_fixAny (r : BitVec 32) {j : Nat} (hj : j ≠ 0) : fpsrBit (fixAny r) j = fpsrBit r j := by
  rw [fixAny, fpsrBit_setFpsrBit r (by omega), if_neg hj]

theorem fpsrBit_fixAny_zero (r : BitVec 32) : fpsrBit (fixAny r) 0 = fpsrError r := by
  rw [fixAny, fpsrBit_setFpsrBit r (by omega), if_pos rfl]

theorem fpsrBit_setZN (r : BitVec 32) (z n : Bool) (j : Nat) :
    fpsrBit (setZN r z n) j = if j = 7 then n else if j = 6 then z else fpsrBit r j := by
  rw [setZN, fpsrBit_setFpsrBit _ (by omega), fpsrBit_setFpsrBit _ (by omega)]

theorem setFppc_setWidth (r : BitVec 32) (pc : Addr) : (setFppc r pc).setWidth 15 = pc := by
  rw [setFppc]
  exact BitVec.setWidth_append_eq_right

/-- The status register that `State.floatResult` stores. -/
theorem floatResult_fpsr (s : State) (f : Acc) (r : FloatResult) :
    (s.floatResult f r).fpsr = setFppc (zeroNegative (raiseErrors s.fpsr r) r.value) s.pc := rfl

theorem fpsrBit_floatResult (s : State) (f : Acc) (r : FloatResult) {j : Nat} (hj : j < 17) :
    fpsrBit (s.floatResult f r).fpsr j =
      if j = 7 then r.value.msb && decide (fpMan r.value ≠ 0) else if j = 6 then decide (fpMan r.value = 0)
      else fpsrBit (raiseErrors s.fpsr r) j := by
  rw [floatResult_fpsr, fpsrBit_setFppc _ _ hj, zeroNegative, fpsrBit_setZN]
  rfl

theorem fpsrBit_raiseErrors (q : BitVec 32) (r : FloatResult) {j : Nat} (hj : j ≠ 0) :
    fpsrBit (raiseErrors q r) j =
      (((fpsrBit q j || (decide (j = 1) && r.ovf)) || (decide (j = 2) && r.unf)) || (decide (j = 4) && r.mof)) := by
  rw [raiseErrors, fpsrBit_fixAny _ hj, fpsrBit_raiseFpsr _ (by omega), fpsrBit_raiseFpsr _ (by omega),
    fpsrBit_raiseFpsr _ (by omega)]

theorem fpsrBit_raiseErrors_zero (q : BitVec 32) (r : FloatResult) :
    fpsrBit (raiseErrors q r) 0 = fpsrError (raiseErrors q r) := fpsr_fixAny _

/-- Settles O36, bit by bit. -/
theorem floatResultStatus : Obligations.FloatResultStatus := by
  unfold Obligations.FloatResultStatus
  refine ⟨?_, fun r => ⟨fpsrBit_fixAny_zero r, fun i hi => fpsrBit_fixAny r (by omega)⟩⟩
  intro s f r t old new
  have herr : ∀ {j : Nat}, j < 6 → j ≠ 0 → new j =
      (((old j || (decide (j = 1) && r.ovf)) || (decide (j = 2) && r.unf)) || (decide (j = 4) && r.mof)) := fun {j} hj h0 =>
    (fpsrBit_floatResult s f r (by omega)).trans (by
      rw [if_neg (by omega), if_neg (by omega)]
      exact fpsrBit_raiseErrors s.fpsr r h0)
  have hany : new 0 = (new 1 || new 2 || new 3 || new 4) := by
    have h0 : new 0 = fpsrError (raiseErrors s.fpsr r) :=
      (fpsrBit_floatResult s f r (by omega)).trans (fpsrBit_raiseErrors_zero s.fpsr r)
    have hk : ∀ j, j < 5 → new j = fpsrBit (raiseErrors s.fpsr r) j := fun j hj =>
      (fpsrBit_floatResult s f r (by omega)).trans (by rw [if_neg (by omega), if_neg (by omega)])
    rw [h0, hk 1 (by omega), hk 2 (by omega), hk 3 (by omega), hk 4 (by omega)]
    rfl
  refine ⟨rfl, ?_, ?_, ?_, ?_, hany, ?_, fpsrBit_floatResult s f r (by omega), fpsrBit_floatResult s f r (by omega),
    fun i h8 h16 => ?_, setFppc_setWidth _ _⟩
  · simpa using herr (j := 1) (by omega) (by omega)
  · simpa using herr (j := 2) (by omega) (by omega)
  · simpa using herr (j := 3) (by omega) (by omega)
  · simpa using herr (j := 4) (by omega) (by omega)
  · simpa using herr (j := 5) (by omega) (by omega)
  · have hbit := (fpsrBit_floatResult s f r (j := i) (by omega)).trans (by
      rw [if_neg (by omega), if_neg (by omega), fpsrBit_raiseErrors s.fpsr r (by omega)])
    rw [decide_eq_false (by omega : ¬ i = 1), decide_eq_false (by omega : ¬ i = 2), decide_eq_false (by omega : ¬ i = 4)] at hbit
    simp only [Bool.false_and, Bool.or_false] at hbit
    exact hbit

/-! ### The shapes of the instructions -/

theorem fpReady_pending {s : State} (h : s.fpReady = true) : s.fpTrapPending = false := by
  rw [State.fpReady, Bool.and_eq_true, Bool.not_eq_true'] at h
  exact h.2

@[simp] theorem floatResult_pc (s : State) (f : Acc) (r : FloatResult) : (s.floatResult f r).pc = s.pc := by
  rw [State.floatResult, State.setFpsr_pc, State.setFpac_pc]

@[simp] theorem markFppc_pc (s : State) : s.markFppc.pc = s.pc := rfl

@[simp] theorem divideResult_pc (s : State) (f : Acc) (b : Quad) (single : Bool) : (s.divideResult f b single).pc = s.pc := by
  rw [State.divideResult]
  split
  · rfl
  · exact floatResult_pc s f _

@[simp] theorem fixStatus_pc (s : State) (big : Bool) : (s.fixStatus big).pc = s.pc := rfl

/-- An instruction on registers only. -/
theorem floatInstr_modify {s : State} (h : s.fpReady = true) {g : State → State} (hpc : (g s).pc = s.pc) :
    runExec (floatInstr (do modify g; advance 1)) s = .next ((g s).setPc (s.pc + 1)) := by
  apply runExec_ok
  simp only [floatInstr_ready h, Exec.bind_apply, Exec.modify_apply, advance_apply, hpc]

theorem readableWords_iff (s : State) (a : Addr) (n : Nat) :
    s.readableWords a n = true ↔ ∀ k, k < n → s.readable (a + BitVec.ofNat 15 k) = true := by
  simp [State.readableWords]

theorem writableWords_iff (s : State) (a : Addr) (n : Nat) :
    s.writableWords a n = true ↔ ∀ k, k < n → s.writable (a + BitVec.ofNat 15 k) = true := by
  simp [State.writableWords]

theorem add_two_add_one (e : Addr) : e + 2 + 1 = e + 3 := by bv_omega

theorem add_zero_addr (e : Addr) : e + 0 = e := BitVec.add_zero _

theorem memRead2_quiet {u : State} (hq : u.quiet = true) {e : Addr} (hr : u.readable e = true) (hr1 : u.readable (e + 1) = true) :
    memRead2 e u = .ok (u.look e ++ u.look (e + 1)) u := by
  simp only [memRead2, Exec.bind_apply, memRead_quiet hq hr, memRead_quiet hq hr1, Exec.pure_apply]

theorem memRead2_words {u : State} (hq : u.quiet = true) {e : Addr} (hr : u.readableWords e 2 = true) :
    memRead2 e u = .ok (u.look e ++ u.look (e + 1)) u := by
  rw [readableWords_iff] at hr
  have h0 : u.readable (e + 0) = true := hr 0 (by omega)
  rw [add_zero_addr] at h0
  exact memRead2_quiet hq h0 (hr 1 (by omega))

theorem readSingle_words {u : State} (hq : u.quiet = true) {e : Addr} (hr : u.readableWords e 2 = true) :
    readSingle e u = .ok (u.look (e + 0) ++ u.look (e + 1) ++ 0#32) u := by
  simp only [readSingle, Exec.bind_apply, memRead2_words hq hr, Exec.pure_apply, add_zero_addr]

theorem append_assoc_words (a b c d : Word) : (a ++ b) ++ (c ++ d) = a ++ b ++ c ++ d :=
  (BitVec.append_assoc (x₁ := a ++ b) (x₂ := c) (x₃ := d)).symm

theorem memRead4_words {u : State} (hq : u.quiet = true) {e : Addr} (hr : u.readableWords e 4 = true) :
    memRead4 e u = .ok (u.look (e + 0) ++ u.look (e + 1) ++ u.look (e + 2) ++ u.look (e + 3)) u := by
  rw [readableWords_iff] at hr
  have h0 : u.readable (e + 0) = true := hr 0 (by omega)
  rw [add_zero_addr] at h0
  have h2 : u.readable (e + 2) = true := hr 2 (by omega)
  have h3 : u.readable (e + 2 + 1) = true := by
    rw [add_two_add_one]
    exact hr 3 (by omega)
  simp only [memRead4, Exec.bind_apply, memRead2_quiet hq h0 (hr 1 (by omega)), memRead2_quiet hq h2 h3,
    Exec.pure_apply, add_zero_addr, add_two_add_one, append_assoc_words]

theorem memWrite2_quiet {u : State} (hq : u.quiet = true) {e : Addr} (hw : u.writable e = true) (hw1 : u.writable (e + 1) = true)
    (v : BitVec 32) : memWrite2 e v u = .ok () ((u.put e (v.extractLsb' 16 16)).put (e + 1) (v.extractLsb' 0 16)) := by
  have hq1 : (u.put e (v.extractLsb' 16 16)).quiet = true := (State.put_quiet u e _).trans hq
  have hw2 : (u.put e (v.extractLsb' 16 16)).writable (e + 1) = true := (State.put_writable u e _ _).trans hw1
  simp only [memWrite2, Exec.bind_apply, memWrite_quiet hq hw, memWrite_quiet hq1 hw2]

theorem memWrite2_words {u : State} (hq : u.quiet = true) {e : Addr} (hw : u.writableWords e 2 = true) (v : BitVec 32) :
    memWrite2 e v u = .ok () ((u.put e (v.extractLsb' 16 16)).put (e + 1) (v.extractLsb' 0 16)) := by
  rw [writableWords_iff] at hw
  have h0 : u.writable (e + 0) = true := hw 0 (by omega)
  rw [add_zero_addr] at h0
  exact memWrite2_quiet hq h0 (hw 1 (by omega)) v

/-- The four words of a double precision number. -/
def storedQuad (u : State) (e : Addr) (v : Quad) : State :=
  (((u.put e (v.extractLsb' 48 16)).put (e + 1) (v.extractLsb' 32 16)).put (e + 2) (v.extractLsb' 16 16)).put (e + 3)
    (v.extractLsb' 0 16)

/-- A part of a part of a number. -/
theorem extract_extract (v : Quad) {a b : Nat} (hb : b + 16 ≤ 32) :
    (v.extractLsb' a 32).extractLsb' b 16 = v.extractLsb' (a + b) 16 := by
  apply BitVec.eq_of_getLsbD_eq
  intro i hi
  simp [hi, show b + i < 32 by omega, Nat.add_assoc]

theorem memWrite4_words {u : State} (hq : u.quiet = true) {e : Addr} (hw : u.writableWords e 4 = true) (v : Quad) :
    memWrite4 e v u = .ok () (storedQuad u e v) := by
  rw [writableWords_iff] at hw
  have h0 : u.writable (e + 0) = true := hw 0 (by omega)
  rw [add_zero_addr] at h0
  have h3 : u.writable (e + 2 + 1) = true := by
    rw [add_two_add_one]
    exact hw 3 (by omega)
  have h2 : u.writable (e + 2) = true := hw 2 (by omega)
  have hq2 : ((u.put e ((v.extractLsb' 32 32).extractLsb' 16 16)).put (e + 1) ((v.extractLsb' 32 32).extractLsb' 0 16)).quiet = true := by
    rw [State.put_quiet, State.put_quiet, hq]
  simp only [memWrite4, Exec.bind_apply, memWrite2_quiet hq h0 (hw 1 (by omega))]
  rw [memWrite2_quiet hq2 (by rw [State.put_writable, State.put_writable, h2]) (by rw [State.put_writable, State.put_writable, h3]),
    extract_extract v (by omega), extract_extract v (by omega), extract_extract v (by omega), extract_extract v (by omega),
    add_two_add_one]
  rfl

section
variable {s u : State} {m : ExtMem} {e : Addr} (h : s.fpReady = true) (hx : eaExt m s = .ok e u) (hq : u.quiet = true)
include h hx hq

/-- An instruction that reads a single precision operand. -/
theorem floatInstr_readSingle (hr : u.readableWords e 2 = true) {g : Quad → State → State} (hpc : ∀ v t, (g v t).pc = t.pc) :
    runExec (floatInstr (do let e ← eaExt m; let v ← readSingle e; modify (g v); advance 2)) s =
      .next ((g (u.look (e + 0) ++ u.look (e + 1) ++ 0#32) u).setPc (s.pc + 2)) := by
  apply runExec_ok
  simp only [floatInstr_ready h, Exec.bind_apply, hx, readSingle_words hq hr, Exec.modify_apply, advance_apply, hpc,
    (addressed_ext hx).pc]

/-- An instruction that reads two words. -/
theorem floatInstr_read2 (hr : u.readableWords e 2 = true) {g : BitVec 32 → State → State} (hpc : ∀ v t, (g v t).pc = t.pc) :
    runExec (floatInstr (do let e ← eaExt m; let v ← memRead2 e; modify (g v); advance 2)) s =
      .next ((g (u.look e ++ u.look (e + 1)) u).setPc (s.pc + 2)) := by
  apply runExec_ok
  simp only [floatInstr_ready h, Exec.bind_apply, hx, memRead2_words hq hr, Exec.modify_apply, advance_apply, hpc,
    (addressed_ext hx).pc]

/-- An instruction that reads a double precision operand. -/
theorem floatInstr_read4 (hr : u.readableWords e 4 = true) {g : Quad → State → State} (hpc : ∀ v t, (g v t).pc = t.pc) :
    runExec (floatInstr (do let e ← eaExt m; let v ← memRead4 e; modify (g v); advance 2)) s =
      .next ((g (u.look (e + 0) ++ u.look (e + 1) ++ u.look (e + 2) ++ u.look (e + 3)) u).setPc (s.pc + 2)) := by
  apply runExec_ok
  simp only [floatInstr_ready h, Exec.bind_apply, hx, memRead4_words hq hr, Exec.modify_apply, advance_apply, hpc,
    (addressed_ext hx).pc]

end

/-! ### Loads, stores and moves (47_floating_point.md section 2) -/

theorem markFppc_of {s t : State} (hf : t.fpsr = s.fpsr) (hpc : t.pc = s.pc) :
    t.markFppc = t.setFpsr (s.fpsr.extractLsb' 15 17 ++ s.pc) := by
  rw [State.markFppc, setFppc, hf, hpc]

theorem extract_fixAny_low (r : BitVec 32) : (fixAny r).extractLsb' 0 16 = r.extractLsb' 0 16 := by
  ext i hi
  have hb := fpsrBit_fixAny r (j := 31 - i) (by omega)
  rw [fpsrBit, fpsrBit, BitVec.getMsbD, BitVec.getMsbD, show 32 - 1 - (31 - i) = i by omega, decide_eq_true (by omega)] at hb
  simpa using hb

section
variable {s u : State} {x : ExtMem} {e : Addr} (h : s.fpReady = true) (hx : eaExt x s = .ok e u) (hq : u.quiet = true)
include h hx hq

theorem exec_fsts (f : Acc) (hw : u.writableWords e 2 = true) :
    let v := s.fpac f
    let t := (u.put e (v.extractLsb' 48 16)).put (e + 1) (v.extractLsb' 32 16)
    exec (.fsts f x) s = .next ((t.setFpsr (s.fpsr.extractLsb' 15 17 ++ s.pc)).setPc (s.pc + 2)) := by
  intro v t
  have hfp : t.fpsr = s.fpsr := by rw [State.put_fpsr, State.put_fpsr, (addressed_ext hx).fpsr]
  have hpc : t.pc = s.pc := by rw [State.put_pc, State.put_pc, (addressed_ext hx).pc]
  have hexec : exec (.fsts f x) s = execFsts f x s := rfl
  rw [hexec, execFsts]
  apply runExec_ok
  simp only [floatInstr_ready h, Exec.bind_apply, hx, memWrite2_words hq hw, extract_extract _ (a := 32) (b := 16) (by omega),
    extract_extract _ (a := 32) (b := 0) (by omega), Exec.modify_apply, advance_apply,
    markFppc_pc]
  rw [markFppc_of hfp hpc, hpc]

theorem exec_fstd (f : Acc) (hw : u.writableWords e 4 = true) :
    exec (.fstd f x) s = .next (((storedQuad u e (s.fpac f)).setFpsr (s.fpsr.extractLsb' 15 17 ++ s.pc)).setPc (s.pc + 2)) := by
  have hfp : (storedQuad u e (s.fpac f)).fpsr = s.fpsr := by
    simp only [storedQuad, State.put_fpsr, (addressed_ext hx).fpsr]
  have hpc : (storedQuad u e (s.fpac f)).pc = s.pc := by simp only [storedQuad, State.put_pc, (addressed_ext hx).pc]
  have hexec : exec (.fstd f x) s = execFstd f x s := rfl
  rw [hexec, execFstd]
  apply runExec_ok
  simp only [floatInstr_ready h, Exec.bind_apply, hx, memWrite4_words hq hw, Exec.modify_apply, advance_apply, markFppc_pc]
  rw [markFppc_of hfp hpc, hpc]

theorem exec_fsst (hw : u.writableWords e 2 = true) :
    let p := (u.put e ((fixAny s.fpsr).extractLsb' 16 16)).put (e + 1) (s.fpsr.extractLsb' 0 16)
    exec (.fsst x) s = .next (p.setPc (s.pc + 2)) := by
  intro p
  have hexec : exec (.fsst x) s = execFsst x s := rfl
  rw [hexec, execFsst]
  apply runExec_ok
  simp only [floatInstr_ready h, Exec.bind_apply, hx, memWrite2_words hq hw, advance_apply, State.put_pc, (addressed_ext hx).pc,
    extract_fixAny_low]
  rfl

end

/-- Settles O37: the words of the operand, then the result. -/
theorem floatLoadsAndStores : Obligations.FloatLoadsAndStores := by
  unfold Obligations.FloatLoadsAndStores
  intro s u f g x e h
  refine ⟨floatInstr_modify h (floatResult_pc s f _), ?_⟩
  intro hx hq w v
  refine ⟨fun hr => ⟨?_, ?_⟩, fun hr => ?_, fun hw => ⟨exec_fsts h hx hq f hw, exec_fsst h hx hq hw⟩,
    fun hw => exec_fstd h hx hq f hw⟩
  · exact floatInstr_readSingle h hx hq hr (g := fun v t => t.floatResult f (.clean v)) fun _ t => floatResult_pc t f _
  · have hflst := floatInstr_read2 h hx hq hr (g := fun v t => t.setFpsr (loadFpsr v)) fun _ _ => rfl
    have hw0 : w 0 = u.look e := congrArg u.look (add_zero_addr e)
    rw [hw0]
    exact hflst
  · exact floatInstr_read4 h hx hq hr (g := fun v t => t.floatResult f (.clean v)) fun _ t => floatResult_pc t f _

/-! ### The parts of a number (R350) -/

theorem fpSign_eq_msb (x : Quad) : fpSign x = x.msb := rfl

theorem fpMan_eq (x : Quad) : fpMan x = x.toNat % 2 ^ 56 := by
  rw [fpMan, BitVec.extractLsb'_toNat, Nat.shiftRight_zero]

theorem fpExp_eq (x : Quad) : fpExp x = x.toNat / 2 ^ 56 % 128 := by
  rw [fpExp, BitVec.extractLsb'_toNat, Nat.shiftRight_eq_div_pow]

theorem fpMan_lt (x : Quad) : fpMan x < 2 ^ 56 := (x.extractLsb' 0 56).isLt

theorem fpExp_lt (x : Quad) : fpExp x < 128 := (x.extractLsb' 56 7).isLt

theorem low_eq_setWidth (x : Quad) : x.extractLsb' 0 56 = x.setWidth 56 := by
  apply BitVec.eq_of_toNat_eq
  rw [BitVec.extractLsb'_toNat, Nat.shiftRight_zero, BitVec.toNat_setWidth]

/-- A number as its sign bit and the rest. -/
theorem eq_sign_append (x : Quad) : x = bitOf x.msb ++ x.setWidth 63 := by
  apply BitVec.eq_of_getLsbD_eq
  intro i hi
  rw [BitVec.getLsbD_append, BitVec.getLsbD_setWidth]
  by_cases h63 : i < 63
  · simp [h63]
  · have h : i = 63 := by omega
    subst h
    have hm : x.getLsbD 63 = x.msb := rfl
    rw [hm]
    cases x.msb <;> rfl

theorem flipSign_eq (x : Quad) : flipSign x = bitOf (!x.msb) ++ (x.setWidth 63 : BitVec 63) := by
  apply BitVec.eq_of_getLsbD_eq
  intro i hi
  have hmask : (0x8000000000000000#64).getLsbD i = decide (i = 63) := by
    have htop : 0x8000000000000000#64 = BitVec.twoPow 64 63 := rfl
    rw [htop, BitVec.getLsbD_twoPow]
    simp [eq_comm]
  rw [flipSign, BitVec.getLsbD_xor, hmask, BitVec.getLsbD_append, BitVec.getLsbD_setWidth]
  by_cases h63 : i < 63
  · have hne : i ≠ 63 := by omega
    simp [h63, hne]
  · have h : i = 63 := by omega
    subst h
    have hm : x.getLsbD 63 = x.msb := rfl
    rw [hm]
    cases x.msb <;> rfl

theorem and_magnitude (x : Quad) : x &&& 0x7FFFFFFFFFFFFFFF#64 = 0#1 ++ (x.setWidth 63 : BitVec 63) := by
  apply BitVec.eq_of_toNat_eq
  have hmask : (0x7FFFFFFFFFFFFFFF#64).toNat = 2 ^ 63 - 1 := rfl
  rw [BitVec.toNat_and, hmask, Nat.and_two_pow_sub_one_eq_mod, toNat_append_eq_add, BitVec.toNat_setWidth]
  simp

theorem fpScaled_eq (x : Quad) : fpScaled x = if x.msb then -(fpMagnitude x : Int) else fpMagnitude x := by
  rw [fpScaled, fpMagnitude, fpSign_eq_msb]
  push_cast
  rfl

/-! ### Arithmetic instructions (47_floating_point.md section 4) -/

/-- What a divide stores, as an alternative of whole states. -/
theorem divideResult_setPc (u : State) (f : Acc) (b : Quad) (single : Bool) (p : Addr) : (u.divideResult f b single).setPc p =
    if fpMan b = 0 then (u.setFpsr (setFppc (fixAny (setFpsrBit u.fpsr 3 true)) u.pc)).setPc p
    else (u.floatResult f (floatDiv (u.fpac f) b single)).setPc p := by
  rw [State.divideResult]
  split <;> rfl

theorem exec_fcmp {s : State} (h : s.fpReady = true) (x y : Acc) : exec (.fcmp x y) s =
    .next ((s.setFpsr (setFppc (setZN s.fpsr (decide (fpScaled (s.fpac y) = fpScaled (s.fpac x)))
      (decide (fpScaled (s.fpac y) < fpScaled (s.fpac x)))) s.pc)).setPc (s.pc + 1)) := by
  have hexec : exec (.fcmp x y) s = execFcmp x y s := rfl
  have hcomm : decide (fpScaled (s.fpac y) = fpScaled (s.fpac x)) = decide (fpScaled (s.fpac x) = fpScaled (s.fpac y)) :=
    decide_eq_decide.2 eq_comm
  rw [hexec, execFcmp, hcomm]
  exact floatInstr_modify h rfl

section
variable {s u : State} {m : ExtMem} {e : Addr} (h : s.fpReady = true) (hx : eaExt m s = .ok e u) (hq : u.quiet = true)
include h hx hq

/-- An operation of an accumulator with a single precision number in memory. -/
theorem floatInstr_operateSingle (hr : u.readableWords e 2 = true) (y : Acc) (op : Quad → Quad → FloatResult) :
    runExec (floatInstr (do
      let e ← eaExt m; let b ← readSingle e; modify (fun t => t.floatResult y (op (t.fpac y) b)); advance 2)) s =
      .next ((u.floatResult y (op (s.fpac y) (u.look (e + 0) ++ u.look (e + 1) ++ 0#32))).setPc (s.pc + 2)) := by
  have hrun := floatInstr_readSingle h hx hq hr (g := fun b t => t.floatResult y (op (t.fpac y) b)) fun _ t => floatResult_pc t y _
  rw [(addressed_ext hx).fpac] at hrun
  exact hrun

/-- An operation of an accumulator with a double precision number in memory. -/
theorem floatInstr_operateDouble (hr : u.readableWords e 4 = true) (y : Acc) (op : Quad → Quad → FloatResult) :
    runExec (floatInstr (do
      let e ← eaExt m; let b ← memRead4 e; modify (fun t => t.floatResult y (op (t.fpac y) b)); advance 2)) s =
      .next ((u.floatResult y (op (s.fpac y) (u.look (e + 0) ++ u.look (e + 1) ++ u.look (e + 2) ++ u.look (e + 3)))).setPc
        (s.pc + 2)) := by
  have hrun := floatInstr_read4 h hx hq hr (g := fun b t => t.floatResult y (op (t.fpac y) b)) fun _ t => floatResult_pc t y _
  rw [(addressed_ext hx).fpac] at hrun
  exact hrun

omit h hq in
/-- The divide of an accumulator by a number from memory. -/
theorem divideResult_addressed (y : Acc) (b : Quad) (single : Bool) : (u.divideResult y b single).setPc (s.pc + 2) =
    if fpMan b = 0 then (u.setFpsr (setFppc (fixAny (setFpsrBit s.fpsr 3 true)) s.pc)).setPc (s.pc + 2)
    else (u.floatResult y (floatDiv (s.fpac y) b single)).setPc (s.pc + 2) := by
  rw [divideResult_setPc, (addressed_ext hx).fpac, (addressed_ext hx).fpsr, (addressed_ext hx).pc]

theorem exec_fdms (hr : u.readableWords e 2 = true) (y : Acc) :
    let b : Quad := u.look (e + 0) ++ u.look (e + 1) ++ 0#32
    exec (.fdms y m) s = .next (if fpMan b = 0 then (u.setFpsr (setFppc (fixAny (setFpsrBit s.fpsr 3 true)) s.pc)).setPc (s.pc + 2)
      else (u.floatResult y (floatDiv (s.fpac y) b true)).setPc (s.pc + 2)) := by
  intro b
  rw [← divideResult_addressed hx y b true]
  exact floatInstr_readSingle h hx hq hr (g := fun b t => t.divideResult y b true) fun b t => divideResult_pc t y b true

theorem exec_fdmd (hr : u.readableWords e 4 = true) (y : Acc) :
    let b : Quad := u.look (e + 0) ++ u.look (e + 1) ++ u.look (e + 2) ++ u.look (e + 3)
    exec (.fdmd y m) s = .next (if fpMan b = 0 then (u.setFpsr (setFppc (fixAny (setFpsrBit s.fpsr 3 true)) s.pc)).setPc (s.pc + 2)
      else (u.floatResult y (floatDiv (s.fpac y) b false)).setPc (s.pc + 2)) := by
  intro b
  rw [← divideResult_addressed hx y b false]
  exact floatInstr_read4 h hx hq hr (g := fun b t => t.divideResult y b false) fun b t => divideResult_pc t y b false

end

/-- Settles O38: each instruction stores the result of its procedure. -/
theorem floatArithmetic : Obligations.FloatArithmetic := by
  unfold Obligations.FloatArithmetic
  refine ⟨?_, ?_⟩
  · intro s x y h a b done divided va vb
    have hva : va = fpScaled a := (fpScaled_eq a).symm
    have hvb : vb = fpScaled b := (fpScaled_eq b).symm
    have hdone : ∀ r, (s.floatResult y r).pc = s.pc := floatResult_pc s y
    have hdiv : ∀ single, (s.divideResult y b single).setPc (s.pc + 1) = divided single := fun single =>
      divideResult_setPc s y b single _
    refine ⟨floatInstr_modify h (hdone _), floatInstr_modify h (hdone _), ?_, ?_, floatInstr_modify h (hdone _),
      floatInstr_modify h (hdone _), ?_, ?_, ?_⟩
    · rw [← flipSign_eq]
      exact floatInstr_modify h (hdone _)
    · rw [← flipSign_eq]
      exact floatInstr_modify h (hdone _)
    · rw [← hdiv]
      exact floatInstr_modify h (divideResult_pc s y b true)
    · rw [← hdiv]
      exact floatInstr_modify h (divideResult_pc s y b false)
    · rw [hva, hvb]
      exact exec_fcmp h x y
  · intro s u y x e h hx hq a w b1 b2 done divided
    refine ⟨fun hr => ⟨?_, ?_, ?_, exec_fdms h hx hq hr y⟩, fun hr => ⟨?_, ?_, ?_, exec_fdmd h hx hq hr y⟩⟩
    · exact floatInstr_operateSingle h hx hq hr y fun a b => floatAdd a b true
    · exact floatInstr_operateSingle h hx hq hr y fun a b => floatSub a b true
    · exact floatInstr_operateSingle h hx hq hr y fun a b => floatMul a b true
    · exact floatInstr_operateDouble h hx hq hr y fun a b => floatAdd a b false
    · exact floatInstr_operateDouble h hx hq hr y fun a b => floatSub a b false
    · exact floatInstr_operateDouble h hx hq hr y fun a b => floatMul a b false

/-! ### Conversions (section 3) -/

theorem fixAny_fixAny (r : BitVec 32) : fixAny (fixAny r) = fixAny r := by
  apply BitVec.eq_of_getMsbD_eq
  intro i hi
  by_cases h0 : i = 0
  · subst h0
    exact (fpsrBit_fixAny_zero (fixAny r)).trans (fpsr_fixAny r).symm
  · exact fpsrBit_fixAny (fixAny r) h0

theorem exec_ffmd {s u : State} {x : ExtMem} {e : Addr} (h : s.fpReady = true) (hx : eaExt x s = .ok e u) (hq : u.quiet = true)
    (f : Acc) (hw : u.writableWords e 2 = true) :
    let r : BitVec 32 := fixTo 31 (s.fpac f)
    exec (.ffmd f x) s = .next ((((u.put e (r.extractLsb' 16 16)).put (e + 1) (r.extractLsb' 0 16)).setFpsr
      (setFppc (setZN (fixAny (raiseFpsr s.fpsr 4 (fixOverflows 31 (s.fpac f)))) false false) s.pc)).setPc (s.pc + 2)) := by
  intro r
  have haddr := addressed_ext hx
  have hexec : exec (.ffmd f x) s = execFfmd f x s := rfl
  rw [hexec, execFfmd]
  apply runExec_ok
  have hstore := memWrite2_words (u := u.setFpsr (fixAny (raiseFpsr s.fpsr 4 (fixOverflows 31 (s.fpac f))))) hq hw r
  simp only [floatInstr_ready h, Exec.bind_apply, hx, Exec.modify_apply, haddr.fpac, haddr.fpsr]
  have hnone : ∀ q, raiseFpsr q 4 false = q := fun _ => rfl
  simp only [r] at hstore ⊢
  simp only [hstore, advance_apply, State.setFpsr_put, State.fixStatus, State.setFpsr_fpsr,
    State.setFpsr_pc, State.put_pc, haddr.pc, hnone, fixAny_fixAny]
  rfl

/-- Settles O41: the integer part of the number, in the width of the destination. -/
theorem floatConversions : Obligations.FloatConversions := by
  unfold Obligations.FloatConversions
  intro s u a f x e h v k i status
  refine ⟨floatInstr_modify h (floatResult_pc s f _), ?_, fun hx hq => ⟨fun hr => ?_, ?_⟩⟩
  · have hffas := floatInstr_modify h (g := fun t => (t.setAc a (fixTo 15 (t.fpac f))).fixStatus (fixOverflows 15 (t.fpac f)))
      (State.setAc_pc s a _)
    have hstatus : (s.setAc a (fixTo 15 v)).fixStatus (fixOverflows 15 v) =
        (s.setAc a (fixTo 15 v)).setFpsr (status (decide (32767 < k))) := by
      rw [State.fixStatus, State.setAc_fpsr, State.setAc_pc]
      rfl
    rw [hstatus] at hffas
    exact hffas
  · exact floatInstr_read2 h hx hq hr (g := fun v t => t.floatResult f (floatOfInt v.toInt false)) fun _ t => floatResult_pc t f _
  · intro hw r
    exact exec_ffmd h hx hq f hw

/-! ### Single operands (section 5) -/

theorem exponentField_toNat (w : Word) : (exponentField w).toNat = w.toNat / 256 % 128 := by
  exact fld_toNat w 1 7

theorem integerDigits_eq (x : Quad) : integerDigits x =
    if fpExp x ≤ 64 then 0 else fpMan x / 16 ^ (78 - fpExp x) * 16 ^ (78 - fpExp x) := by
  rw [integerDigits]
  by_cases h64 : fpExp x ≤ 64
  · rw [if_pos h64, if_pos h64]
  · rw [if_neg h64, if_neg h64]
    by_cases h14 : fpExp x - 64 < 14
    · rw [if_pos h14, show 14 - (fpExp x - 64) = 78 - fpExp x by omega]
    · rw [if_neg h14, show 78 - fpExp x = 0 by omega, Nat.pow_zero, Nat.div_one, Nat.mul_one]

theorem exec_fint {s : State} (h : s.fpReady = true) (heap : s.cfg.hasEap = true) (f : Acc) : exec (.fint f) s =
    .next ((s.floatResult f (finishNormalized (s.fpac f).msb (fpExp (s.fpac f)) (integerDigits (s.fpac f)) false)).setPc
      (s.pc + 1)) := by
  have hexec : exec (.fint f) s = execFint f s := rfl
  rw [hexec, execFint]
  apply runExec_ok
  simp only [Exec.bind_apply, needsEap_ok heap, fpIssue, Exec.get_apply, fpReady_pending h, Bool.false_eq_true, if_false,
    Exec.modify_apply, advance_apply, floatResult_pc]
  rfl

theorem exec_frh {s : State} (h : s.fpReady = true) (f : Acc) : exec (.frh f) s =
    .next (((s.setAc0 ((s.fpac f).extractLsb' 48 16)).setFpsr (s.fpsr.extractLsb' 15 17 ++ s.pc)).setPc (s.pc + 1)) :=
  floatInstr_modify h rfl

/-- Settles O43: the value that each instruction hands to the accumulator. -/
theorem floatSingleOperand : Obligations.FloatSingleOperand := by
  unfold Obligations.FloatSingleOperand
  intro s f h v done rest t scaled
  have ht : (exponentField s.ac0).toNat = t := exponentField_toNat s.ac0
  have hdone : ∀ r, (s.floatResult f r).pc = s.pc := floatResult_pc s f
  have hscal : exec (.fscal f) s = .next (done (scale v t)) := by
    rw [← ht]
    exact floatInstr_modify h (hdone _)
  refine ⟨floatInstr_modify h (hdone _), exec_frh h f, ?_, ?_, fun hte => ?_, fun hte => ?_, ?_, floatInstr_modify h (hdone _),
    fun heap => ?_⟩
  · rw [← and_magnitude]
    exact floatInstr_modify h (hdone _)
  · have hneg := floatInstr_modify h (g := fun t => t.floatResult f (.clean (if t.fpac f = 0 then t.fpac f else flipSign (t.fpac f))))
      (hdone _)
    have hv : (if s.fpac f = 0 then s.fpac f else flipSign (s.fpac f)) = if v = 0 then 0 else bitOf (!v.msb) ++ rest := by
      rw [flipSign_eq]
      split
      · next h0 => exact h0
      · rfl
    rw [hv] at hneg
    exact hneg
  · rw [hscal, scale, if_pos hte]
  · have hm : (if fpExp v < t then fpMan v / 16 ^ (t - fpExp v) else fpMan v * 16 ^ (fpExp v - t) % 2 ^ 56) = scaled := by
      by_cases hlt : fpExp v < t
      · rw [if_pos hlt]
        exact (if_pos (by omega)).symm
      · rw [if_neg hlt]
        exact (if_neg (by omega)).symm
    rw [hscal, scale, if_neg hte, hm]
    rfl
  · have hexp := floatInstr_modify h (g := fun t => t.floatResult f (.clean (if t.fpac f = 0 then t.fpac f
      else bitOf (fpSign (t.fpac f)) ++ exponentField t.ac0 ++ (t.fpac f).extractLsb' 0 56))) (hdone _)
    have hv : (if s.fpac f = 0 then s.fpac f
        else bitOf (fpSign (s.fpac f)) ++ exponentField s.ac0 ++ (s.fpac f).extractLsb' 0 56) =
        if v = 0 then 0 else bitOf v.msb ++ BitVec.ofNat 7 t ++ v.setWidth 56 := by
      have hfield : exponentField s.ac0 = BitVec.ofNat 7 t := by rw [← ht, BitVec.ofNat_toNat, BitVec.setWidth_eq]
      have hman : (s.fpac f).extractLsb' 0 56 = v.setWidth 56 := low_eq_setWidth v
      rw [hfield, hman]
      split
      · next h0 => exact h0
      · rfl
    rw [hv] at hexp
    exact hexp
  · rw [exec_fint h heap, integerDigits_eq]

/-! ### Skips, the status register, the state block (sections 6 and 7) -/

theorem runExec_floatSkip {s : State} (h : s.fpReady = true) (cond : BitVec 32 → Bool) :
    runExec (floatSkip cond) s = .next (s.setPc (s.pc + if cond s.fpsr then 2 else 1)) := by
  rw [floatSkip]
  apply runExec_ok
  simp only [floatInstr_ready h, Exec.bind_apply, Exec.get_apply, advanceSkip_apply]
  rfl

theorem setFpsrBit_five (r : BitVec 32) : setFpsrBit r 5 false = r &&& 0xFBFFFFFF := rfl

theorem floatSkips {s : State} (h : s.fpReady = true) :
    let z := s.fpsr.getMsbD 6
    let n := s.fpsr.getMsbD 7
    let ovf := s.fpsr.getMsbD 1
    let unf := s.fpsr.getMsbD 2
    let dvz := s.fpsr.getMsbD 3
    let mof := s.fpsr.getMsbD 4
    ∀ p ∈ [(Instr.fns, false), (.fsa, true), (.fseq, z), (.fsne, !z), (.fslt, n), (.fsge, !n), (.fsle, z || n),
        (.fsgt, !(z || n)), (.fsnm, !mof), (.fsnd, !dvz), (.fsnu, !unf), (.fsnud, !(unf || dvz)), (.fsno, !ovf),
        (.fsnod, !(ovf || dvz)), (.fsnuo, !(unf || ovf)), (.fsner, !(ovf || unf || dvz || mof))],
      exec p.1 s = .next (s.setPc (s.pc + if p.2 then 2 else 1)) := by
  intro z n ovf unf dvz mof
  simp only [List.forall_mem_cons, Bool.not_or]
  refine ⟨runExec_floatSkip h _, runExec_floatSkip h _, runExec_floatSkip h _, runExec_floatSkip h _, runExec_floatSkip h _,
    runExec_floatSkip h _, runExec_floatSkip h _, runExec_floatSkip h _, runExec_floatSkip h _, runExec_floatSkip h _,
    runExec_floatSkip h _, runExec_floatSkip h _, runExec_floatSkip h _, runExec_floatSkip h _, runExec_floatSkip h _, ?_,
    fun p hp => absurd hp List.not_mem_nil⟩
  rw [← Bool.not_or, ← Bool.not_or, ← Bool.not_or]
  exact runExec_floatSkip h fun r => !fpsrError r

/-- The block that FPSH stores, word by word above the stack pointer. -/
theorem storedAbove_floatBlock (s : State) (sp : Word) :
    let four (v : Quad) : List Word := [v.extractLsb' 48 16, v.extractLsb' 32 16, v.extractLsb' 16 16, v.extractLsb' 0 16]
    (((((((s.storedAbove sp [(fixAny s.fpsr).extractLsb' 16 16]).storedAbove (sp + 1) [s.fpsr.extractLsb' 0 16]).storedAbove
      (sp + 1 + 1) (four s.fpac0)).storedAbove (sp + 1 + 1 + 4) (four s.fpac1)).storedAbove (sp + 1 + 1 + 4 + 4)
      (four s.fpac2)).storedAbove (sp + 1 + 1 + 4 + 4 + 4) (four s.fpac3))) = s.storedAbove sp s.floatBlock := by
  intro four
  rw [State.floatBlock]
  rw [State.storedAbove_append, State.storedAbove_append, State.storedAbove_append, State.storedAbove_append]
  have h2 : sp + 1 + 1 = sp + 2 := by bv_omega
  have h6 : sp + 2 + 4 = sp + 6 := by bv_omega
  have h10 : sp + 6 + 4 = sp + 10 := by bv_omega
  have h14 : sp + 10 + 4 = sp + 14 := by bv_omega
  rw [h2, h6, h10, h14]
  rfl

theorem storedAbove_pc (ws : List Word) : ∀ (s : State) (sp : Word), (s.storedAbove sp ws).pc = s.pc := by
  induction ws with
  | nil => exact fun _ _ => rfl
  | cons w ws ih =>
    intro s sp
    rw [State.storedAbove, ih, State.put_pc]

theorem exec_fpsh {s : State} (hc : s.calm = true) (hf : s.cfg.hasFpu = true)
    (ho : (s.pushedTogether s.floatBlock).overflowed = false) :
    exec .fpsh s = .next ((s.pushedTogether s.floatBlock).setPc (s.pc + 1)) := by
  have hstored : ∀ sp ws, (s.storedAbove sp ws).calm = true := fun sp ws => (State.storedAbove_calm s sp ws).trans hc
  have hexec : exec .fpsh s = execFpsh s := rfl
  have hsp : s.look 0o40 + 1 + 1 + 4 + 4 + 4 + 4 = s.look 0o40 + BitVec.ofNat 16 s.floatBlock.length := by
    have hlen : BitVec.ofNat 16 s.floatBlock.length = 18 := rfl
    rw [hlen]
    bv_omega
  have hp : (s.pushedTogether s.floatBlock).calm = true := by
    rw [State.pushedTogether, State.put_calm, hstored]
  have hpc : (s.pushedTogether s.floatBlock).pc = s.pc := by rw [State.pushedTogether, State.put_pc, storedAbove_pc]
  rw [hexec, execFpsh, if_pos hf]
  apply runExec_ok
  simp only [Exec.bind_apply, memRead_calm hc, pushAbove_calm, pushQuad_calm, State.storedAbove_calm, hc]
  rw [storedAbove_floatBlock, hsp]
  have hput : memWrite 0o40 (s.look 0o40 + BitVec.ofNat 16 s.floatBlock.length) (s.storedAbove (s.look 0o40) s.floatBlock) =
      .ok () (s.pushedTogether s.floatBlock) := memWrite_calm (hstored _ _) _ _
  simp only [hput, advance_apply, hpc]
  exact checkOverflow_setPc hp ho _ _

/-- Four words of the stack, the k-th from the top first. -/
theorem popQuad_stackWord {s : State} (hc : s.calm = true) (k : Nat) : popQuad (s.look 0o40 - BitVec.ofNat 16 k) s =
    .ok (s.stackWord (k + 3) ++ s.stackWord (k + 2) ++ s.stackWord (k + 1) ++ s.stackWord k) s := by
  have hsub : ∀ j, s.look 0o40 - BitVec.ofNat 16 k - BitVec.ofNat 16 j = s.look 0o40 - BitVec.ofNat 16 (k + j) := fun j => by
    rw [BitVec.sub_sub, BitVec.ofNat_add]
  have hword : ∀ j, s.look (addrOf (s.look 0o40 - BitVec.ofNat 16 k - BitVec.ofNat 16 j)) = s.stackWord (k + j) := fun j => by
    rw [hsub, State.stackWord]
  rw [popQuad_calm hc, ← hword 1, ← hword 2, ← hword 3]
  rfl

theorem exec_fpop {s : State} (hc : s.calm = true) (hf : s.cfg.hasFpu = true) :
    let w := s.stackWord
    let p := s.put 0o40 (s.look 0o40 - 18)
    p.underflowed = false → exec .fpop s = .next ((((((p.setFpac3 (w 3 ++ w 2 ++ w 1 ++ w 0)).setFpac2
        (w 7 ++ w 6 ++ w 5 ++ w 4)).setFpac1 (w 11 ++ w 10 ++ w 9 ++ w 8)).setFpac0
        (w 15 ++ w 14 ++ w 13 ++ w 12)).setFpsr (fixAny (w 17 ++ w 16))).setPc (s.pc + 1)) := by
  intro w p hu
  let q (r : BitVec 32) : State := ((((p.setFpac3 (w 3 ++ w 2 ++ w 1 ++ w 0)).setFpac2 (w 7 ++ w 6 ++ w 5 ++ w 4)).setFpac1
    (w 11 ++ w 10 ++ w 9 ++ w 8)).setFpac0 (w 15 ++ w 14 ++ w 13 ++ w 12)).setFpsr r
  have hp : p.calm = true := (State.put_calm s _ _).trans hc
  have hq : ∀ r, (q r).calm = true := fun r => by
    simp only [q, State.setFpsr_calm, State.setFpac0_calm, State.setFpac1_calm, State.setFpac2_calm, State.setFpac3_calm, hp]
  have hqu : ∀ r, (q r).underflowed = false := fun r => by
    have hlook : ∀ a, (q r).look a = p.look a := fun a => by
      simp only [q, State.setFpsr_look, State.setFpac0_look, State.setFpac1_look, State.setFpac2_look, State.setFpac3_look]
    rw [State.underflowed, hlook, hlook]
    exact hu
  have hqpc : ∀ r, (q r).pc = s.pc := fun r => by
    simp only [q, p, State.setFpsr_pc, State.setFpac0_pc, State.setFpac1_pc, State.setFpac2_pc, State.setFpac3_pc, State.put_pc]
  have hexec : exec .fpop s = execFpop s := rfl
  have hput : memWrite 0o40 (s.look 0o40 - 18) s = .ok () p := memWrite_calm hc _ _
  have h3 : popQuad (s.look 0o40) s = .ok (w 3 ++ w 2 ++ w 1 ++ w 0) s := by
    have h := popQuad_stackWord hc 0
    rw [BitVec.sub_zero] at h
    exact h
  have h2 : popQuad (s.look 0o40 - 4) s = .ok (w 7 ++ w 6 ++ w 5 ++ w 4) s := popQuad_stackWord hc 4
  have h1 : popQuad (s.look 0o40 - 8) s = .ok (w 11 ++ w 10 ++ w 9 ++ w 8) s := popQuad_stackWord hc 8
  have h0 : popQuad (s.look 0o40 - 12) s = .ok (w 15 ++ w 14 ++ w 13 ++ w 12) s := popQuad_stackWord hc 12
  have hlo : s.look (addrOf (s.look 0o40 - 16)) = w 16 := rfl
  have hhi : s.look (addrOf (s.look 0o40 - 17)) = w 17 := rfl
  rw [hexec, execFpop, if_pos hf]
  apply runExec_ok
  simp only [Exec.bind_apply, memRead_calm hc, h3, h2, h1, h0, hput, Exec.modify_apply, advance_apply, hlo, hhi]
  have hcheck := checkUnderflow_setPc (hq (loadFpsr (w 17 ++ w 16))) (hqu _) (s.pc + 1) (s.pc + 1)
  have hpc := hqpc (loadFpsr (w 17 ++ w 16))
  simp only [q] at hcheck hpc
  rw [hpc]
  exact hcheck

/-- Settles O44, each instruction by its own rule. -/
theorem floatStatusSkipsAndStack : Obligations.FloatStatusSkipsAndStack := by
  unfold Obligations.FloatStatusSkipsAndStack
  refine ⟨?_, fun s hc hf => ⟨exec_fpsh hc hf, exec_fpop hc hf⟩⟩
  intro s h z n ovf unf dvz mof
  exact ⟨floatInstr_modify h rfl, floatInstr_modify h rfl, floatInstr_modify h rfl, floatSkips h⟩

/-! ### The trap, and machines without the features (R355, R358) -/

/-- The rule of every instruction with the fault check stands inside `floatInstr`. -/
theorem exec_checkedFloat {i : Instr} (h : checkedFloat i = true) (s : State) :
    ∃ body, exec i s = runExec (floatInstr body) s := by
  cases i <;> cases h <;> exact ⟨_, rfl⟩

theorem fpIssue_pending {s : State} (h : s.fpTrapPending = true) (body : Exec Unit) : fpIssue body s = floatingPointFault s := by
  simp only [fpIssue, Exec.bind_apply, Exec.get_apply, h, if_true]

theorem exec_pending {i : Instr} {s t : State}
    (hi : checkedFloat i = true ∧ s.cfg.hasFpu = true ∨ (∃ f, i = .fint f) ∧ s.cfg.hasEap = true) (h : s.fpTrapPending = true)
    (hfault : (floatingPointFault : Exec Unit) s = .error .trap t) : exec i s = .next t := by
  obtain ⟨hchecked, hfpu⟩ | ⟨⟨f, rfl⟩, heap⟩ := hi
  · obtain ⟨body, hbody⟩ := exec_checkedFloat hchecked s
    rw [hbody]
    apply runExec_trap
    simp only [floatInstr, Exec.bind_apply, Exec.get_apply, hfpu, if_true, fpIssue_pending h, hfault]
  · have hexec : exec (.fint f) s = execFint f s := rfl
    rw [hexec, execFint]
    apply runExec_trap
    simp only [Exec.bind_apply, needsEap_ok heap, fpIssue_pending h, hfault]

/-- Without the feature the instructions with the fault check, FPSH and FPOP are no-operations. -/
theorem exec_withoutFpu {i : Instr} {s : State} (hfpu : s.cfg.hasFpu = false)
    (hi : checkedFloat i = true ∨ i = .fpsh ∨ i = .fpop) : exec i s = .next (s.setPc (s.pc + 1)) := by
  have hno : ¬ s.cfg.hasFpu = true := by
    rw [hfpu]
    exact Bool.false_ne_true
  obtain hchecked | rfl | rfl := hi
  · obtain ⟨body, hbody⟩ := exec_checkedFloat hchecked s
    rw [hbody]
    apply runExec_ok
    simp only [floatInstr, Exec.bind_apply, Exec.get_apply, hfpu, Bool.false_eq_true, if_false, advance_apply]
  · have hexec : exec .fpsh s = execFpsh s := rfl
    rw [hexec, execFpsh, if_neg hno]
    exact runExec_ok (advance_apply 1 s)
  · have hexec : exec .fpop s = execFpop s := rfl
    rw [hexec, execFpop, if_neg hno]
    exact runExec_ok (advance_apply 1 s)

/-- The words that only the commercial set gives a meaning. -/
def Commercial (i : Instr) : Prop :=
  (∃ f, i = .fint f ∨ i = .ldi f ∨ i = .sti f) ∨ (∃ a x d, i = .eldb a x d ∨ i = .estb a x d)
    ∨ i ∈ [.ldix, .stix, .cmv, .cmp, .ctr, .cmt, .edit, .lsn]

theorem exec_commercial {i : Instr} (h : Commercial i) (s : State) :
    ∃ body, exec i s = runExec (do needsEap (encode1 i); body) s := by
  obtain ⟨f, rfl | rfl | rfl⟩ | ⟨a, x, d, rfl | rfl⟩ | h := h
  · exact ⟨_, rfl⟩
  · exact ⟨_, rfl⟩
  · exact ⟨_, rfl⟩
  · exact ⟨_, rfl⟩
  · exact ⟨_, rfl⟩
  · simp only [List.mem_cons, List.not_mem_nil, or_false] at h
    obtain rfl | rfl | rfl | rfl | rfl | rfl | rfl | rfl := h <;> exact ⟨_, rfl⟩

theorem needsEap_missing {s : State} (heap : s.cfg.hasEap = false) (w : Word) : needsEap w s = unassigned w s := by
  simp only [needsEap, Exec.bind_apply, Exec.get_apply, heap, Bool.false_eq_true, if_false]

/-- A word that the commercial set would give a meaning, without the set and with an effect given for the word. -/
theorem exec_missing_given {i : Instr} (h : Commercial i) {s u : State} (heap : s.cfg.hasEap = false)
    (hu : (if s.cfg.unassignedOp then unassignedOp (encode1 i) s else none) = some u) : exec i s = .next (s.given u) := by
  obtain ⟨body, hbody⟩ := exec_commercial h s
  rw [hbody]
  apply runExec_trap
  simp only [Exec.bind_apply, needsEap_missing heap, unassigned, Exec.get_apply, hu, Exec.set_apply, Exec.throw_apply]

theorem exec_missing_refused {i : Instr} (h : Commercial i) {s : State} (heap : s.cfg.hasEap = false)
    (hu : (if s.cfg.unassignedOp then unassignedOp (encode1 i) s else none) = none) :
    exec i s = .refused (.unassigned (encode1 i)) := by
  obtain ⟨body, hbody⟩ := exec_commercial h s
  rw [hbody, runExec]
  simp only [Exec.bind_apply, needsEap_missing heap, unassigned, Exec.get_apply, hu, Exec.throw_apply]

/-- Settles O45, by the shape of the instructions' rules. -/
theorem floatTrapAndMissingFeatures : Obligations.FloatTrapAndMissingFeatures := by
  unfold Obligations.FloatTrapAndMissingFeatures
  refine ⟨?_, fun i s => ⟨exec_withoutFpu, fun heap hi => ⟨fun hno => ?_, fun hyes => ?_⟩⟩⟩
  · intro i s e hc hi hte herr t hfollow ho
    have hpending : s.fpTrapPending = true := by
      rw [State.fpTrapPending, Bool.and_eq_true]
      exact ⟨hte, herr⟩
    exact exec_pending hi hpending (floatingPointFault_calm hc (State.follow_chainFuel _ hfollow) ho)
  · exact exec_missing_refused hi heap (if_neg (by simp [hno]))
  · cases hop : unassignedOp (encode1 i) s with
    | some u => exact exec_missing_given hi heap ((if_pos hyes).trans hop)
    | none => exact exec_missing_refused hi heap ((if_pos hyes).trans hop)

/-! ### Packed numbers -/

theorem fpPack_toNat (s : Bool) (e : Int) (m : Nat) :
    (fpPack s e m).toNat = ((if s then 1 else 0) * 2 ^ 7 + (e % 128).toNat) * 2 ^ 56 + m % 2 ^ 56 := by
  have hs : (bitOf s).toNat = if s then 1 else 0 := by cases s <;> rfl
  rw [fpPack, toNat_append_eq_add, toNat_append_eq_add, hs, BitVec.toNat_ofInt, BitVec.toNat_ofNat]
  rfl

theorem mod_128_lt (e : Int) : (e % 128).toNat < 128 := by omega

theorem fpMan_fpPack (s : Bool) (e : Int) {m : Nat} (hm : m < 2 ^ 56) : fpMan (fpPack s e m) = m := by
  rw [fpMan_eq, fpPack_toNat]
  omega

theorem fpExp_fpPack (s : Bool) {e : Int} (h0 : 0 ≤ e) (h1 : e ≤ 127) (m : Nat) : fpExp (fpPack s e m) = e.toNat := by
  rw [fpExp_eq, fpPack_toNat]
  cases s <;> simp <;> omega

theorem fpPack_msb (s : Bool) (e : Int) (m : Nat) : (fpPack s e m).msb = s := by
  have he := mod_128_lt e
  have hm : m % 2 ^ 56 < 2 ^ 56 := Nat.mod_lt _ (by omega)
  rw [BitVec.msb_eq_decide, fpPack_toNat]
  cases s <;> simp <;> omega

theorem sixteen_pow_mono {a b : Nat} (h : a ≤ b) : 16 ^ a ≤ 16 ^ b := Nat.pow_le_pow_right (by omega) h

theorem pow_56 : (2 : Nat) ^ 56 = 16 ^ 14 := by norm_num

/-! ### Normalization (R351) -/

/-- A normalization shifts left by some digits, within the fuel, until the leading digit is not 0. -/
theorem normalize_spec {d : Nat} (hd : 0 < d) (fuel : Nat) : ∀ {m : Nat} (e : Int), m < 16 ^ d → 16 ^ (d - 1) ≤ m * 16 ^ fuel →
    ∃ k : Nat, k ≤ fuel ∧ Machine.normalize d fuel e m = (e - k, m * 16 ^ k) ∧ 16 ^ (d - 1) ≤ m * 16 ^ k ∧ m * 16 ^ k < 16 ^ d := by
  induction fuel with
  | zero =>
    intro m e hm hbig
    exact ⟨0, le_refl 0, by simp [Machine.normalize], hbig, by simpa using hm⟩
  | succ fuel ih =>
    intro m e hm hbig
    by_cases hlt : m < 16 ^ (d - 1)
    · have hstep : m * 16 < 16 ^ d := by
        have hp : 16 ^ d = 16 ^ (d - 1) * 16 := by rw [← Nat.pow_succ, Nat.succ_eq_add_one, Nat.sub_add_cancel hd]
        omega
      obtain ⟨k, hk, hn, hlo, hhi⟩ := ih (m := m * 16) (e - 1) hstep (by rwa [Nat.mul_assoc, ← Nat.pow_succ'])
      refine ⟨k + 1, by omega, ?_, ?_, ?_⟩
      · rw [Machine.normalize, if_pos hlt, hn, Nat.pow_succ', ← Nat.mul_assoc]
        congr 1
        push_cast
        omega
      · rwa [Nat.pow_succ', ← Nat.mul_assoc]
      · rwa [Nat.pow_succ', ← Nat.mul_assoc]
    · exact ⟨0, by omega, by simp [Machine.normalize, hlt], by simpa using Nat.le_of_not_lt hlt, by simpa using hm⟩

/-- A nonzero mantissa is shifted by at most 13 digits and finished. -/
theorem finishNormalized_spec (s : Bool) (e : Int) {m : Nat} (h0 : m ≠ 0) (hm : m < 2 ^ 56) : ∃ k : Nat, k ≤ 13 ∧
    (∀ single, finishNormalized s e m single = finish s (e - k) (m * 16 ^ k) single) ∧ 16 ^ 13 ≤ m * 16 ^ k ∧ m * 16 ^ k < 2 ^ 56 := by
  rw [pow_56] at hm ⊢
  have hbig : 16 ^ (14 - 1) ≤ m * 16 ^ 14 := by
    have h1 : 1 * 16 ^ 14 ≤ m * 16 ^ 14 := Nat.mul_le_mul_right _ (by omega)
    omega
  obtain ⟨k, hk, hn, hlo, hhi⟩ := normalize_spec (d := 14) (by omega) 14 e hm hbig
  refine ⟨k, ?_, ?_, hlo, hhi⟩
  · by_contra h
    have hk14 : k = 14 := by omega
    have h1 : 1 * 16 ^ k ≤ m * 16 ^ k := Nat.mul_le_mul_right _ (by omega)
    rw [hk14] at h1 hhi
    omega
  · intro single
    rw [finishNormalized, if_neg h0, hn]

theorem finishNormalized_zero (s : Bool) (e : Int) (single : Bool) : finishNormalized s e 0 single = .clean 0 := if_pos rfl

/-! ### Finishing (R351) -/

theorem finish_double (s : Bool) (e : Int) {m : Nat} (h0 : m ≠ 0) : finish s e m false =
    { value := fpPack s e m, ovf := decide (127 < e), unf := decide (e < 0), mof := false } := by
  rw [finish]
  simp only [Bool.false_eq_true, if_false, if_neg h0]

/-- Without an overflow or underflow the number has the exponent and the mantissa it is given. -/
theorem finish_parts {s : Bool} {e : Int} {m : Nat} (h0 : m ≠ 0) (hm : m < 2 ^ 56) (ho : (finish s e m false).ovf = false)
    (hu : (finish s e m false).unf = false) : let v := (finish s e m false).value
    (fpExp v : Int) = e ∧ fpMan v = m ∧ v.msb = s := by
  rw [finish_double s e h0] at ho hu ⊢
  have h127 : ¬ 127 < e := of_decide_eq_false ho
  have hneg : ¬ e < 0 := of_decide_eq_false hu
  refine ⟨?_, fpMan_fpPack s e hm, fpPack_msb s e m⟩
  rw [fpExp_fpPack s (by omega) (by omega)]
  omega

/-- The mantissa of a single precision number: its last 8 digits are 0. -/
theorem truncated_normalized {m : Nat} (h : 16 ^ 13 ≤ m) : 16 ^ 13 ≤ m / 2 ^ 32 * 2 ^ 32 ∧ m / 2 ^ 32 * 2 ^ 32 ≤ m := by
  omega

/-! ### Integers (R382, R384) -/

theorem fpMan_zero : fpMan 0 = 0 := rfl

theorem intSign_natAbs (n : Int) : (if decide (n < 0) = true then -(n.natAbs : Int) else n.natAbs) = n := by
  by_cases h : n < 0
  · rw [if_pos (decide_eq_true h)]
    omega
  · rw [if_neg (by simpa using h)]
    omega

/-- A factor common to both signs. -/
theorem signed_mul (c : Bool) (m k : Nat) :
    (if c = true then -((m * k : Nat) : Int) else (m * k : Nat)) = (if c = true then -(m : Int) else m) * (k : Nat) := by
  push_cast
  split
  · exact (neg_mul _ _).symm
  · rfl

/-- Where the shift leaves the digits that single precision drops 0, nothing is dropped. -/
theorem truncated_shifted {n k : Nat} (hn : n < 2 ^ 24) (h : 16 ^ 13 ≤ n * 16 ^ k) :
    n * 16 ^ k / 2 ^ 32 * 2 ^ 32 = n * 16 ^ k := by
  have hk : 8 ≤ k := by
    by_contra hlt
    have h7 : 16 ^ k ≤ 16 ^ 7 := sixteen_pow_mono (by omega)
    have hmul : n * 16 ^ k ≤ n * 16 ^ 7 := Nat.mul_le_mul_left n h7
    omega
  have hdvd : 2 ^ 32 ∣ n * 16 ^ k := by
    have h8 : (2 : Nat) ^ 32 = 16 ^ 8 := by norm_num
    rw [h8]
    exact dvd_mul_of_dvd_right (pow_dvd_pow 16 hk) n
  exact Nat.div_mul_cancel hdvd

theorem finish_single_of_truncated (s : Bool) (e : Int) {m : Nat} (h : m / 2 ^ 32 * 2 ^ 32 = m) :
    finish s e m true = finish s e m false := by
  rw [finish, finish]
  simp only [if_true, Bool.false_eq_true, if_false, h]

/-- An integer within the mantissa is shifted and packed. -/
theorem floatOfInt_spec {n : Int} {single : Bool} (hn : n.natAbs < if single then 2 ^ 24 else 2 ^ 56) (h0 : n ≠ 0) :
    ∃ k : Nat, k ≤ 13 ∧ n.natAbs * 16 ^ k < 2 ^ 56 ∧
      floatOfInt n single = { value := fpPack (decide (n < 0)) (78 - k) (n.natAbs * 16 ^ k), ovf := false, unf := false, mof := false } := by
  have hnat : n.natAbs ≠ 0 := by omega
  have hm : n.natAbs < 2 ^ 56 := by
    split at hn
    · omega
    · exact hn
  obtain ⟨k, hk, hfin, hlo, hhi⟩ := finishNormalized_spec (decide (n < 0)) 78 hnat hm
  have hdouble : finish (decide (n < 0)) (78 - k) (n.natAbs * 16 ^ k) single =
      finish (decide (n < 0)) (78 - k) (n.natAbs * 16 ^ k) false := by
    cases single with
    | false => rfl
    | true => exact finish_single_of_truncated _ _ (truncated_shifted hn hlo)
  refine ⟨k, hk, hhi, ?_⟩
  have hne : n.natAbs * 16 ^ k ≠ 0 := by omega
  rw [floatOfInt, hfin, hdouble, finish_double _ _ hne, decide_eq_false (by omega : ¬ (127 : Int) < 78 - k),
    decide_eq_false (by omega : ¬ (78 - k : Int) < 0)]

/-- Settles O42: the shift that normalizes loses nothing. -/
theorem integersConvertExactly : Obligations.IntegersConvertExactly := by
  unfold Obligations.IntegersConvertExactly
  intro n single hn r
  by_cases h0 : n = 0
  · subst h0
    have hclean : r = .clean 0 := finishNormalized_zero _ _ single
    rw [hclean]
    exact ⟨by decide, by decide, rfl, rfl, rfl⟩
  obtain ⟨k, hk, hhi, hspec⟩ := floatOfInt_spec hn h0
  have hr : r.value = fpPack (decide (n < 0)) (78 - k) (n.natAbs * 16 ^ k) := congrArg FloatResult.value hspec
  have hman : fpMan r.value = n.natAbs * 16 ^ k := by rw [hr, fpMan_fpPack _ _ hhi]
  have hexp : fpExp r.value = 78 - k := by
    rw [hr, fpExp_fpPack _ (by omega) (by omega)]
    omega
  have hsgn : fpSign r.value = decide (n < 0) := by rw [fpSign_eq_msb, hr, fpPack_msb]
  have hpart : fpIntegerPart r.value = n.natAbs := by
    rw [fpIntegerPart, hexp, hman, if_neg (by omega)]
    split
    · rw [show 14 - (78 - k - 64) = k by omega, Nat.mul_div_cancel _ (Nat.pow_pos (by omega))]
    · rw [show k = 0 by omega]
      simp
  refine ⟨?_, ?_, congrArg FloatResult.ovf hspec, congrArg FloatResult.unf hspec, congrArg FloatResult.mof hspec⟩
  · have hscale : fpMagnitude r.value = n.natAbs * 16 ^ 78 := by
      rw [fpMagnitude, hman, hexp, Nat.mul_assoc, ← Nat.pow_add, show k + (78 - k) = 78 by omega]
    have hsigned := signed_mul (decide (n < 0)) n.natAbs (16 ^ 78)
    rw [intSign_natAbs] at hsigned
    rw [fpScaled_eq, ← fpSign_eq_msb, hsgn, hscale, hsigned]
    push_cast
    rfl
  · rw [fpToInt, hsgn, hpart]
    exact intSign_natAbs n

/-! ### Normalized numbers and true zero -/

/-- A result that is a normalized number or true zero. -/
def Good (r : FloatResult) : Prop := fpNormalized r.value = true ∨ r.value = 0

/-- An operand that is a normalized number, or a zero of either sign. -/
def Operand (x : Quad) : Prop := 16 ^ 13 ≤ fpMan x ∨ (fpMan x = 0 ∧ fpExp x = 0)

theorem fpNormalized_iff (x : Quad) : fpNormalized x = true ↔ 16 ^ 13 ≤ fpMan x := decide_eq_true_iff

theorem operand_of {x : Quad} (h : fpNormalized x = true ∨ x = 0) : Operand x := by
  obtain h | rfl := h
  · exact .inl ((fpNormalized_iff x).1 h)
  · exact .inr ⟨rfl, rfl⟩

theorem flipSign_parts (x : Quad) : fpMan (flipSign x) = fpMan x ∧ fpExp (flipSign x) = fpExp x ∧
    fpSign (flipSign x) = !fpSign x := by
  refine ⟨congrArg BitVec.toNat ?_, congrArg BitVec.toNat ?_, ?_⟩
  · rw [flipSign, BitVec.extractLsb'_xor]
    exact BitVec.xor_zero
  · rw [flipSign, BitVec.extractLsb'_xor]
    exact BitVec.xor_zero
  · rw [fpSign, flipSign, BitVec.getMsbD_xor]
    exact Bool.xor_true _

theorem operand_flipSign {x : Quad} (h : Operand x) : Operand (flipSign x) := by
  rw [Operand, (flipSign_parts x).1, (flipSign_parts x).2.1]
  exact h

theorem good_clean_zero : Good (.clean 0) := .inr rfl

theorem toSingle_toNat (x : Quad) : (toSingle x).toNat = x.toNat / 2 ^ 32 * 2 ^ 32 := by
  have hx := x.isLt
  rw [toSingle, toNat_append_eq_add, BitVec.extractLsb'_toNat, Nat.shiftRight_eq_div_pow, BitVec.toNat_ofNat]
  omega

theorem fpMan_toSingle (x : Quad) : fpMan (toSingle x) = fpMan x / 2 ^ 32 * 2 ^ 32 := by
  rw [fpMan_eq, fpMan_eq, toSingle_toNat]
  omega

theorem good_toSingle {x : Quad} (h : 16 ^ 13 ≤ fpMan x) (single : Bool) : Good (.clean (if single then toSingle x else x)) := by
  refine .inl ((fpNormalized_iff _).2 ?_)
  cases single with
  | false => exact h
  | true =>
    have hman : fpMan (toSingle x) = fpMan x / 2 ^ 32 * 2 ^ 32 := fpMan_toSingle x
    have htrunc := (truncated_normalized h).1
    rw [← hman] at htrunc
    exact htrunc

theorem good_finish (s : Bool) (e : Int) {m : Nat} (hlo : 16 ^ 13 ≤ m) (hhi : m < 2 ^ 56) (single : Bool) : Good (finish s e m single) := by
  have hpack : ∀ {n : Nat}, 16 ^ 13 ≤ n → n < 2 ^ 56 → fpNormalized (fpPack s e n) = true := fun hn hn' =>
    (fpNormalized_iff _).2 (by rwa [fpMan_fpPack s e hn'])
  rw [finish]
  cases single with
  | false =>
    simp only [Bool.false_eq_true, if_false]
    rw [if_neg (by omega)]
    exact .inl (hpack hlo hhi)
  | true =>
    obtain ⟨h1, h2⟩ := truncated_normalized hlo
    simp only [if_true]
    rw [if_neg (by omega)]
    exact .inl (hpack h1 (by omega))

theorem good_finishNormalized (s : Bool) (e : Int) {m : Nat} (hm : m < 2 ^ 56) (single : Bool) : Good (finishNormalized s e m single) := by
  by_cases h0 : m = 0
  · rw [h0, finishNormalized_zero]
    exact good_clean_zero
  · obtain ⟨k, -, hfin, hlo, hhi⟩ := finishNormalized_spec s e h0 hm
    rw [hfin]
    exact good_finish s _ hlo hhi single

/-! ### The four operations -/

theorem good_floatAdd {a b : Quad} (ha : Operand a) (hb : Operand b) (single : Bool) : Good (floatAdd a b single) := by
  have hla := fpMan_lt a
  have hlb := fpMan_lt b
  rw [floatAdd]
  by_cases hk : 14 ≤ fpExp a - fpExp b + (fpExp b - fpExp a)
  · simp only [if_pos hk]
    by_cases hlt : fpExp b < fpExp a
    · rw [if_pos hlt]
      exact good_toSingle (ha.resolve_right fun h => by omega) single
    · rw [if_neg hlt]
      exact good_toSingle (hb.resolve_right fun h => by omega) single
  · simp only [if_neg hk]
    have hshift : ∀ {m : Nat} (k : Nat), m < 2 ^ 56 → m / 16 ^ k < 2 ^ 56 := fun k hm => (Nat.div_le_self _ _).trans_lt hm
    generalize hma : (if fpExp a < fpExp b then fpMan a / 16 ^ (fpExp a - fpExp b + (fpExp b - fpExp a)) else fpMan a) = ma
    generalize hmb : (if fpExp a < fpExp b then fpMan b else fpMan b / 16 ^ (fpExp a - fpExp b + (fpExp b - fpExp a))) = mb
    have h1 : ma < 2 ^ 56 := by
      rw [← hma]
      split
      · exact hshift _ hla
      · exact hla
    have h2 : mb < 2 ^ 56 := by
      rw [← hmb]
      split
      · exact hlb
      · exact hshift _ hlb
    split
    · split
      · exact good_finish _ _ (by omega) (by omega) single
      · exact good_finishNormalized _ _ (by omega) single
    · split
      · exact good_finishNormalized _ _ (by omega) single
      · exact good_finishNormalized _ _ (by omega) single

/-- The normalized exact product (R374): its exponent and its 28 digits. -/
def product (a b : Quad) : Int × Nat := Machine.normalize 28 28 ((fpExp a : Int) + fpExp b - 64) (fpMan a * fpMan b)

/-- The source of a multiplication, cut to single precision where the instruction is. -/
def mulSource (b : Quad) (single : Bool) : Quad := if single then toSingle b else b

theorem floatMul_eq (a b : Quad) (single : Bool) : floatMul a b single =
    if fpMan a * fpMan (mulSource b single) = 0 then .clean 0
    else finish (xor (fpSign a) (fpSign (mulSource b single))) (product a (mulSource b single)).1
      ((product a (mulSource b single)).2 / 2 ^ 56) single := rfl

theorem product_spec {a b : Quad} (h0 : fpMan a * fpMan b ≠ 0) : ∃ k : Nat,
    product a b = ((fpExp a : Int) + fpExp b - 64 - k, fpMan a * fpMan b * 16 ^ k)
    ∧ 16 ^ 13 ≤ (product a b).2 / 2 ^ 56 ∧ (product a b).2 / 2 ^ 56 < 2 ^ 56 := by
  have hp : fpMan a * fpMan b < 16 ^ 28 := by
    have h := Nat.mul_lt_mul'' (fpMan_lt a) (fpMan_lt b)
    norm_num at h ⊢
    exact h
  have hbig : 16 ^ (28 - 1) ≤ fpMan a * fpMan b * 16 ^ 28 := by
    have h1 : 1 * 16 ^ 28 ≤ fpMan a * fpMan b * 16 ^ 28 := Nat.mul_le_mul_right _ (by omega)
    omega
  obtain ⟨k, -, hn, hlo, hhi⟩ := normalize_spec (d := 28) (by omega) 28 ((fpExp a : Int) + fpExp b - 64) hp hbig
  have hprod : product a b = ((fpExp a : Int) + fpExp b - 64 - k, fpMan a * fpMan b * 16 ^ k) := hn
  have h2 : (product a b).2 = fpMan a * fpMan b * 16 ^ k := congrArg Prod.snd hprod
  refine ⟨k, hprod, ?_, ?_⟩
  · omega
  · omega

theorem good_floatMul (a b : Quad) (single : Bool) : Good (floatMul a b single) := by
  rw [floatMul_eq]
  by_cases h0 : fpMan a * fpMan (mulSource b single) = 0
  · rw [if_pos h0]
    exact good_clean_zero
  · obtain ⟨k, -, hlo, hhi⟩ := product_spec h0
    rw [if_neg h0]
    exact good_finish _ _ hlo hhi single

/-- Normalized mantissas: the pre-shift of a division is 0 or 1 and leaves the dividend below the divisor. -/
theorem divideShift_spec {ma mb : Nat} (ha : ma < 2 ^ 56) (hb : 16 ^ 13 ≤ mb) :
    (divideShift ma mb 15 0 = 0 ∧ ma < mb) ∨ (divideShift ma mb 15 0 = 1 ∧ mb ≤ ma ∧ ma < 16 * mb) := by
  by_cases h0 : mb * 16 ^ 0 ≤ ma
  · have h1 : ¬ mb * 16 ^ (0 + 1) ≤ ma := by omega
    refine .inr ⟨?_, by omega, by omega⟩
    rw [divideShift, if_pos h0, divideShift, if_neg h1]
  · refine .inl ⟨?_, by omega⟩
    rw [divideShift, if_neg h0]

/-- The digits that a division keeps (R378). -/
def quotientBits (single : Bool) : Nat := if single then 24 else 56

/-- The quotient of the mantissas (R378). -/
def quotient (a b : Quad) (bits : Nat) : Nat :=
  fpMan a * 2 ^ bits / (16 ^ divideShift (fpMan a) (fpMan b) 15 0 * fpMan b)

/-- The exponent of a quotient (R378). -/
def quotientExp (a b : Quad) : Int := (fpExp a : Int) - fpExp b + 64 + divideShift (fpMan a) (fpMan b) 15 0

theorem floatDiv_eq (a b : Quad) (single : Bool) : floatDiv a b single =
    finish (xor (fpSign a) (fpSign b)) (quotientExp a b) (quotient a b (quotientBits single) * 2 ^ (56 - quotientBits single))
      single := rfl

/-- The quotient of normalized mantissas has its leading digit, and no more digits than are kept. -/
theorem quotient_bounds {a b : Quad} (ha : 16 ^ 13 ≤ fpMan a) (hb : 16 ^ 13 ≤ fpMan b) (n : Nat) :
    2 ^ n ≤ quotient a b (n + 4) ∧ quotient a b (n + 4) < 2 ^ (n + 4) := by
  have hla := fpMan_lt a
  have hlb := fpMan_lt b
  have hn : 0 < 2 ^ n := Nat.two_pow_pos n
  have hsplit : (2 : Nat) ^ (n + 4) = 16 * 2 ^ n := by rw [Nat.pow_add, Nat.mul_comm]
  have hpos : 0 < 16 ^ divideShift (fpMan a) (fpMan b) 15 0 * fpMan b := Nat.mul_pos (Nat.pow_pos (by omega)) (by omega)
  rw [quotient, Nat.le_div_iff_mul_le hpos, Nat.div_lt_iff_lt_mul hpos, hsplit]
  obtain ⟨hk, hlt⟩ | ⟨hk, hge, hlt⟩ := divideShift_spec hla hb
  · rw [hk, Nat.pow_zero, Nat.one_mul]
    constructor <;> nlinarith
  · rw [hk, Nat.pow_one]
    constructor <;> nlinarith

theorem quotient_zero {a : Quad} (ha : fpMan a = 0) (b : Quad) (bits : Nat) : quotient a b bits = 0 := by
  rw [quotient, ha, Nat.zero_mul, Nat.zero_div]

theorem good_floatDiv {a b : Quad} (ha : Operand a) (hb : 16 ^ 13 ≤ fpMan b) (single : Bool) : Good (floatDiv a b single) := by
  rw [floatDiv_eq]
  obtain ha | ⟨ha, -⟩ := ha
  · cases single with
    | false =>
      obtain ⟨hlo, hhi⟩ := quotient_bounds ha hb 52
      have hq : quotient a b (quotientBits false) * 2 ^ (56 - quotientBits false) = quotient a b (52 + 4) := Nat.mul_one _
      rw [hq]
      exact good_finish _ _ (by omega) (by omega) _
    | true =>
      obtain ⟨hlo, hhi⟩ := quotient_bounds ha hb 20
      have hq : quotient a b (quotientBits true) * 2 ^ (56 - quotientBits true) = quotient a b (20 + 4) * 2 ^ 32 := rfl
      rw [hq]
      exact good_finish _ _ (by omega) (by omega) _
  · rw [quotient_zero ha, Nat.zero_mul]
    cases single <;> exact good_clean_zero

/-- A number minus itself. -/
theorem floatSub_self (a : Quad) (single : Bool) : floatSub a a single = .clean 0 := by
  obtain ⟨hman, hexp, hsgn⟩ := flipSign_parts a
  have hne : ¬ fpSign a = !fpSign a := by cases fpSign a <;> simp
  rw [floatSub, floatAdd, hman, hexp, hsgn]
  simp only [Nat.sub_self, Nat.add_zero, Nat.lt_irrefl, if_false, Nat.pow_zero, Nat.div_one, if_neg hne, le_refl, if_true,
    finishNormalized_zero]
  rfl

/-- Settles O40, operation by operation. -/
theorem floatResultsNormalized : Obligations.FloatResultsNormalized := by
  unfold Obligations.FloatResultsNormalized
  intro a b single ha hb good
  have hoa := operand_of ha
  have hob := operand_of hb
  refine ⟨good_floatAdd hoa hob single, good_floatAdd hoa (operand_flipSign hob) single, good_floatMul a b single, fun h0 => ?_,
    congrArg FloatResult.value (floatSub_self a single)⟩
  exact good_floatDiv hoa ((fpNormalized_iff b).1 (hb.resolve_right h0)) single

/-! ### Products and quotients by value -/

/-- A product without overflow or underflow is the exact one, cut to the mantissa. -/
theorem floatMul_by_value {a b : Quad} (h0 : fpMan a * fpMan b ≠ 0) (ho : (floatMul a b false).ovf = false)
    (hu : (floatMul a b false).unf = false) :
    let r := floatMul a b false
    r.value.msb = (a.msb ^^ b.msb)
    ∧ fpMagnitude r.value * 16 ^ 78 ≤ fpMagnitude a * fpMagnitude b
    ∧ fpMagnitude a * fpMagnitude b < (fpMan r.value + 1) * 16 ^ fpExp r.value * 16 ^ 78 := by
  intro r
  obtain ⟨k, hprod, hlo, hhi⟩ := product_spec h0
  have hr : r = finish (xor (fpSign a) (fpSign b)) (product a b).1 ((product a b).2 / 2 ^ 56) false :=
    (floatMul_eq a b false).trans (if_neg h0)
  have ho' : r.ovf = false := ho
  have hu' : r.unf = false := hu
  rw [hr] at ho' hu'
  obtain ⟨hexp, hman, hsgn⟩ := finish_parts (by omega) hhi ho' hu'
  rw [← hr] at hexp hman hsgn
  rw [hprod] at hexp hman
  have hsum : fpExp a + fpExp b = fpExp r.value + 64 + k := by omega
  have hmag : fpMagnitude a * fpMagnitude b = fpMan a * fpMan b * 16 ^ k * 16 ^ (fpExp r.value + 64) := by
    rw [fpMagnitude, fpMagnitude, Nat.mul_mul_mul_comm, ← Nat.pow_add, hsum]
    ring
  have hscale : ∀ m : Nat, m * 16 ^ fpExp r.value * 16 ^ 78 = m * 2 ^ 56 * 16 ^ (fpExp r.value + 64) := fun m => by
    rw [pow_56, Nat.mul_assoc, Nat.mul_assoc, ← Nat.pow_add, ← Nat.pow_add, show 14 + (fpExp r.value + 64) = fpExp r.value + 78 by omega]
  refine ⟨hsgn, ?_, ?_⟩
  · rw [hmag, fpMagnitude, hscale]
    exact Nat.mul_le_mul_right _ (by omega)
  · rw [hmag, hscale]
    exact Nat.mul_lt_mul_of_pos_right (by omega) (Nat.pow_pos (by omega))

/-- A quotient without overflow or underflow is the exact one, cut to the mantissa. -/
theorem floatDiv_by_value {a b : Quad} (ha : 16 ^ 13 ≤ fpMan a) (hb : 16 ^ 13 ≤ fpMan b) (ho : (floatDiv a b false).ovf = false)
    (hu : (floatDiv a b false).unf = false) :
    let r := floatDiv a b false
    r.value.msb = (a.msb ^^ b.msb)
    ∧ fpMagnitude r.value * fpMagnitude b ≤ fpMagnitude a * 16 ^ 78
    ∧ fpMagnitude a * 16 ^ 78 < (fpMan r.value + 1) * 16 ^ fpExp r.value * fpMagnitude b := by
  intro r
  obtain ⟨hlo, hhi⟩ := quotient_bounds ha hb 52
  have hr : r = finish (xor (fpSign a) (fpSign b)) (quotientExp a b) (quotient a b 56) false :=
    (floatDiv_eq a b false).trans (congrArg (finish _ _ · false) (Nat.mul_one _))
  have ho' : r.ovf = false := ho
  have hu' : r.unf = false := hu
  rw [hr] at ho' hu'
  have hne : quotient a b 56 ≠ 0 := by
    have hlo' : 2 ^ 52 ≤ quotient a b 56 := hlo
    omega
  obtain ⟨hexp, hman, hsgn⟩ := finish_parts hne hhi ho' hu'
  rw [← hr] at hexp hman hsgn
  rw [quotientExp] at hexp
  rw [quotient] at hman
  generalize divideShift (fpMan a) (fpMan b) 15 0 = k at hexp hman
  have hsum : fpExp r.value + fpExp b = fpExp a + 64 + k := by omega
  have hpos : 0 < 16 ^ k * fpMan b := Nat.mul_pos (Nat.pow_pos (by omega)) (by omega)
  have hmag : fpMagnitude a * 16 ^ 78 = fpMan a * 2 ^ 56 * 16 ^ (fpExp a + 64) := by
    rw [fpMagnitude, pow_56, Nat.mul_assoc, Nat.mul_assoc, ← Nat.pow_add, ← Nat.pow_add,
      show 14 + (fpExp a + 64) = fpExp a + 78 by omega]
  have hscale : ∀ m : Nat, m * 16 ^ fpExp r.value * fpMagnitude b = m * (16 ^ k * fpMan b) * 16 ^ (fpExp a + 64) := fun m => by
    calc m * 16 ^ fpExp r.value * fpMagnitude b = m * fpMan b * 16 ^ (fpExp r.value + fpExp b) := by
          rw [fpMagnitude, Nat.pow_add, Nat.mul_mul_mul_comm]
      _ = m * fpMan b * (16 ^ (fpExp a + 64) * 16 ^ k) := by rw [hsum, Nat.pow_add]
      _ = m * (16 ^ k * fpMan b) * 16 ^ (fpExp a + 64) := by ring
  refine ⟨hsgn, ?_, ?_⟩
  · rw [hmag, fpMagnitude, hscale, hman]
    exact Nat.mul_le_mul_right _ (Nat.div_mul_le_self _ _)
  · rw [hmag, hscale, hman]
    exact Nat.mul_lt_mul_of_pos_right (Nat.lt_mul_of_div_lt (Nat.lt_succ_self _) hpos) (Nat.pow_pos (by omega))

/-! ### Sums by value -/

/-- A normalized result without underflow: the sign, and the magnitude kept. -/
theorem finishNormalized_by_value (s : Bool) {e m : Nat} (he : e < 128) (hm : m < 2 ^ 56)
    (hu : (finishNormalized s e m false).unf = false) :
    let r := finishNormalized s e m false
    fpMagnitude r.value = m * 16 ^ e ∧ (m ≠ 0 → r.value.msb = s) := by
  intro r
  by_cases h0 : m = 0
  · subst h0
    have hr : r = .clean 0 := finishNormalized_zero s e false
    refine ⟨?_, fun h => absurd rfl h⟩
    rw [hr, Nat.zero_mul]
    exact Nat.zero_mul _
  obtain ⟨k, -, hfin, hlo, hhi⟩ := finishNormalized_spec s e h0 hm
  have hr : r = finish s ((e : Int) - k) (m * 16 ^ k) false := hfin false
  have hne : m * 16 ^ k ≠ 0 := by omega
  have hu' : r.unf = false := hu
  rw [hr] at hu'
  have ho : (finish s ((e : Int) - k) (m * 16 ^ k) false).ovf = false := by
    rw [finish_double _ _ hne]
    exact decide_eq_false (by omega)
  obtain ⟨hexp, hman, hsgn⟩ := finish_parts hne hhi ho hu'
  rw [← hr] at hexp hman hsgn
  refine ⟨?_, fun _ => hsgn⟩
  rw [fpMagnitude, hman, Nat.mul_assoc, ← Nat.pow_add, show k + fpExp r.value = e by omega]

/-- The mantissa with its sign. -/
def signedMan (s : Bool) (m : Nat) : Int := if s then -(m : Int) else m

theorem fpScaled_signed (x : Quad) : fpScaled x = signedMan x.msb (fpMan x) * 16 ^ fpExp x := by
  have h := signed_mul x.msb (fpMan x) (16 ^ fpExp x)
  rw [fpScaled_eq, fpMagnitude, h]
  push_cast
  rfl

/-- What FAdd makes of two aligned mantissas (R359). -/
def addAligned (sa sb : Bool) (e : Int) (ma mb : Nat) (single : Bool) : FloatResult :=
  if sa = sb then
    if 2 ^ 56 ≤ ma + mb then finish sa (e + 1) ((ma + mb) / 16) single else finishNormalized sa e (ma + mb) single
  else if mb ≤ ma then finishNormalized sa e (ma - mb) single else finishNormalized sb e (mb - ma) single

/-- The source has the smaller exponent, less than 14 digits below. -/
theorem floatAdd_aligned {a b : Quad} (hle : fpExp b ≤ fpExp a) (hlt : fpExp a < fpExp b + 14) (single : Bool) :
    floatAdd a b single = addAligned (fpSign a) (fpSign b) (fpExp a) (fpMan a) (fpMan b / 16 ^ (fpExp a - fpExp b)) single := by
  have hk : fpExp a - fpExp b + (fpExp b - fpExp a) = fpExp a - fpExp b := by omega
  rw [floatAdd]
  simp only [hk, if_neg (show ¬ 14 ≤ fpExp a - fpExp b by omega), if_neg (show ¬ fpExp a < fpExp b by omega)]
  rfl

/-- 14 digits apart the larger is the result. -/
theorem floatAdd_far {a b : Quad} (h : fpExp b + 14 ≤ fpExp a) (single : Bool) :
    floatAdd a b single = .clean (if single then toSingle a else a) := by
  rw [floatAdd]
  simp only [if_pos (show 14 ≤ fpExp a - fpExp b + (fpExp b - fpExp a) by omega), if_pos (show fpExp b < fpExp a by omega)]

theorem floatAdd_far_source {a b : Quad} (h : fpExp a + 14 ≤ fpExp b) (single : Bool) :
    floatAdd a b single = .clean (if single then toSingle b else b) := by
  rw [floatAdd]
  simp only [if_pos (show 14 ≤ fpExp a - fpExp b + (fpExp b - fpExp a) by omega), if_neg (show ¬ fpExp b < fpExp a by omega)]

/-- The accumulator has the smaller exponent, less than 14 digits below. -/
theorem floatAdd_aligned_source {a b : Quad} (hlt : fpExp a < fpExp b) (h14 : fpExp b < fpExp a + 14) (single : Bool) :
    floatAdd a b single = addAligned (fpSign a) (fpSign b) (fpExp b) (fpMan a / 16 ^ (fpExp b - fpExp a)) (fpMan b) single := by
  have hk : fpExp a - fpExp b + (fpExp b - fpExp a) = fpExp b - fpExp a := by omega
  rw [floatAdd]
  simp only [hk, if_neg (show ¬ 14 ≤ fpExp b - fpExp a by omega), if_pos hlt]
  rfl

theorem addAligned_comm (sa sb : Bool) (e : Int) (ma mb : Nat) (single : Bool) :
    addAligned sa sb e ma mb single = addAligned sb sa e mb ma single := by
  rw [addAligned, addAligned]
  by_cases hs : sa = sb
  · rw [if_pos hs, if_pos hs.symm, hs, Nat.add_comm]
  · rw [if_neg hs, if_neg (Ne.symm hs)]
    obtain hlt | heq | hgt := Nat.lt_trichotomy ma mb
    · rw [if_neg (by omega), if_pos (by omega)]
    · rw [heq, if_pos le_rfl, if_pos le_rfl, Nat.sub_self, finishNormalized_zero, finishNormalized_zero]
    · rw [if_pos (by omega), if_neg (by omega)]

theorem floatAdd_comm (a b : Quad) (single : Bool) : floatAdd a b single = floatAdd b a single := by
  obtain hlt | heq | hgt := Nat.lt_trichotomy (fpExp a) (fpExp b)
  · by_cases h14 : fpExp b < fpExp a + 14
    · rw [floatAdd_aligned_source hlt h14, floatAdd_aligned (by omega) h14, addAligned_comm]
    · rw [floatAdd_far_source (by omega), floatAdd_far (by omega)]
  · rw [floatAdd_aligned (by omega) (by omega), floatAdd_aligned (by omega) (by omega), heq, addAligned_comm, Nat.sub_self,
      Nat.pow_zero, Nat.div_one, Nat.div_one]
  · by_cases h14 : fpExp a < fpExp b + 14
    · rw [floatAdd_aligned (by omega) h14, floatAdd_aligned_source hgt h14, addAligned_comm]
    · rw [floatAdd_far (by omega), floatAdd_far_source (by omega)]

/-- A sum of aligned mantissas without overflow or underflow: exact, or cut by one digit. -/
structure SumValue (sum : Int) (e : Nat) (v : Quad) : Prop where
  exact : sum.natAbs < 2 ^ 56 → fpMagnitude v = sum.natAbs * 16 ^ e
  sign : sum ≠ 0 → v.msb = decide (sum < 0)
  le : fpMagnitude v ≤ sum.natAbs * 16 ^ e
  lt : sum.natAbs * 16 ^ e < (fpMan v + 1) * 16 ^ fpExp v

theorem SumValue.of_exact {sum : Int} {e : Nat} {v : Quad} (h : fpMagnitude v = sum.natAbs * 16 ^ e)
    (hs : sum ≠ 0 → v.msb = decide (sum < 0)) : SumValue sum e v where
  exact _ := h
  sign := hs
  le := h.le
  lt := by
    rw [← h, fpMagnitude]
    exact Nat.mul_lt_mul_of_pos_right (Nat.lt_succ_self _) (Nat.pow_pos (by omega))

/-- A normalized sum. -/
theorem SumValue.of_normalized {s : Bool} {e m : Nat} {sum : Int} (he : e < 128) (hm : m < 2 ^ 56) (hsum : sum = signedMan s m)
    (hu : (finishNormalized s e m false).unf = false) : SumValue sum e (finishNormalized s e m false).value := by
  obtain ⟨hmag, hsgn⟩ := finishNormalized_by_value s he hm hu
  have hm' : sum.natAbs = m ∧ (sum ≠ 0 → m ≠ 0 ∧ decide (sum < 0) = s) := by
    subst hsum
    cases s with
    | false =>
      simp only [signedMan, Bool.false_eq_true, if_false]
      exact ⟨Int.natAbs_natCast m, fun h => ⟨by omega, decide_eq_false (by omega)⟩⟩
    | true =>
      simp only [signedMan, if_true]
      exact ⟨by omega, fun h => ⟨by omega, decide_eq_true (by omega)⟩⟩
  refine .of_exact (by rw [hmag, hm'.1]) fun h => ?_
  rw [(hm'.2 h).2]
  exact hsgn (hm'.2 h).1

/-- A sum whose mantissas overflow: one digit is cut. -/
theorem SumValue.of_overflow {s : Bool} {e m : Nat} {sum : Int} (hm : 2 ^ 56 ≤ m) (hlt : m < 2 ^ 57) (hsum : sum = signedMan s m)
    (ho : (finish s ((e : Int) + 1) (m / 16) false).ovf = false) (hu : (finish s ((e : Int) + 1) (m / 16) false).unf = false) :
    SumValue sum e (finish s ((e : Int) + 1) (m / 16) false).value := by
  obtain ⟨hexp, hman, hsgn⟩ := finish_parts (by omega) (by omega) ho hu
  have hexp' : fpExp (finish s ((e : Int) + 1) (m / 16) false).value = e + 1 := by omega
  have hm' : sum.natAbs = m ∧ decide (sum < 0) = s := by
    subst hsum
    cases s with
    | false =>
      simp only [signedMan, Bool.false_eq_true, if_false]
      exact ⟨Int.natAbs_natCast m, decide_eq_false (by omega)⟩
    | true =>
      simp only [signedMan, if_true]
      exact ⟨by omega, decide_eq_true (by omega)⟩
  have hscale : ∀ n : Nat, n * 16 ^ (e + 1) = n * 16 * 16 ^ e := fun n => by rw [Nat.pow_succ', Nat.mul_assoc]
  refine ⟨fun h => by omega, fun _ => hsgn.trans hm'.2.symm, ?_, ?_⟩
  · rw [fpMagnitude, hman, hexp', hm'.1, hscale]
    exact Nat.mul_le_mul_right _ (by omega)
  · rw [hman, hexp', hm'.1, hscale]
    exact Nat.mul_lt_mul_of_pos_right (by omega) (Nat.pow_pos (by omega))

theorem addAligned_by_value {sa sb : Bool} {e ma mb : Nat} (he : e < 128) (ha : ma < 2 ^ 56) (hb : mb < 2 ^ 56)
    (ho : (addAligned sa sb e ma mb false).ovf = false) (hu : (addAligned sa sb e ma mb false).unf = false) :
    SumValue (signedMan sa ma + signedMan sb mb) e (addAligned sa sb e ma mb false).value := by
  rw [addAligned] at ho hu ⊢
  by_cases hs : sa = sb
  · rw [if_pos hs] at ho hu ⊢
    subst hs
    have hsum : signedMan sa ma + signedMan sa mb = signedMan sa (ma + mb) := by
      cases sa <;> simp [signedMan]
      omega
    by_cases hbig : 2 ^ 56 ≤ ma + mb
    · rw [if_pos hbig] at ho hu ⊢
      exact .of_overflow hbig (by omega) hsum ho hu
    · rw [if_neg hbig] at hu ⊢
      exact .of_normalized he (by omega) hsum hu
  · rw [if_neg hs] at hu ⊢
    have hsb : sb = !sa := (Bool.eq_not_of_ne (Ne.symm hs))
    subst hsb
    by_cases hle : mb ≤ ma
    · rw [if_pos hle] at hu ⊢
      refine .of_normalized he (by omega) ?_ hu
      cases sa <;> simp [signedMan] <;> omega
    · rw [if_neg hle] at hu ⊢
      refine .of_normalized he (by omega) ?_ hu
      cases sa <;> simp [signedMan] <;> omega

/-- An exact sum, with its sign. -/
theorem SumValue.scaled {sum : Int} {e : Nat} {v : Quad} (h : SumValue sum e v) (hlt : sum.natAbs < 2 ^ 56) :
    fpScaled v = sum * 16 ^ e := by
  have hmag := h.exact hlt
  have hsigned := signed_mul (decide (sum < 0)) sum.natAbs (16 ^ e)
  rw [intSign_natAbs] at hsigned
  rw [fpScaled_eq, hmag]
  by_cases h0 : sum = 0
  · subst h0
    simp
  · rw [h.sign h0, hsigned]
    push_cast
    rfl

theorem finishNormalized_ovf (s : Bool) {e m : Nat} (he : e < 128) (hm : m < 2 ^ 56) :
    (finishNormalized s e m false).ovf = false := by
  by_cases h0 : m = 0
  · rw [h0, finishNormalized_zero]
    rfl
  · obtain ⟨k, -, hfin, hlo, -⟩ := finishNormalized_spec s e h0 hm
    rw [hfin, finish_double _ _ (by omega)]
    exact decide_eq_false (by omega)

/-- A difference of mantissas does not overflow. -/
theorem addAligned_apart_ovf {sa sb : Bool} (hs : sa ≠ sb) {e ma mb : Nat} (he : e < 128) (ha : ma < 2 ^ 56) (hb : mb < 2 ^ 56) :
    (addAligned sa sb e ma mb false).ovf = false := by
  rw [addAligned, if_neg hs]
  split
  · exact finishNormalized_ovf sa he (by omega)
  · exact finishNormalized_ovf sb he (by omega)

theorem signedMan_apart {sa sb : Bool} (hs : sa ≠ sb) {ma mb : Nat} (ha : ma < 2 ^ 56) (hb : mb < 2 ^ 56) :
    (signedMan sa ma + signedMan sb mb).natAbs < 2 ^ 56 := by
  have hsb : sb = !sa := Bool.eq_not_of_ne (Ne.symm hs)
  subst hsb
  cases sa <;> simp [signedMan] <;> omega

/-! ### Single precision results -/

/-- The low-order 32 bits of a result's value set to 0. -/
def cut (r : FloatResult) : FloatResult := { r with value := r.value &&& 0xFFFFFFFF00000000 }

theorem and_single (x : Quad) : x &&& 0xFFFFFFFF00000000 = toSingle x := by
  apply BitVec.eq_of_getLsbD_eq
  intro i hi
  have hmask : (0xFFFFFFFF00000000 : Quad).getLsbD i = decide (32 ≤ i) := by
    have h : (0xFFFFFFFF00000000 : Quad) = BitVec.allOnes 32 ++ 0#32 := rfl
    rw [h, BitVec.getLsbD_append]
    by_cases h32 : i < 32
    · simp [h32]
    · rw [if_neg h32, BitVec.getLsbD_allOnes, decide_eq_true (by omega), decide_eq_true (by omega)]
  rw [BitVec.getLsbD_and, hmask, toSingle, BitVec.getLsbD_append, BitVec.getLsbD_extractLsb']
  by_cases h32 : i < 32
  · simp [h32]
  · have h1 : i - 32 < 32 := by omega
    have h2 : 32 + (i - 32) = i := by omega
    have h3 : 32 ≤ i := by omega
    simp [h32, h1, h2, h3]

theorem toSingle_fpPack (s : Bool) (e : Int) {m : Nat} (hm : m < 2 ^ 56) :
    toSingle (fpPack s e m) = fpPack s e (m / 2 ^ 32 * 2 ^ 32) := by
  apply BitVec.eq_of_toNat_eq
  rw [toSingle_toNat, fpPack_toNat, fpPack_toNat]
  omega

theorem cut_clean (x : Quad) : cut (.clean x) = .clean (toSingle x) := by
  rw [cut, FloatResult.clean, and_single]
  rfl

theorem cut_zero : cut (.clean 0) = .clean 0 := rfl

theorem finish_single (s : Bool) (e : Int) {m : Nat} (hlo : 16 ^ 13 ≤ m) (hhi : m < 2 ^ 56) :
    finish s e m true = cut (finish s e m false) := by
  obtain ⟨hcut, -⟩ := truncated_normalized hlo
  rw [finish_double s e (by omega), cut, finish]
  simp only [if_true]
  rw [if_neg (by omega), and_single, toSingle_fpPack s e hhi]

theorem finishNormalized_single (s : Bool) (e : Int) {m : Nat} (hm : m < 2 ^ 56) :
    finishNormalized s e m true = cut (finishNormalized s e m false) := by
  by_cases h0 : m = 0
  · rw [h0, finishNormalized_zero, finishNormalized_zero, cut_zero]
  · obtain ⟨k, -, hfin, hlo, hhi⟩ := finishNormalized_spec s e h0 hm
    rw [hfin, hfin, finish_single s _ hlo hhi]

theorem addAligned_single (sa sb : Bool) (e : Int) {ma mb : Nat} (ha : ma < 2 ^ 56) (hb : mb < 2 ^ 56) :
    addAligned sa sb e ma mb true = cut (addAligned sa sb e ma mb false) := by
  rw [addAligned, addAligned]
  split
  · split
    · exact finish_single sa _ (by omega) (by omega)
    · exact finishNormalized_single sa e (by omega)
  · split
    · exact finishNormalized_single sa e (by omega)
    · exact finishNormalized_single sb e (by omega)

theorem floatAdd_single (a b : Quad) : floatAdd a b true = cut (floatAdd a b false) := by
  have hshift : ∀ (x : Quad) (k : Nat), fpMan x / 16 ^ k < 2 ^ 56 := fun x k => (Nat.div_le_self _ _).trans_lt (fpMan_lt x)
  by_cases hle : fpExp b ≤ fpExp a
  · by_cases h14 : fpExp a < fpExp b + 14
    · rw [floatAdd_aligned hle h14, floatAdd_aligned hle h14, addAligned_single _ _ _ (fpMan_lt a) (hshift b _)]
    · rw [floatAdd_far (by omega), floatAdd_far (by omega)]
      exact (cut_clean a).symm
  · by_cases h14 : fpExp b < fpExp a + 14
    · rw [floatAdd_aligned_source (by omega) h14, floatAdd_aligned_source (by omega) h14,
        addAligned_single _ _ _ (hshift a _) (fpMan_lt b)]
    · rw [floatAdd_far_source (by omega), floatAdd_far_source (by omega)]
      exact (cut_clean b).symm

theorem floatMul_single (a b : Quad) : floatMul a b true = cut (floatMul a (b &&& 0xFFFFFFFF00000000) false) := by
  rw [and_single, floatMul_eq, floatMul_eq]
  have hsource : mulSource b true = toSingle b := rfl
  have hsource' : mulSource (toSingle b) false = toSingle b := rfl
  rw [hsource, hsource']
  by_cases h0 : fpMan a * fpMan (toSingle b) = 0
  · rw [if_pos h0, if_pos h0, cut_zero]
  · obtain ⟨k, -, hlo, hhi⟩ := product_spec h0
    rw [if_neg h0, if_neg h0, finish_single _ _ hlo hhi]

/-- The single precision quotient has the digits that the double precision one has before the cut. -/
theorem quotient_single (a b : Quad) : quotient a b 24 = quotient a b 56 / 2 ^ 32 := by
  have hsplit : fpMan a * 2 ^ 56 = fpMan a * 2 ^ 24 * 2 ^ 32 := by ring
  rw [quotient, quotient, Nat.div_div_eq_div_mul, hsplit, Nat.mul_div_mul_right _ _ (by omega)]

theorem floatDiv_single {a b : Quad} (ha : 16 ^ 13 ≤ fpMan a) (hb : 16 ^ 13 ≤ fpMan b) :
    floatDiv a b true = cut (floatDiv a b false) := by
  obtain ⟨hlo, hhi⟩ := quotient_bounds ha hb 52
  have hlo' : 16 ^ 13 ≤ quotient a b 56 := le_of_eq_of_le (by norm_num) hlo
  have h1 : floatDiv a b true = finish (xor (fpSign a) (fpSign b)) (quotientExp a b) (quotient a b 24 * 2 ^ 32) true :=
    floatDiv_eq a b true
  have h2 : floatDiv a b false = finish (xor (fpSign a) (fpSign b)) (quotientExp a b) (quotient a b 56) false :=
    (floatDiv_eq a b false).trans (congrArg (finish _ _ · false) (Nat.mul_one _))
  obtain ⟨hcut, -⟩ := truncated_normalized hlo'
  rw [h1, h2, ← finish_single _ _ hlo' hhi, quotient_single, finish, finish]
  simp only [if_true, Nat.mul_div_cancel _ (show 0 < 2 ^ 32 by omega)]

/-- Settles O39, clause by clause: FMul, FDiv and FAdd by value, and the single precision results as cuts. -/
theorem floatArithmeticByValue : Obligations.FloatArithmeticByValue := by
  unfold Obligations.FloatArithmeticByValue
  intro a b
  have hla := fpMan_lt a
  have hshift : ∀ k, fpMan b / 16 ^ k < 2 ^ 56 := fun k => (Nat.div_le_self _ _).trans_lt (fpMan_lt b)
  refine ⟨fun h0 => floatMul_by_value h0, fun ha hb => ?_, fun hexp hsgn hu => ?_, floatAdd_comm a b false, ?_,
    fun hfar => floatAdd_far hfar false, floatAdd_single a b, floatMul_single a b, fun ha hb => ?_⟩
  · exact floatDiv_by_value ((fpNormalized_iff a).1 ha) ((fpNormalized_iff b).1 hb)
  · rw [floatAdd_aligned (by omega) (by omega), hexp, Nat.sub_self, Nat.pow_zero, Nat.div_one] at hu ⊢
    have hs : fpSign a ≠ fpSign b := hsgn
    have ho := addAligned_apart_ovf hs (fpExp_lt b) hla (fpMan_lt b)
    have hsum := addAligned_by_value (fpExp_lt b) hla (fpMan_lt b) ho hu
    rw [hsum.scaled (signedMan_apart hs hla (fpMan_lt b)), fpScaled_signed, fpScaled_signed, hexp, ← Int.add_mul]
    rfl
  · intro hle h14 small sum r ho hu
    have hr : r = addAligned (fpSign a) (fpSign b) (fpExp a) (fpMan a) small false := floatAdd_aligned hle h14 false
    rw [hr] at ho hu ⊢
    have hval : SumValue sum (fpExp a) _ := addAligned_by_value (fpExp_lt a) hla (hshift _) ho hu
    exact ⟨hval.scaled, hval.sign, hval.le, hval.lt⟩
  · exact floatDiv_single ((fpNormalized_iff a).1 ha) ((fpNormalized_iff b).1 hb)

end Sys2Proof.Proofs.Float
end

section
/-! SUPPORT. Decimal fields, the decimal instructions and their faults, EDIT (48_commercial.md). -/

namespace Sys2Proof.Proofs.Decimal

open Sys2Proof Sys2Proof.Machine Sys2Proof.Proofs.FixedPoint Sys2Proof.Proofs.Float Sys2Proof.Proofs.Bytes

-- Theorems elaborated side by side each hold a thread's stack, and the memory limit is near.
set_option Elab.async false

/-! ### One byte of a decimal field (R432, R433, R441) -/

/-- The byte that Encode writes for a role from the digits that are left. -/
def encodeByte (neg : Bool) (ds : List Nat) : ByteRole → Byte
  | .digit => digitChar (ds.headD 0)
  | .signDigit => signDigitChar neg (ds.headD 0)
  | .sign => if neg then 0x2D else 0x2B
  | .packed => BitVec.ofNat 8 (16 * ds.headD 0 + ds.tail.headD 0)
  | .packedLast => BitVec.ofNat 8 (16 * ds.headD 0 + packedSignCode neg)

/-- The byte carries the sign. -/
def carriesSign : ByteRole → Bool
  | .signDigit | .sign | .packedLast => true
  | .digit | .packed => false

theorem encodeField_cons (neg : Bool) (r : ByteRole) (rs : List ByteRole) (ds : List Nat) :
    encodeField neg (r :: rs) ds = encodeByte neg ds r :: encodeField neg rs (ds.drop r.digits) := by
  cases r with
  | digit => rw [encodeField, ByteRole.digits, List.drop_one]; rfl
  | signDigit => rw [encodeField, ByteRole.digits, List.drop_one]; rfl
  | sign => rfl
  | packed =>
    have hdrop : ds.drop 2 = ds.tail.tail := by rw [← List.drop_one, ← List.drop_one, List.drop_drop]
    rw [encodeField, ByteRole.digits, hdrop]
    rfl
  | packedLast => rw [encodeField, ByteRole.digits, List.drop_one]; rfl

theorem plainDigit_digitChar {d : Nat} (h : d ≤ 9) : plainDigit (digitChar d) = .ok d := by
  interval_cases d <;> rfl

theorem signedDigit_signDigitChar (neg : Bool) {d : Nat} (h : d ≤ 9) : signedDigit (signDigitChar neg d) = .ok (neg, d) := by
  cases neg <;> interval_cases d <;> rfl

theorem highHex_ofNat {h l : Nat} (hh : h ≤ 9) (hl : l ≤ 15) : highHex (BitVec.ofNat 8 (16 * h + l)) = h := by
  rw [highHex, BitVec.toNat_ofNat]
  omega

theorem lowHex_ofNat {h l : Nat} (hl : l ≤ 15) : lowHex (BitVec.ofNat 8 (16 * h + l)) = l := by
  rw [lowHex, BitVec.toNat_ofNat]
  omega

theorem hexDigit_le {h : Nat} (hh : h ≤ 9) : hexDigit h = .ok h := if_pos hh

theorem packedSign_packedSignCode (neg : Bool) : packedSign (packedSignCode neg) = .ok neg := by cases neg <;> rfl

theorem packedSignCode_le (neg : Bool) : packedSignCode neg ≤ 15 := by cases neg <;> decide

theorem signByte_sign (neg : Bool) : signByte (if neg then 0x2D else 0x2B) = .ok neg := by cases neg <;> rfl

/-- What Encode writes for a role, Decode reads back: the sign where the byte carries it, and its digits. -/
theorem decode_encodeByte (neg : Bool) {ds : List Nat} (r : ByteRole) (hlen : r.digits ≤ ds.length) (h9 : ∀ d ∈ ds, d ≤ 9) :
    r.decode (encodeByte neg ds r) = .ok (if carriesSign r then some neg else none, ds.take r.digits) := by
  cases r with
  | sign =>
    rw [ByteRole.decode, encodeByte, signByte_sign]
    rfl
  | digit =>
    obtain ⟨d, ds, rfl⟩ := List.exists_cons_of_length_pos hlen
    rw [ByteRole.decode, encodeByte, List.headD_cons, plainDigit_digitChar (h9 d List.mem_cons_self)]
    rfl
  | signDigit =>
    obtain ⟨d, ds, rfl⟩ := List.exists_cons_of_length_pos hlen
    rw [ByteRole.decode, encodeByte, List.headD_cons, signedDigit_signDigitChar neg (h9 d List.mem_cons_self)]
    rfl
  | packedLast =>
    obtain ⟨d, ds, rfl⟩ := List.exists_cons_of_length_pos hlen
    have hd : d ≤ 9 := h9 d List.mem_cons_self
    rw [ByteRole.decode, encodeByte, List.headD_cons, highHex_ofNat hd (packedSignCode_le neg),
      lowHex_ofNat (packedSignCode_le neg), hexDigit_le hd, packedSign_packedSignCode]
    rfl
  | packed =>
    match ds, hlen, h9 with
    | h :: l :: ds, _, h9 =>
      have hh : h ≤ 9 := h9 h List.mem_cons_self
      have hl : l ≤ 9 := h9 l (List.mem_cons_of_mem _ List.mem_cons_self)
      rw [ByteRole.decode, encodeByte, List.headD_cons, List.tail_cons, List.headD_cons, highHex_ofNat hh (by omega),
        lowHex_ofNat (by omega), hexDigit_le hh, hexDigit_le hl]
      rfl

/-! ### Fields -/

theorem lookBytes_succ (s : State) (p : Word) (n : Nat) : s.lookBytes p (n + 1) = s.lookByte p :: s.lookBytes (p + 1) n := by
  have hp : ∀ k, p + BitVec.ofNat 16 (k + 1) = p + 1 + BitVec.ofNat 16 k := fun k => by bv_omega
  have h0 : p + BitVec.ofNat 16 0 = p := BitVec.add_zero p
  rw [State.lookBytes, List.range_succ_eq_map, List.map_cons, List.map_map, h0]
  congr 1
  refine List.map_congr_left fun k _ => ?_
  rw [Function.comp_apply, Nat.succ_eq_add_one, hp]

theorem encodeField_length (neg : Bool) (rs : List ByteRole) : ∀ ds, (encodeField neg rs ds).length = rs.length := by
  induction rs with
  | nil => exact fun _ => rfl
  | cons r rs ih =>
    intro ds
    rw [encodeField_cons, List.length_cons, List.length_cons, ih]

/-- The sign of a field comes from the byte that carries one. -/
theorem sign_of_either (first rest neg old : Bool) :
    (if rest then neg else (if first then some neg else none).getD old) = if (first || rest) then neg else old := by
  cases first <;> cases rest <;> rfl

/-- Decode reads back what Encode writes, for any list of roles. -/
theorem decodeField_encodeField {s : State} (hc : s.calm = true) (neg : Bool) (rs : List ByteRole) :
    ∀ (ds : List Nat) (p : Word) (x : Decimal), ds.length = (rs.map ByteRole.digits).sum → (∀ d ∈ ds, d ≤ 9) →
      s.lookBytes p rs.length = encodeField neg rs ds →
      decodeField rs p x s = .ok (.ok { neg := if rs.any carriesSign then neg else x.neg, digits := x.digits ++ ds }) s := by
  induction rs with
  | nil =>
    intro ds p x hlen h9 hbytes
    have hds : ds = [] := List.length_eq_zero_iff.1 hlen
    subst hds
    rw [List.append_nil]
    rfl
  | cons r rs ih =>
    intro ds p x hlen h9 hbytes
    rw [List.map_cons, List.sum_cons] at hlen
    rw [List.length_cons, lookBytes_succ, encodeField_cons] at hbytes
    obtain ⟨hbyte, hrest⟩ := List.cons_eq_cons.1 hbytes
    have hdec := decode_encodeByte neg r (by omega) h9
    have hrec := ih (ds.drop r.digits) (p + 1)
      { neg := (if carriesSign r then some neg else none).getD x.neg, digits := x.digits ++ ds.take r.digits }
      (by rw [List.length_drop]; omega) (fun d hd => h9 d (List.mem_of_mem_drop hd)) hrest
    simp only [decodeField, Exec.bind_apply, byteRead_calm hc, hbyte, hdec, hrec, List.append_assoc, List.take_append_drop,
      List.any_cons]
    exact congrArg (fun g => EStateM.Result.ok (Except.ok (Decimal.mk g (x.digits ++ ds))) s) (sign_of_either _ _ _ _)

theorem fieldRoles_length {a : Attribute} (h : a.type ≤ 5) : (fieldRoles a).length = fieldBytes a := by
  obtain ⟨ty, n⟩ := a
  interval_cases ty <;> simp [fieldRoles, fieldBytes]

theorem fieldRoles_carriesSign {a : Attribute} (h : a.type ≤ 5) : (fieldRoles a).any carriesSign = (a.type != 4) := by
  obtain ⟨ty, n⟩ := a
  interval_cases ty <;> simp [fieldRoles, carriesSign]

/-- Settles O48: by induction on the bytes of the field. -/
theorem decimalFieldRoundTrip : Obligations.DecimalFieldRoundTrip := by
  unfold Obligations.DecimalFieldRoundTrip
  intro s a neg ds p hc ht hlen h9
  refine ⟨by rw [encodeField_length, fieldRoles_length ht], fun hbytes => ?_⟩
  rw [← fieldRoles_length ht] at hbytes
  rw [decodeDecimal, decodeField_encodeField hc neg (fieldRoles a) ds p _ hlen h9 hbytes, fieldRoles_carriesSign ht]
  cases neg <;> cases a.type != 4 <;> rfl

/-! ### Bytes stored change memory only -/

theorem putByte_eq_setMem (s : State) (p : Word) (b : Byte) : ∃ m, s.putByte p b = s.setMem m :=
  ⟨_, State.put_eq s _ _⟩

theorem putBytes_eq_setMem (bs : List Byte) : ∀ (s : State) (p : Word), ∃ m, s.putBytes bs p = s.setMem m := by
  induction bs with
  | nil => exact fun s p => ⟨s.mem, rfl⟩
  | cons b bs ih =>
    intro s p
    obtain ⟨m, hm⟩ := putByte_eq_setMem s p b
    obtain ⟨m', hm'⟩ := ih (s.putByte p b) (p + 1)
    refine ⟨m', ?_⟩
    rw [State.putBytes, hm', hm]
    rfl

/-! ### LDI (R440) -/

theorem needsEap_bind {α : Type} {s : State} (heap : s.cfg.hasEap = true) (w : Word) (m : Exec α) :
    (do needsEap w; m) s = m s := by
  simp only [Exec.bind_apply, needsEap_ok heap]

theorem setFree_setFpac (s : State) (n : Nat) (f : Acc) (r : Quad) : (s.setFree n).setFpac f r = (s.setFpac f r).setFree n := by
  cases f <;> rfl

/-- LDI of a field that it accepts. -/
theorem exec_ldi_ok {s : State} (heap : s.cfg.hasEap = true) (f : Acc) {r : Quad}
    (h : loadInteger (attributeOf s.ac1) s.ac3 s = .ok (.ok r) s) : exec (.ldi f) s =
      .next ((((((s.setFpac f r).setFpsr (setZN s.fpsr (decide (fpMan r = 0)) (r.msb && decide (fpMan r ≠ 0)))).setAc2
        s.ac3).setAc3 (Config.freeWord s.free)).setFree (s.free + 1)).setPc (s.pc + 1)) := by
  have hexec : exec (.ldi f) s = execLdi f s := rfl
  rw [hexec, execLdi]
  apply runExec_ok
  simp only [Exec.bind_apply, needsEap_ok heap, h, freshWord_apply, Exec.modify_apply, advance_apply, setFree_setFpac,
    State.setAc3_pc, State.setAc2_pc, State.setFpsr_pc, State.setFree_pc, State.setFpac_pc]
  rfl

/-- A decimal fault: AC2 the original AC3, AC3 as given, the code in AC1. -/
theorem decimalFault_calm {α : Type} {s : State} (hc : s.calm = true) {code p next : Word} {e : Addr}
    (hgoes : ((s.setAc2 p).setAc3 next).commercialGoes code e) :
    (decimalFault code p next : Exec α) s = .error .trap (((s.setAc2 p).setAc3 next).inCommercialFault code e) := by
  have hc' : ((s.setAc2 p).setAc3 next).calm = true := hc
  obtain ⟨hfollow, hover⟩ := hgoes
  simp only [decimalFault, Exec.bind_apply, Exec.modify_apply]
  exact commercialFault_calm hc' code (State.follow_chainFuel _ hfollow) hover

theorem exec_ldi_fault {s : State} (hc : s.calm = true) (heap : s.cfg.hasEap = true) (f : Acc) {x : DecimalError} {e : Addr}
    (h : loadInteger (attributeOf s.ac1) s.ac3 s = .ok (.error x) s)
    (hgoes : ((s.setAc2 s.ac3).setAc3 x.next).commercialGoes x.code e) :
    exec (.ldi f) s = .next (((s.setAc2 s.ac3).setAc3 x.next).inCommercialFault x.code e) := by
  have hexec : exec (.ldi f) s = execLdi f s := rfl
  rw [hexec, execLdi]
  apply runExec_trap
  simp only [Exec.bind_apply, needsEap_ok heap, h, decimalFault_calm hc hgoes]

section
variable {s : State} {a : Attribute} {p : Word}

theorem loadInteger_decimal (ht : a.type ≤ 5) {d : Decimal} (hd : decodeDecimal a p s = .ok (.ok d) s)
    (hv : decimalValue d.digits < 10 ^ 16) :
    loadInteger a p s = .ok (.ok (floatOfInt (signedNat d.neg (decimalValue d.digits)) false).value) s := by
  rw [loadInteger, if_pos ht]
  simp only [Exec.bind_apply, hd]
  rw [if_neg (by omega)]
  rfl

theorem loadInteger_decimal_large (ht : a.type ≤ 5) {d : Decimal} (hd : decodeDecimal a p s = .ok (.ok d) s)
    (hv : 10 ^ 16 ≤ decimalValue d.digits) :
    loadInteger a p s = .ok (.error { code := 4, next := p + BitVec.ofNat 16 (fieldBytes a) }) s := by
  rw [loadInteger, if_pos ht]
  simp only [Exec.bind_apply, hd]
  rw [if_pos (by omega)]
  rfl

theorem loadInteger_invalid (ht : a.type ≤ 5) {x : DecimalError} (hd : decodeDecimal a p s = .ok (.error x) s) :
    loadInteger a p s = .ok (.error x) s := by
  rw [loadInteger, if_pos ht]
  simp only [Exec.bind_apply, hd]
  rfl

theorem readBytes_lookBytes (hc : s.calm = true) (n : Nat) (p : Word) : readBytes n p s = .ok (s.lookBytes p n) s :=
  readBytes_calm s hc n p

theorem loadInteger_binary (hc : s.calm = true) (ht : a.type = 6)
    (hv : (bytesInt (s.lookBytes p (a.size + 1))).natAbs < 2 ^ 56) :
    loadInteger a p s = .ok (.ok (floatOfInt (bytesInt (s.lookBytes p (a.size + 1))) false).value) s := by
  rw [loadInteger, if_neg (by omega), if_pos ht]
  simp only [Exec.bind_apply, readBytes_lookBytes hc]
  rw [if_neg (by omega)]
  rfl

theorem loadInteger_binary_large (hc : s.calm = true) (ht : a.type = 6)
    (hv : 2 ^ 56 ≤ (bytesInt (s.lookBytes p (a.size + 1))).natAbs) :
    loadInteger a p s = .ok (.error { code := 4, next := p + BitVec.ofNat 16 (fieldBytes a) }) s := by
  rw [loadInteger, if_neg (by omega), if_pos ht]
  simp only [Exec.bind_apply, readBytes_lookBytes hc]
  rw [if_pos (by omega)]
  rfl

theorem loadInteger_float (hc : s.calm = true) (ht : a.type = 7) (hn : a.size ≤ 8) : loadInteger a p s =
    .ok (.ok (BitVec.ofNat 64 (bytesValue ((s.lookBytes p (a.size + 1) ++ List.replicate 8 0).take 8)))) s := by
  rw [loadInteger, if_neg (by omega), if_neg (by omega), if_neg (by omega)]
  simp only [Exec.bind_apply, readBytes_lookBytes hc, Exec.pure_apply]

theorem loadInteger_float_long (ht : a.type = 7) (hn : 8 < a.size) :
    loadInteger a p s = .ok (.error { code := 1, next := p }) s := by
  rw [loadInteger, if_neg (by omega), if_neg (by omega), if_pos hn]
  rfl

end

/-! ### LDIX (R442) -/

/-- The free-value counter and the floating point registers are apart. -/
theorem setFree_loaded (s : State) (n : Nat) (q0 q1 q2 q3 : Quad) (r : BitVec 32) :
    (((((s.setFree n).setFpac0 q3).setFpac1 q2).setFpac2 q1).setFpac3 q0).setFpsr r =
      (((((s.setFpac0 q3).setFpac1 q2).setFpac2 q1).setFpac3 q0).setFpsr r).setFree n := rfl

theorem exec_ldix {s : State} (heap : s.cfg.hasEap = true) (ht : (attributeOf s.ac1).type ≤ 5) {d : Decimal}
    (hd : decodeDecimal (attributeOf s.ac1) s.ac3 s = .ok (.ok d) s) {part : Nat → Quad}
    (hpart : ∀ j, eightDigits d.neg (decimalValue d.digits) j = part j) :
    let flags := Config.freeWord (s.free + 1)
    exec .ldix s = .next (((((((((s.setFpac0 (part 3)).setFpac1 (part 2)).setFpac2 (part 1)).setFpac3
      (part 0)).setFpsr (setZN s.fpsr (flags.getMsbD 0) (flags.getMsbD 1))).setAc2 s.ac3).setAc3 (Config.freeWord s.free)).setFree
      (s.free + 2)).setPc (s.pc + 1)) := by
  intro flags
  have hexec : exec .ldix s = execLdix s := rfl
  rw [hexec, execLdix]
  apply runExec_ok
  simp only [Exec.bind_apply, needsEap_ok heap, if_neg (show ¬ 6 ≤ (attributeOf s.ac1).type by omega), hd, freshWord_apply,
    Exec.modify_apply, advance_apply, hpart, setFree_loaded]
  have hpc : ((((s.setFpac0 (part 3)).setFpac1 (part 2)).setFpac2 (part 1)).setFpac3 (part 0)).pc = s.pc := rfl
  generalize ((((s.setFpac0 (part 3)).setFpac1 (part 2)).setFpac2 (part 1)).setFpac3 (part 0)) = t at hpc ⊢
  rw [← hpc]
  rfl

/-! ### LSN (R445) -/

theorem exec_lsn {s : State} (heap : s.cfg.hasEap = true) {zero neg : Bool}
    (h : signOfNumber (attributeOf s.ac1) s.ac3 s = .ok (.ok (zero, neg)) s) : exec .lsn s =
      .next (((((s.setAc1 (if zero then (if neg then 0o177776 else 0) else if neg then 0o177777 else 1)).setAc2 s.ac3).setAc3
        (Config.freeWord s.free)).setFree (s.free + 1)).setPc (s.pc + 1)) := by
  have hcode : signCode zero neg = if zero then (if neg then 0o177776 else 0) else if neg then 0o177777 else 1 := by
    cases zero <;> cases neg <;> rfl
  have hexec : exec .lsn s = execLsn s := rfl
  rw [hexec, execLsn, ← hcode]
  apply runExec_ok
  simp only [Exec.bind_apply, needsEap_ok heap, h, freshWord_apply, Exec.modify_apply, advance_apply]
  rfl

section
variable {s : State} {a : Attribute} {p : Word}

theorem signOfNumber_decimal (ht : a.type ≤ 5) {d : Decimal} (hd : decodeDecimal a p s = .ok (.ok d) s) :
    signOfNumber a p s = .ok (.ok (d.digits.all (· == 0), d.neg)) s := by
  rw [signOfNumber, if_pos ht]
  simp only [Exec.bind_apply, hd]
  rfl

theorem signOfNumber_binary (hc : s.calm = true) (ht : a.type = 6) : signOfNumber a p s =
    .ok (.ok (decide (bytesInt (s.lookBytes p (a.size + 1)) = 0), decide (bytesInt (s.lookBytes p (a.size + 1)) < 0))) s := by
  rw [signOfNumber, if_neg (by omega)]
  simp only [Exec.bind_apply, readBytes_lookBytes hc]
  rw [if_pos ht]
  rfl

theorem signOfNumber_float (hc : s.calm = true) (ht : a.type = 7) : signOfNumber a p s =
    .ok (.ok ((s.lookBytes p (a.size + 1)).tail.all (· == 0), ((s.lookBytes p (a.size + 1)).headD 0).msb)) s := by
  rw [signOfNumber, if_neg (by omega)]
  simp only [Exec.bind_apply, readBytes_lookBytes hc]
  rw [if_neg (by omega)]
  rfl

end

/-! ### STI and STIX (R441, R443) -/

theorem exec_sti {s : State} (hc : s.calm = true) (heap : s.cfg.hasEap = true) (f : Acc)
    (hx : fpMagnitude (s.fpac f) ≤ 10 ^ 16 * 16 ^ 78) {bs : List Byte} {c : Bool}
    (h : storeInteger (attributeOf s.ac1) (s.fpac f) = (bs, c)) : exec (.sti f) s =
      .next (((((((s.setCarry c).putBytes bs s.ac3).setAc2 s.ac3).setAc3
        (s.ac3 + BitVec.ofNat 16 (fieldBytes (attributeOf s.ac1)))).setAc0 (Config.freeWord s.free)).setFree (s.free + 1)).setPc
        (s.pc + 1)) := by
  have hrange : storeOutOfRange (s.fpac f) = false := decide_eq_false (Nat.not_lt.2 hx)
  have hcarry : (s.setCarry c).calm = true := hc
  obtain ⟨m, hm⟩ := putBytes_eq_setMem bs (s.setCarry c) s.ac3
  have hexec : exec (.sti f) s = execSti f s := rfl
  rw [hexec, execSti]
  apply runExec_ok
  simp only [Exec.bind_apply, needsEap_ok heap, hrange, Bool.false_eq_true, if_false, h, Exec.modify_apply,
    writeBytes_calm bs _ _ hcarry, freshWord_apply, advance_apply, hm]
  rfl

theorem exec_stix {s : State} (hc : s.calm = true) (heap : s.cfg.hasEap = true) (ht : (attributeOf s.ac1).type ≤ 5)
    {bs : List Byte} {c : Bool}
    (hbs : encodeField (fpSign s.fpac0 || fpSign s.fpac1 || fpSign s.fpac2 || fpSign s.fpac3) (fieldRoles (attributeOf s.ac1))
      (decimalDigits (fieldDigits (attributeOf s.ac1)) (s.extendedNumber % 10 ^ fieldDigits (attributeOf s.ac1))) = bs)
    (hover : decide (10 ^ fieldDigits (attributeOf s.ac1) ≤ s.extendedNumber) = c) :
    let flags := Config.freeWord s.free
    exec .stix s = .next (((((((s.setCarry c).putBytes bs s.ac3).setFpsr
        (setZN s.fpsr (flags.getMsbD 0) (flags.getMsbD 1))).setAc2 s.ac3).setAc3
        (s.ac3 + BitVec.ofNat 16 (fieldBytes (attributeOf s.ac1)))).setFree (s.free + 1)).setPc (s.pc + 1)) := by
  intro flags
  have hcarry : (s.setCarry c).calm = true := hc
  have hsix : ¬ 6 ≤ (attributeOf s.ac1).type := by omega
  obtain ⟨m, hm⟩ := putBytes_eq_setMem bs (s.setCarry c) s.ac3
  have hexec : exec .stix s = execStix s := rfl
  rw [hexec, execStix]
  apply runExec_ok
  simp only [Exec.bind_apply, needsEap_ok heap, if_neg hsix, Exec.modify_apply, hbs, hover, writeBytes_calm bs _ _ hcarry,
    freshWord_apply, advance_apply, hm]
  rfl

/-! ### The bytes of a number (R434) -/

theorem numberBytes_eq (n v : Nat) : numberBytes n v = (List.range n).map fun i => BitVec.ofNat 8 (v / 256 ^ (n - 1 - i)) := by
  induction n with
  | zero => rfl
  | succ n ih =>
    rw [numberBytes, ih, List.range_succ_eq_map, List.map_cons, List.map_map]
    congr 1
    refine List.map_congr_left fun i _ => ?_
    rw [Function.comp_apply, show n + 1 - 1 - (i + 1) = n - 1 - i by omega]

/-- A byte of a number within the field does not depend on the reduction to the field's length. -/
theorem byte_of_reduced (z : Int) {n j : Nat} (hj : j < n) :
    BitVec.ofNat 8 ((z % (256 ^ n : Nat)).toNat / 256 ^ j) = BitVec.ofInt 8 (z / 256 ^ j) := by
  have hpow : (256 : Int) ^ n = 256 ^ j * (256 * 256 ^ (n - 1 - j)) := by
    rw [← pow_succ', ← pow_add, show j + (n - 1 - j + 1) = n by omega]
  have hpos : (0 : Int) < 256 ^ n := by positivity
  have hposj : (0 : Int) < 256 ^ j := by positivity
  have hnn : 0 ≤ z % 256 ^ n := Int.emod_nonneg _ hpos.ne'
  have hquot : z / 256 ^ j = z % 256 ^ n / 256 ^ j + 256 * 256 ^ (n - 1 - j) * (z / 256 ^ n) := by
    have hsplit : z = z % 256 ^ n + 256 ^ j * (256 * 256 ^ (n - 1 - j) * (z / 256 ^ n)) := by
      rw [← mul_assoc, ← hpow]
      exact (Int.emod_add_mul_ediv z _).symm
    calc z / 256 ^ j = (z % 256 ^ n + 256 ^ j * (256 * 256 ^ (n - 1 - j) * (z / 256 ^ n))) / 256 ^ j := by rw [← hsplit]
      _ = _ := Int.add_mul_ediv_left _ _ hposj.ne'
  have hcast : (((z % 256 ^ n).toNat / 256 ^ j : Nat) : Int) = z % 256 ^ n / 256 ^ j := by
    push_cast
    rw [Int.toNat_of_nonneg hnn]
  have hofInt : BitVec.ofNat 8 ((z % 256 ^ n).toNat / 256 ^ j) = BitVec.ofInt 8 (z % 256 ^ n / 256 ^ j) := by
    rw [← hcast, BitVec.ofInt_natCast]
  push_cast
  rw [hofInt, hquot]
  apply BitVec.eq_of_toNat_eq
  rw [BitVec.toNat_ofInt, BitVec.toNat_ofInt, mul_assoc]
  have hmod : ∀ x y : Int, (x + 256 * y) % (2 ^ 8 : Nat) = x % (2 ^ 8 : Nat) := fun x y => by omega
  rw [hmod]

theorem signedNat_eq (x : Quad) : signedNat (fpSign x && decide (fpIntegerPart x ≠ 0)) (fpIntegerPart x) =
    if x.msb then -(fpIntegerPart x : Int) else fpIntegerPart x := by
  rw [fpSign_eq_msb, signedNat]
  by_cases h0 : fpIntegerPart x = 0
  · rw [h0]
    cases x.msb <;> rfl
  · rw [decide_eq_true h0, Bool.and_true]

/-- The field of STI does not hold a two's complement number out of its range (R441). -/
theorem storeOverflow_eq (x : Quad) (b : Nat) :
    (if (fpSign x && decide (fpIntegerPart x ≠ 0)) = true then decide (2 ^ b < fpIntegerPart x)
      else decide (2 ^ b - 1 < fpIntegerPart x)) =
    decide ((if x.msb then -(fpIntegerPart x : Int) else fpIntegerPart x) < -2 ^ b
      ∨ 2 ^ b ≤ if x.msb then -(fpIntegerPart x : Int) else fpIntegerPart x) := by
  have hpos : 0 < 2 ^ b := Nat.two_pow_pos b
  have hcast : ((2 ^ b : Nat) : Int) = 2 ^ b := by push_cast; rfl
  rw [fpSign_eq_msb, ← hcast]
  generalize 2 ^ b = m at hpos ⊢
  cases x.msb with
  | false =>
    simp only [Bool.false_and, Bool.false_eq_true, if_false]
    exact decide_eq_decide.2 (by omega)
  | true =>
    by_cases h0 : fpIntegerPart x = 0
    · rw [h0]
      simp
      omega
    · rw [decide_eq_true h0]
      simp only [Bool.and_self, if_true]
      exact decide_eq_decide.2 (by omega)

theorem storeInteger_decimal {a : Attribute} (ht : a.type ≤ 5) (x : Quad) : storeInteger a x =
    (encodeField (x.msb && decide (fpIntegerPart x ≠ 0)) (fieldRoles a)
      (decimalDigits (fieldDigits a) (fpIntegerPart x % 10 ^ fieldDigits a)), decide (10 ^ fieldDigits a ≤ fpIntegerPart x)) :=
  if_pos ht

theorem storeInteger_binary {a : Attribute} (ht : a.type = 6) (x : Quad) :
    let z : Int := if x.msb then -(fpIntegerPart x : Int) else fpIntegerPart x
    storeInteger a x = ((List.range (a.size + 1)).map fun i => BitVec.ofInt 8 (z / 256 ^ (a.size + 1 - 1 - i)),
      decide (z < -2 ^ (8 * (a.size + 1) - 1) ∨ 2 ^ (8 * (a.size + 1) - 1) ≤ z)) := by
  intro z
  rw [storeInteger]
  simp only
  rw [if_neg (by omega), if_pos ht, storeOverflow_eq, numberBytes_eq, signedNat_eq]
  congr 1
  refine List.map_congr_left fun i hi => ?_
  have hin : i < a.size + 1 := List.mem_range.1 hi
  exact byte_of_reduced z (by omega)

/-- The bytes of a number, from its high-order end. -/
theorem numberBytes_quad (x : Quad) : numberBytes 8 x.toNat = (List.range 8).map fun i => x.extractLsb' (56 - 8 * i) 8 := by
  rw [numberBytes_eq]
  refine List.map_congr_left fun i hi => ?_
  have hin : i < 8 := List.mem_range.1 hi
  apply BitVec.eq_of_toNat_eq
  rw [BitVec.toNat_ofNat, BitVec.extractLsb'_toNat, Nat.shiftRight_eq_div_pow, show 56 - 8 * i = 8 * (8 - 1 - i) by omega, Nat.pow_mul]

theorem storeInteger_float {a : Attribute} (ht : a.type = 7) (x : Quad) : storeInteger a x =
    ((((List.range 8).map fun i => x.extractLsb' (56 - 8 * i) 8) ++ List.replicate a.size 0).take (a.size + 1), false) := by
  rw [storeInteger]
  simp only
  rw [if_neg (by omega), if_neg (by omega), numberBytes_quad]

/-- Settles O47, instruction by instruction: what the field decodes to, and what is stored. -/
theorem decimalLoadsAndStores : Obligations.DecimalLoadsAndStores := by
  unfold Obligations.DecimalLoadsAndStores
  intro s f a d hc heap ha
  subst ha
  intro p past undef bs v signed loaded stored scanned x g k n w
  refine ⟨fun ht hd => ⟨fun hv => ?_, ?_, ?_⟩, fun ht => ⟨fun hv => ?_, ?_⟩,
    fun ht => ⟨fun hn => ?_, ?_⟩, fun hx => ⟨fun ht => ?_, fun ht => ?_, fun ht => ?_⟩,
    fun ht => ?_⟩
  · exact exec_ldi_ok heap f (loadInteger_decimal ht hd hv)
  · refine ⟨(Config.freeWord (s.free + 1)).getMsbD 0, (Config.freeWord (s.free + 1)).getMsbD 1, ?_⟩
    intro part
    exact exec_ldix heap ht hd (part := part) fun _ => rfl
  · exact exec_lsn heap (signOfNumber_decimal ht hd)
  · exact exec_ldi_ok heap f (loadInteger_binary hc ht hv)
  · exact exec_lsn heap (signOfNumber_binary hc ht)
  · exact exec_ldi_ok heap f (loadInteger_float hc ht hn)
  · exact exec_lsn heap (signOfNumber_float hc ht)
  · exact exec_sti hc heap f hx (storeInteger_decimal ht x)
  · exact exec_sti hc heap f hx (storeInteger_binary ht x)
  · exact exec_sti hc heap f hx (storeInteger_float ht x)
  · exact ⟨(Config.freeWord s.free).getMsbD 0, (Config.freeWord s.free).getMsbD 1, exec_stix hc heap ht rfl rfl⟩

/-! ### Faults (R440 to R443, R450) -/

/-- A free value in a byte is what a store of that byte would leave. -/
theorem spoilByte_calm {s : State} (hc : s.calm = true) (p : Word) : spoilByte p s =
    .ok () ((s.putByte p ((Config.freeWord s.free).setWidth 8)).setFree (s.free + 1)) := by
  have hc' : (s.setFree (s.free + 1)).calm = true := hc
  have ht : (s.setFree (s.free + 1)).translate false true (bytePtrAddr p) = .ok (s.unmapped (bytePtrAddr p)) := by
    simp [State.translate, ((State.calm_iff _).1 hc').2]
    rfl
  simp only [spoilByte, Exec.bind_apply, freshWord_apply, Exec.modify_apply, ht, loByte_eq_setWidth]
  rw [State.putByte, State.put_of_calm hc, State.look_of_calm hc, State.content, State.physWrite, State.physWrite, State.setFree_cfg]
  by_cases hm : s.unmapped (bytePtrAddr p) < s.cfg.memWords
  · rw [if_pos hm, if_pos hm, if_pos hm]
    rfl
  · rw [if_neg hm, if_neg hm]

theorem spoilBytes_calm (n : Nat) : ∀ {s : State} (p : Word), s.calm = true → spoilBytes n p s = .ok () (State.spoiled n p s) ∧
    (State.spoiled n p s).calm = true := by
  induction n with
  | zero => exact fun p hc => ⟨rfl, hc⟩
  | succ n ih =>
    intro s p hc
    have hc' : ((s.putByte p ((Config.freeWord s.free).setWidth 8)).setFree (s.free + 1)).calm = true :=
      (State.putByte_calm s p _).trans hc
    obtain ⟨hrun, hcalm⟩ := ih (p + 1) hc'
    refine ⟨?_, hcalm⟩
    simp only [spoilBytes, Exec.bind_apply, spoilByte_calm hc, hrun]
    rfl

theorem decimalFaultFree_calm {α : Type} {s : State} (hc : s.calm = true) {code p : Word} {e : Addr}
    (hgoes : (((s.setFree (s.free + 1)).setAc2 p).setAc3 (Config.freeWord s.free)).commercialGoes code e) :
    (decimalFaultFree code p : Exec α) s =
      .error .trap ((((s.setFree (s.free + 1)).setAc2 p).setAc3 (Config.freeWord s.free)).inCommercialFault code e) := by
  have hc' : (s.setFree (s.free + 1)).calm = true := hc
  simp only [decimalFaultFree, Exec.bind_apply, freshWord_apply]
  exact decimalFault_calm hc' hgoes

theorem exec_sti_fault {s : State} (hc : s.calm = true) (heap : s.cfg.hasEap = true) (f : Acc) {e : Addr}
    (hx : 10 ^ 16 * 16 ^ 78 < fpMagnitude (s.fpac f)) :
    let w := State.spoiled (fieldBytes (attributeOf s.ac1)) s.ac3 s
    let u := ((w.setFree (w.free + 1)).setAc2 s.ac3).setAc3 (Config.freeWord w.free)
    u.commercialGoes 4 e → exec (.sti f) s = .next (u.inCommercialFault 4 e) := by
  intro w u hgoes
  obtain ⟨hspoil, hcw⟩ := spoilBytes_calm (fieldBytes (attributeOf s.ac1)) s.ac3 hc
  have hrange : storeOutOfRange (s.fpac f) = true := decide_eq_true hx
  have hexec : exec (.sti f) s = execSti f s := rfl
  rw [hexec, execSti]
  apply runExec_trap
  simp only [Exec.bind_apply, needsEap_ok heap, hrange, if_true, hspoil]
  exact decimalFaultFree_calm hcw hgoes

section
variable {s : State} {e : Addr} (hc : s.calm = true) (heap : s.cfg.hasEap = true) (ht : 6 ≤ (attributeOf s.ac1).type)
include hc heap ht

theorem exec_ldix_fault (hgoes : (((s.setFree (s.free + 1)).setAc2 s.ac3).setAc3 (Config.freeWord s.free)).commercialGoes 1 e) :
    exec .ldix s =
      .next ((((s.setFree (s.free + 1)).setAc2 s.ac3).setAc3 (Config.freeWord s.free)).inCommercialFault 1 e) := by
  have hexec : exec .ldix s = execLdix s := rfl
  rw [hexec, execLdix]
  apply runExec_trap
  simp only [Exec.bind_apply, needsEap_ok heap, if_pos ht, decimalFaultFree_calm hc hgoes]

theorem exec_stix_fault (hgoes : (((s.setFree (s.free + 1)).setAc2 s.ac3).setAc3 (Config.freeWord s.free)).commercialGoes 1 e) :
    exec .stix s =
      .next ((((s.setFree (s.free + 1)).setAc2 s.ac3).setAc3 (Config.freeWord s.free)).inCommercialFault 1 e) := by
  have hexec : exec .stix s = execStix s := rfl
  rw [hexec, execStix]
  apply runExec_trap
  simp only [Exec.bind_apply, needsEap_ok heap, if_pos ht, decimalFaultFree_calm hc hgoes]

theorem exec_edit_fault (h0 : s.ac0 ≠ 0o177777) (hgoes : s.commercialGoes 1 e) :
    exec .edit s = .next (s.inCommercialFault 1 e) := by
  obtain ⟨hfollow, hover⟩ := hgoes
  have hexec : exec .edit s = execEdit s := rfl
  rw [hexec, execEdit]
  apply runExec_trap
  simp only [Exec.bind_apply, needsEap_ok heap, if_neg h0, if_pos ht]
  exact commercialFault_calm hc 1 (State.follow_chainFuel _ hfollow) hover

end

/-- Settles O51, fault by fault. -/
theorem commercialFaults : Obligations.CommercialFaults := by
  unfold Obligations.CommercialFaults
  intro s f e hc heap a p t
  refine ⟨?_, ?_, ?_, ?_, ?_, fun ht hgoes => ⟨exec_ldix_fault hc heap ht hgoes, exec_stix_fault hc heap ht hgoes⟩,
    fun ht h0 hgoes => exec_edit_fault hc heap ht h0 hgoes⟩
  · intro x ht hd u hgoes
    exact exec_ldi_fault hc heap f (loadInteger_invalid ht hd) hgoes
  · intro d ht hd hv u hgoes
    exact exec_ldi_fault (x := { code := 4, next := p + BitVec.ofNat 16 (fieldBytes a) }) hc heap f (loadInteger_decimal_large ht hd hv) hgoes
  · intro n u ht hn hgoes
    exact exec_ldi_fault (x := { code := 4, next := p + BitVec.ofNat 16 (fieldBytes a) }) hc heap f (loadInteger_binary_large hc ht hn) hgoes
  · intro u ht hn hgoes
    exact exec_ldi_fault (x := { code := 1, next := p }) hc heap f (loadInteger_float_long ht hn) hgoes
  · intro w u hx hgoes
    exact exec_sti_fault hc heap f hx hgoes

/-! ### The parts of EDIT's operations (R451) -/

theorem word_add_two (p : Word) : p + 1 + 1 = p + 2 := by bv_omega

theorem word_add_three (p : Word) : p + 1 + 2 = p + 3 := by bv_omega

theorem word_add_five (p : Word) : p + 1 + 4 = p + 5 := by bv_omega

theorem past_zero (e : Edit) : e.past 0 = { e with p := e.p + 1 } := by
  have h : e.p + 1 + 0 = e.p + 1 := BitVec.add_zero _
  rw [Edit.past, h]

theorem past_one (e : Edit) : e.past 1 = { e with p := e.p + 2 } := by rw [Edit.past, word_add_two]

theorem past_two (e : Edit) : e.past 2 = { e with p := e.p + 3 } := by rw [Edit.past, word_add_three]

theorem past_four (e : Edit) : e.past 4 = { e with p := e.p + 5 } := by rw [Edit.past, word_add_five]

theorem operand_calm {s : State} (hc : s.calm = true) (e : Edit) (k : Word) :
    e.operand k s = .ok (s.lookByte (e.p + 1 + k)) s := byteRead_calm hc _

theorem put_calm {s : State} (hc : s.calm = true) (e : Edit) (c : Byte) :
    e.put c s = .ok { e with di := e.di + 1 } (s.putByte e.di c) := by
  simp only [Edit.put, Exec.bind_apply, byteWrite_calm hc, Exec.pure_apply]

theorem repeatCount_calm {s : State} (hc : s.calm = true) (j : Byte) : repeatCount j s = .ok (s.repeats j) s := by
  rw [repeatCount, State.repeats]
  cases j.msb with
  | true =>
    simp only [if_true, Exec.bind_apply, memRead_calm hc, addrOf_eq_setWidth]
    rfl
  | false =>
    simp only [Bool.false_eq_true, if_false]
    rfl

/-- The stack word that an operand byte selects (R463), in 15 bits. -/
theorem stackWord_address (w : Word) (k : Byte) :
    addrOf (w + 1 + k.signExtend 16) = w.setWidth 15 + 1 + k.signExtend 15 := by
  have hk : (k.signExtend 16).setWidth 15 = k.signExtend 15 := by
    apply BitVec.eq_of_getLsbD_eq
    intro i hi
    rw [BitVec.getLsbD_setWidth, BitVec.getLsbD_signExtend, BitVec.getLsbD_signExtend]
    have h16 : i < 16 := by omega
    simp [hi, h16]
  rw [addrOf_eq_setWidth, BitVec.setWidth_add _ _ (by omega), BitVec.setWidth_add _ _ (by omega), hk]
  rfl

theorem stackWord_calm {s : State} (hc : s.calm = true) (k : Byte) : stackWord k s =
    .ok ((if k.msb then s.look 0o40 else s.look 0o41).setWidth 15 + 1 + k.signExtend 15) s := by
  have hread : memRead (if k.msb then 0o40 else 0o41) s = .ok (if k.msb then s.look 0o40 else s.look 0o41) s := by
    rw [memRead_calm hc]
    split <;> rfl
  simp only [stackWord, Exec.bind_apply, hread, stackWord_address]
  rfl

theorem zeroExtend_eq (b : Byte) : b.zeroExtend 16 = b.setWidth 16 := rfl

/-! ### Repeated parts -/

theorem repeatEdit_succ_ok {body : Edit → Exec Edit} {e e' : Edit} {s t : State} (h : body e s = .ok e' t) (n : Nat) :
    repeatEdit body (n + 1) e s = repeatEdit body n e' t := by
  simp only [repeatEdit, Exec.bind_apply, h]

theorem repeatEdit_succ_error {body : Edit → Exec Edit} {e : Edit} {s t : State} {x : Stop} (h : body e s = .error x t) (n : Nat) :
    repeatEdit body (n + 1) e s = .error x t := by
  simp only [repeatEdit, Exec.bind_apply, h]

/-- A part that goes through given edits and states. -/
theorem repeatEdit_steps {body : Edit → Exec Edit} {E : Nat → Edit} {S : Nat → State} (n : Nat) : ∀ k,
    (∀ j, k ≤ j → j < k + n → body (E j) (S j) = .ok (E (j + 1)) (S (j + 1))) →
    repeatEdit body n (E k) (S k) = .ok (E (k + n)) (S (k + n)) := by
  induction n with
  | zero => exact fun k _ => rfl
  | succ n ih =>
    intro k h
    rw [repeatEdit_succ_ok (h k le_rfl (by omega)), ih (k + 1) fun j hk hj => h j (by omega) (by omega), show k + 1 + n = k + (n + 1) by omega]

/-- A part that goes through k edits and states and then fails. -/
theorem repeatEdit_fails {body : Edit → Exec Edit} {E : Nat → Edit} {S : Nat → State} {x : Stop} {t : State} {n : Nat} (m : Nat) :
    ∀ k, (∀ j, k ≤ j → j < k + m → body (E j) (S j) = .ok (E (j + 1)) (S (j + 1))) →
    body (E (k + m)) (S (k + m)) = .error x t → m < n → repeatEdit body n (E k) (S k) = .error x t := by
  induction m generalizing n with
  | zero =>
    intro k _ hfail hn
    obtain ⟨n, rfl⟩ : ∃ n', n = n' + 1 := ⟨n - 1, by omega⟩
    exact repeatEdit_succ_error hfail n
  | succ m ih =>
    intro k h hfail hn
    obtain ⟨n, rfl⟩ : ∃ n', n = n' + 1 := ⟨n - 1, by omega⟩
    rw [repeatEdit_succ_ok (h k le_rfl (by omega))]
    exact ih (k + 1) (fun j hk hj => h j (by omega) (by omega)) (by rwa [show k + 1 + m = k + (m + 1) by omega]) (by omega)

/-! ### Characters moved (R466, R470, R472, DICI) -/

theorem copied_calm {s : State} (hc : s.calm = true) (src dst : Word) (n : Nat) : (s.copied src dst n).calm = true := by
  induction n with
  | zero => exact hc
  | succ n ih => rw [State.copied, State.putByte_calm, ih]

theorem add_ofNat_succ (p : Word) (k : Nat) : p + BitVec.ofNat 16 k + 1 = p + BitVec.ofNat 16 (k + 1) := by
  rw [BitVec.add_assoc]
  congr 1
  exact (BitVec.ofNat_add k 1).symm

theorem add_ofNat_zero (p : Word) : p + BitVec.ofNat 16 0 = p := BitVec.add_zero p

/-- The edit after k characters have been moved. -/
def Edit.movedChars (e : Edit) (k : Nat) : Edit := { (e.siMoved k) with di := e.di + BitVec.ofNat 16 k }

theorem movedChars_zero (e : Edit) : Edit.movedChars e 0 = e := by
  rw [Edit.movedChars, Edit.siMoved, add_ofNat_zero, add_ofNat_zero, List.range_zero, List.any_nil, Bool.or_false]

theorem isOutside_congr {e f : Edit} (ha : e.attr = f.attr) (hs : e.source = f.source) (hi : e.si = f.si) (hl : e.low = f.low) :
    e.isOutside = f.isOutside := by
  rw [Edit.isOutside, Edit.isOutside, Edit.position, Edit.position, ha, hs, hi, hl]

theorem moveSi_movedChars (e : Edit) (k : Nat) :
    Edit.moveSi { Edit.movedChars e k with di := e.di + BitVec.ofNat 16 (k + 1) } 1 = Edit.movedChars e (k + 1) := by
  have hout : Edit.isOutside { e with si := e.si + BitVec.ofNat 16 (k + 1) } =
      Edit.isOutside { Edit.movedChars e k with di := e.di + BitVec.ofNat 16 (k + 1), si := e.si + BitVec.ofNat 16 (k + 1) } :=
    isOutside_congr rfl rfl rfl rfl
  have hsi : (Edit.movedChars e k).si + 1 = e.si + BitVec.ofNat 16 (k + 1) := add_ofNat_succ _ _
  rw [Edit.moveSi, Edit.noteOutside, hsi]
  simp only [← hout]
  rw [Edit.movedChars, Edit.movedChars, Edit.siMoved, Edit.siMoved, List.range_succ, List.any_append, List.any_cons, List.any_nil,
    Bool.or_false, Bool.or_assoc]

/-- One character moved; DMVA's alphabetic ones only. -/
theorem moveChar_step {s : State} (hc : s.calm = true) (e : Edit) (alpha : Bool) (k : Nat)
    (hletter : (alpha && !isAlphabetic ((s.copied e.si e.di k).lookByte (e.si + BitVec.ofNat 16 k))) = false) :
    Edit.moveChar alpha (Edit.movedChars e k) (s.copied e.si e.di k) =
      .ok (Edit.movedChars e (k + 1)) (s.copied e.si e.di (k + 1)) := by
  have hck := copied_calm hc e.si e.di k
  have hread : byteRead (Edit.movedChars e k).si (s.copied e.si e.di k) =
      .ok ((s.copied e.si e.di k).lookByte (e.si + BitVec.ofNat 16 k)) (s.copied e.si e.di k) := byteRead_calm hck _
  have hput := put_calm hck (Edit.movedChars e k) ((s.copied e.si e.di k).lookByte (e.si + BitVec.ofNat 16 k))
  have hdi : (Edit.movedChars e k).di + 1 = e.di + BitVec.ofNat 16 (k + 1) := add_ofNat_succ _ _
  rw [hdi] at hput
  simp only [Edit.moveChar, Exec.bind_apply, hread, hletter, Bool.false_eq_true, if_false, hput, moveSi_movedChars]
  rfl

/-- A character that is no letter (R470). -/
theorem moveChar_fault {s : State} (hc : s.calm = true) (e : Edit) (k : Nat)
    (hletter : isAlphabetic ((s.copied e.si e.di k).lookByte (e.si + BitVec.ofNat 16 k)) = false) :
    Edit.moveChar true (Edit.movedChars e k) (s.copied e.si e.di k) = editFault (Edit.movedChars e k) 3 (s.copied e.si e.di k) := by
  have hck := copied_calm hc e.si e.di k
  have hsi : (Edit.movedChars e k).si = e.si + BitVec.ofNat 16 k := rfl
  simp only [Edit.moveChar, Exec.bind_apply, byteRead_calm hck, hsi, hletter, Bool.not_false, Bool.and_self, if_true]

theorem editFault_stops {α : Type} (e : Edit) (code : Word) (s : State) : ∃ x t, (editFault e code : Exec α) s = .error x t :=
  stop_bind (fun _ => stop_bind fun _ => stop_bind fun _ => stop_bind fun _ => stop_bind fun _ => stop_bind fun _ =>
    stop_bind fun _ t => ⟨_, t, rfl⟩) s

theorem movedChars_p (e : Edit) (k : Nat) : (Edit.movedChars e k).p = e.p := rfl

/-- The characters of DMVC, and those of DMVA when they are letters. -/
theorem moveChars_calm {s : State} (hc : s.calm = true) (e : Edit) (alpha : Bool) (h5 : e.attr.type ≠ 5)
    (hletters : ∀ k, k < s.repeats (s.lookByte (e.p + 1 + 0)) →
      (alpha && !isAlphabetic ((s.copied e.si e.di k).lookByte (e.si + BitVec.ofNat 16 k))) = false) :
    Edit.moveChars alpha e s =
      .ok { (Edit.movedChars e (s.repeats (s.lookByte (e.p + 1 + 0)))) with t := true, p := e.p + 2 }
        (s.copied e.si e.di (s.repeats (s.lookByte (e.p + 1 + 0)))) := by
  have hloop := repeatEdit_steps (body := Edit.moveChar alpha) (E := Edit.movedChars e) (S := s.copied e.si e.di)
    (s.repeats (s.lookByte (e.p + 1 + 0))) 0 fun j _ hj => moveChar_step hc e alpha j (hletters j (by omega))
  rw [movedChars_zero, Nat.zero_add] at hloop
  have hcopied : s.copied e.si e.di 0 = s := rfl
  rw [hcopied] at hloop
  simp only [Edit.moveChars, Exec.bind_apply, operand_calm hc, if_neg h5, repeatCount_calm hc, hloop, past_one, movedChars_p]
  rfl

theorem moveChars_fault {s : State} (hc : s.calm = true) (e : Edit) (h5 : e.attr.type ≠ 5) {k : Nat}
    (hk : k < s.repeats (s.lookByte (e.p + 1 + 0)))
    (hletters : ∀ j, j < k → isAlphabetic ((s.copied e.si e.di j).lookByte (e.si + BitVec.ofNat 16 j)) = true)
    (hnot : isAlphabetic ((s.copied e.si e.di k).lookByte (e.si + BitVec.ofNat 16 k)) = false) :
    Edit.moveChars true e s = editFault (Edit.movedChars e k) 3 (s.copied e.si e.di k) := by
  obtain ⟨x, t, hfault⟩ := editFault_stops (α := Edit) (Edit.movedChars e k) 3 (s.copied e.si e.di k)
  have hloop := repeatEdit_fails (body := Edit.moveChar true) (E := Edit.movedChars e) (S := s.copied e.si e.di) k 0
    (fun j _ hj => moveChar_step hc e true j (by rw [hletters j (by omega)]; rfl))
    (by rw [Nat.zero_add]; exact (moveChar_fault hc e k hnot).trans hfault) hk
  rw [movedChars_zero] at hloop
  have hcopied : s.copied e.si e.di 0 = s := rfl
  rw [hcopied] at hloop
  simp only [Edit.moveChars, Exec.bind_apply, operand_calm hc, if_neg h5, repeatCount_calm hc, hloop, hfault]

theorem moveChars_packed {s : State} (hc : s.calm = true) (e : Edit) (alpha : Bool) (h5 : e.attr.type = 5) :
    Edit.moveChars alpha e s = editFault e 1 s := by
  simp only [Edit.moveChars, Exec.bind_apply, operand_calm hc, if_pos h5]

/-- DIMC: one character stored again and again. -/
theorem repeatEdit_put (c : Byte) (n : Nat) : ∀ {s : State} (e : Edit), s.calm = true →
    repeatEdit (fun x => x.put c) n e s =
      .ok { e with di := e.di + BitVec.ofNat 16 n } (s.putBytes (List.replicate n c) e.di) := by
  induction n with
  | zero =>
    intro s e hc
    rw [add_ofNat_zero]
    rfl
  | succ n ih =>
    intro s e hc
    have hdi : e.di + 1 + BitVec.ofNat 16 n = e.di + BitVec.ofNat 16 (n + 1) := by bv_omega
    rw [repeatEdit_succ_ok (put_calm hc e c), ih _ ((State.putByte_calm s e.di c).trans hc), hdi]
    rfl

/-- DICI: characters of the sub-program. -/
theorem repeatEdit_dici {s : State} (hc : s.calm = true) (e : Edit) (n : Nat) :
    repeatEdit (fun x => do
      let c ← byteRead (x.p + 2)
      let x ← x.put c
      pure { x with p := x.p + 1 }) n e s =
      .ok { e with p := e.p + BitVec.ofNat 16 n, di := e.di + BitVec.ofNat 16 n } (s.copied (e.p + 2) e.di n) := by
  have hloop := repeatEdit_steps (body := fun x => do
      let c ← byteRead (x.p + 2)
      let x ← x.put c
      pure { x with p := x.p + 1 })
    (E := fun k => { e with p := e.p + BitVec.ofNat 16 k, di := e.di + BitVec.ofNat 16 k }) (S := s.copied (e.p + 2) e.di) n 0
    fun j _ _ => by
      have hcj := copied_calm hc (e.p + 2) e.di j
      have hp : e.p + BitVec.ofNat 16 j + 2 = e.p + 2 + BitVec.ofNat 16 j := by bv_omega
      simp only [Exec.bind_apply, byteRead_calm hcj, put_calm hcj, hp, add_ofNat_succ]
      rfl
  have hcopied : s.copied (e.p + 2) e.di 0 = s := rfl
  simp only [add_ofNat_zero, Nat.zero_add, hcopied] at hloop
  exact hloop

/-! ### Digits moved (R468, R469, R471, R473, R475) -/

/-- A part that takes a digit and stores what `out` says moves digits as `digitsMoved` says. -/
theorem repeatEdit_digits {out : Edit → Byte → Edit × List Byte} {body : Edit → Exec Edit}
    (hbody : ∀ (e : Edit) (s : State) (c : Byte) (x : Edit) (u : State), e.nextDigit s = .ok (c, x) u → u.calm = true →
      body e s = .ok { (out x c).1 with di := (out x c).1.di + BitVec.ofNat 16 (out x c).2.length }
        (u.putBytes (out x c).2 (out x c).1.di)) (n : Nat) :
    ∀ {e : Edit} {s : State} {x : Edit} {u : State}, digitsMoved out n e s x u → repeatEdit body n e s = .ok x u := by
  induction n with
  | zero =>
    rintro e s x u ⟨rfl, rfl⟩
    rfl
  | succ n ih =>
    rintro e s x u ⟨c, y, v, hnext, hcv, hrest⟩
    rw [repeatEdit_succ_ok (hbody e s c y v hnext hcv)]
    exact ih hrest

theorem moveDigit_step {e : Edit} {s : State} {c : Byte} {x : Edit} {u : State} (h : e.nextDigit s = .ok (c, x) u)
    (hu : u.calm = true) : Edit.moveDigit e s = .ok { x with di := x.di + 1 } (u.putByte x.di c) := by
  simp only [Edit.moveDigit, Exec.bind_apply, h, put_calm hu]

theorem suppressDigit_step {e : Edit} {s : State} {c : Byte} {x : Edit} {u : State} (fill : Byte)
    (h : e.nextDigit s = .ok (c, x) u) (hu : u.calm = true) : Edit.suppressDigit fill e s =
      if (!x.t && isZeroChar c) = true then .ok { x with di := x.di + 1 } (u.putByte x.di fill)
      else .ok { x with t := true, di := x.di + 1 } (u.putByte x.di c) := by
  simp only [Edit.suppressDigit, Exec.bind_apply, h, Exec.ite_apply, put_calm hu]

theorem floatDigit_step {e : Edit} {s : State} {c : Byte} {x : Edit} {u : State} (fill plus minus : Byte)
    (h : e.nextDigit s = .ok (c, x) u) (hu : u.calm = true) : Edit.floatDigit fill plus minus e s =
      if x.t = true then .ok { x with di := x.di + 1 } (u.putByte x.di c)
      else if isZeroChar c = true then .ok { x with di := x.di + 1 } (u.putByte x.di fill)
      else .ok { x with t := true, di := x.di + 2 }
        ((u.putByte x.di (if x.s then minus else plus)).putByte (x.di + 1) c) := by
  have hput : (u.putByte x.di (if x.s then minus else plus)).calm = true := (State.putByte_calm u _ _).trans hu
  simp only [Edit.floatDigit, Exec.bind_apply, h, Exec.ite_apply, put_calm hu, put_calm hput, word_add_two]

/-! ### The operations of a sub-program (R452 to R475) -/

section
variable {s : State} (hc : s.calm = true) (e : Edit)
include hc

/-- The operations that store one character and move P on. -/
theorem run_dins : e.run .dins s = .ok { e with p := e.p + 3, di := e.di + 1 }
    (s.putByte e.di (if e.s then s.lookByte (e.p + 1 + 1) else s.lookByte (e.p + 1 + 0))) := by
  simp only [Edit.run, Exec.bind_apply, operand_calm hc, put_calm hc, past_two]
  rfl

theorem run_dint : e.run .dint s = .ok { e with p := e.p + 3, di := e.di + 1 }
    (s.putByte e.di (if e.t then s.lookByte (e.p + 1 + 1) else s.lookByte (e.p + 1 + 0))) := by
  simp only [Edit.run, Exec.bind_apply, operand_calm hc, put_calm hc, past_two]
  rfl

theorem run_dinc : e.run .dinc s = .ok { e with p := e.p + 2, di := e.di + 1 } (s.putByte e.di (s.lookByte (e.p + 1 + 0))) := by
  simp only [Edit.run, Exec.bind_apply, operand_calm hc, put_calm hc, past_one]
  rfl

theorem run_dndf : e.run .dndf s = if e.t then .ok { e with p := e.p + 3 } s
    else .ok { e with p := e.p + 3, di := e.di + 1 }
      (s.putByte e.di (if e.s then s.lookByte (e.p + 1 + 1) else s.lookByte (e.p + 1 + 0))) := by
  simp only [Edit.run, Exec.bind_apply, operand_calm hc, Exec.ite_apply, put_calm hc, past_two]
  rfl

theorem run_dapu : e.run .dapu s = .ok { e with p := e.p + (s.lookByte (e.p + 1 + 0)).signExtend 16 } s := by
  simp only [Edit.run, Exec.bind_apply, operand_calm hc]
  rfl

theorem run_daps : e.run .daps s = .ok (if e.s then { e with p := e.p + 2 }
    else { e with p := e.p + (s.lookByte (e.p + 1 + 0)).signExtend 16 }) s := by
  simp only [Edit.run, Exec.bind_apply, operand_calm hc, past_one]
  split <;> rfl

theorem run_dapt : e.run .dapt s = .ok (if e.t then { e with p := e.p + (s.lookByte (e.p + 1 + 0)).signExtend 16 }
    else { e with p := e.p + 2 }) s := by
  simp only [Edit.run, Exec.bind_apply, operand_calm hc, past_one]
  split <;> rfl

theorem run_dasi : let y : Edit := { e with si := e.si + (s.lookByte (e.p + 1 + 0)).signExtend 16 }
    e.run .dasi s = .ok { y with outside := e.outside || y.isOutside, p := e.p + 2 } s := by
  intro y
  simp only [Edit.run, Exec.bind_apply, operand_calm hc, past_one]
  rfl

theorem run_dadi : e.run .dadi s =
    .ok { e with di := e.di + (s.lookByte (e.p + 1 + 0)).signExtend 16, p := e.p + 2 } s := by
  simp only [Edit.run, Exec.bind_apply, operand_calm hc, past_one]
  rfl

/-- The stack word of DSTK and DDTK. -/
theorem stackWord_operand (k : Byte) : stackWord k s =
    .ok ((if k.msb then s.look 0o40 else s.look 0o41).setWidth 15 + 1 + k.signExtend 15) s := stackWord_calm hc k

theorem run_dstk : let k := s.lookByte (e.p + 1 + 0)
    let word : Addr := (if k.msb then s.look 0o40 else s.look 0o41).setWidth 15 + 1 + k.signExtend 15
    e.run .dstk s = .ok { e with p := e.p + 3 } (s.put word ((s.lookByte (e.p + 1 + 1)).setWidth 16)) := by
  intro k word
  simp only [Edit.run, Exec.bind_apply, operand_calm hc, stackWord_calm hc, memWrite_calm hc, past_two]
  rfl

theorem run_ddtk : let k := s.lookByte (e.p + 1 + 0)
    let word : Addr := (if k.msb then s.look 0o40 else s.look 0o41).setWidth 15 + 1 + k.signExtend 15
    let w := s.look word - 1
    e.run .ddtk s = .ok (if w = 0 then { e with p := e.p + (s.lookByte (e.p + 1 + 1)).signExtend 16 } else { e with p := e.p + 3 })
      (s.put word w) := by
  intro k word w
  simp only [Edit.run, Exec.bind_apply, operand_calm hc, stackWord_calm hc, memRead_calm hc, memWrite_calm hc, past_two]
  by_cases hw : w = 0
  · have hw' : s.look ((if k.msb then s.look 0o40 else s.look 0o41).setWidth 15 + 1 + k.signExtend 15) - 1 = 0 := hw
    rw [if_pos hw, if_pos hw']
    rfl
  · have hw' : ¬ s.look ((if k.msb then s.look 0o40 else s.look 0o41).setWidth 15 + 1 + k.signExtend 15) - 1 = 0 := hw
    rw [if_neg hw, if_neg hw']
    rfl

theorem run_dimc : let n := s.repeats (s.lookByte (e.p + 1 + 0))
    e.run .dimc s = .ok { e with di := e.di + BitVec.ofNat 16 n, p := e.p + 3 }
      (s.putBytes (List.replicate n (s.lookByte (e.p + 1 + 1))) e.di) := by
  intro n
  simp only [Edit.run, Exec.bind_apply, operand_calm hc, repeatCount_calm hc, repeatEdit_put _ _ e hc, past_two]
  rfl

theorem run_dici : let n := s.repeats (s.lookByte (e.p + 1 + 0))
    e.run .dici s = .ok { e with p := e.p + BitVec.ofNat 16 n + 2, di := e.di + BitVec.ofNat 16 n }
      (s.copied (e.p + 2) e.di n) := by
  intro n
  have hloop := repeatEdit_dici hc e n
  simp only [n] at hloop
  simp only [Edit.run, Exec.bind_apply, operand_calm hc, repeatCount_calm hc, hloop, past_one]
  rfl

omit hc in
theorem nextDigit_outside (h : e.outside = true) : e.nextDigit s = .ok (0x30, e.stepSi) s := by
  have hlast : e.atLastOfTrailing = false := by
    rw [Edit.atLastOfTrailing, h, Bool.not_true, Bool.and_false, Bool.false_and]
  simp only [Edit.nextDigit, Edit.digitAt, h, if_true, Exec.bind_apply, Exec.pure_apply, hlast, Bool.false_eq_true, if_false]

theorem run_dmvo {c : Byte} {x : Edit} {u : State} (hnext : e.nextDigit s = .ok (c, x) u) (hu : u.calm = true) : e.run .dmvo s =
    if isZeroChar c = true then .ok { x with p := x.p + 5, di := x.di + 1 }
      (u.putByte x.di (if x.s then s.lookByte (e.p + 1 + 1) else s.lookByte (e.p + 1 + 0)))
    else .ok { x with t := true, p := x.p + 5, di := x.di + 1 }
      (u.putByte x.di (c - 0x30 + if x.s then s.lookByte (e.p + 1 + 3) else s.lookByte (e.p + 1 + 2))) := by
  simp only [Edit.run, Exec.bind_apply, operand_calm hc, hnext, Exec.ite_apply, put_calm hu, past_four]
  rfl

/-- An operation whose repeated part ends. -/
theorem run_dmvn {x : Edit} {u : State}
    (h : repeatEdit Edit.moveDigit (s.repeats (s.lookByte (e.p + 1 + 0))) e s = .ok x u) :
    e.run .dmvn s = .ok { x with t := true, p := x.p + 2 } u := by
  simp only [Edit.run, Exec.bind_apply, operand_calm hc, repeatCount_calm hc, h, past_one]
  rfl

theorem run_dmvs {x : Edit} {u : State}
    (h : repeatEdit (Edit.suppressDigit (s.lookByte (e.p + 1 + 1))) (s.repeats (s.lookByte (e.p + 1 + 0))) e s = .ok x u) :
    e.run .dmvs s = .ok { x with p := x.p + 3 } u := by
  simp only [Edit.run, Exec.bind_apply, operand_calm hc, repeatCount_calm hc, h, past_two]
  rfl

theorem run_dmvf {x : Edit} {u : State}
    (h : repeatEdit (Edit.floatDigit (s.lookByte (e.p + 1 + 1)) (s.lookByte (e.p + 1 + 2)) (s.lookByte (e.p + 1 + 3)))
      (s.repeats (s.lookByte (e.p + 1 + 0))) e s = .ok x u) : e.run .dmvf s = .ok { x with p := x.p + 5 } u := by
  simp only [Edit.run, Exec.bind_apply, operand_calm hc, repeatCount_calm hc, h, past_four]
  rfl

end

theorem isAlphabetic_eq (c : Byte) : isAlphabetic c =
    (decide (65 ≤ c.toNat ∧ c.toNat ≤ 90 ∨ 97 ≤ c.toNat ∧ c.toNat ≤ 122) || c == 0x20) := by
  rw [isAlphabetic, Bool.decide_or, Bool.decide_and, Bool.decide_and]

/-- What one digit of DMVN, DMVS and DMVF stores. -/
theorem digitsMoved_dmvn {n : Nat} {e x : Edit} {s u : State} (h : digitsMoved (fun y c => (y, [c])) n e s x u) :
    repeatEdit Edit.moveDigit n e s = .ok x u :=
  repeatEdit_digits (fun _ _ _ _ _ hnext hu => moveDigit_step hnext hu) n h

theorem digitsMoved_dmvs {n : Nat} {e x : Edit} {s u : State} {fill : Byte}
    (h : digitsMoved (fun y c => if !y.t && isZeroChar c then (y, [fill]) else ({ y with t := true }, [c])) n e s x u) :
    repeatEdit (Edit.suppressDigit fill) n e s = .ok x u :=
  repeatEdit_digits (fun _ _ _ _ _ hnext hu => by
    rw [suppressDigit_step fill hnext hu]
    split <;> rfl) n h

theorem digitsMoved_dmvf {n : Nat} {e x : Edit} {s u : State} {fill plus minus : Byte}
    (h : digitsMoved (fun y c => if y.t then (y, [c]) else if isZeroChar c then (y, [fill])
      else ({ y with t := true }, [if y.s then minus else plus, c])) n e s x u) :
    repeatEdit (Edit.floatDigit fill plus minus) n e s = .ok x u :=
  repeatEdit_digits (fun _ _ _ _ _ hnext hu => by
    rw [floatDigit_step fill plus minus hnext hu]
    split
    · rfl
    · split <;> rfl) n h

/-- Settles O50, operation by operation. -/
theorem editOperations : Obligations.EditOperations := by
  unfold Obligations.EditOperations
  intro s e hc b jump at' puts base word isZero isLetter n d sign moved past
  have hletter : ∀ c, isLetter c = isAlphabetic c := fun c => (isAlphabetic_eq c).symm
  refine ⟨congrArg (EStateM.Result.ok · s) (past_zero e), congrArg (EStateM.Result.ok · s) (past_zero _),
    congrArg (EStateM.Result.ok · s) (past_zero _), congrArg (EStateM.Result.ok · s) (past_zero _),
    congrArg (EStateM.Result.ok · s) (past_zero _), run_dapu hc e, run_daps hc e, run_dapt hc e, run_dasi hc e, run_dadi hc e,
    run_dins hc e, run_dint hc e, run_dinc hc e, run_dndf hc e, run_dstk hc e, run_ddtk hc e, run_dimc hc e, run_dici hc e,
    fun h5 => ?_, fun h5 hl => ?_, fun k h5 hk hl hnot => ?_, fun h5 => ⟨moveChars_packed hc e false h5, moveChars_packed hc e true h5⟩,
    nextDigit_outside e, ?_, ?_⟩
  · exact moveChars_calm hc e false h5 fun _ _ => rfl
  · refine moveChars_calm hc e true h5 fun k hk => ?_
    have hk' := hl k hk
    rw [hletter] at hk'
    rw [hk']
    rfl
  · refine moveChars_fault hc e h5 hk (fun j hj => ?_) ((hletter _).symm.trans hnot)
    exact (hletter _).symm.trans (hl j hj)
  · intro c x u hnext hu out
    have hrun := run_dmvo hc e hnext hu
    refine ⟨fun hz => ?_, fun hz => ?_⟩
    · exact hrun.trans (if_pos hz)
    · exact hrun.trans (if_neg fun hz' => Bool.false_ne_true (hz.symm.trans hz'))
  · intro x u
    exact ⟨fun h => run_dmvn hc e (digitsMoved_dmvn h), fun h => run_dmvs hc e (digitsMoved_dmvs h),
      fun h => run_dmvf hc e (digitsMoved_dmvf h)⟩

/-! ### EDIT (R450) -/

/-- EDIT with a sign byte that is valid and a sub-program that ends. -/
theorem exec_edit {s t : State} (heap : s.cfg.hasEap = true) (h0 : s.ac0 ≠ 0o177777) (ht : (attributeOf s.ac1).type ≤ 5)
    {neg : Bool} {e : Edit} (hsign : editSign (attributeOf s.ac1) s.ac3 s = .ok (.ok neg) s)
    (hloop : editLoop editFuel { attr := attributeOf s.ac1, source := s.ac3, p := s.ac0, si := s.ac3, di := s.ac2, t := false,
                                 s := neg, low := false, outside := false } s = .ok e t) :
    exec .edit s = .next (((((((t.setFree (t.free + 1)).setCarry e.t).setAc0 e.p).setAc1
      (Config.freeWord t.free)).setAc2 e.di).setAc3 e.si).setPc (t.pc + 1)) := by
  have hsix : ¬ 6 ≤ (attributeOf s.ac1).type := by omega
  have hexec : exec .edit s = execEdit s := rfl
  rw [hexec, execEdit]
  apply runExec_ok
  simp only [Exec.bind_apply, needsEap_ok heap, if_neg h0, if_neg hsix, hsign, hloop, freshWord_apply, Exec.modify_apply,
    advance_apply]
  rfl

theorem editLoop_dend {s : State} (hc : s.calm = true) {e : Edit} (n : Nat)
    (hop : editOpOf s.cfg.editOpcodes EditOp.all (s.lookByte e.p) = some .dend) :
    editLoop (n + 1) e s = .ok { e with p := e.p + 1 } s := by
  simp only [editLoop, Exec.bind_apply, byteRead_calm hc, Exec.get_apply, hop]
  exact congrArg (EStateM.Result.ok · s) (past_zero e)

theorem editLoop_dinc {s : State} (hc : s.calm = true) {e : Edit} (n : Nat)
    (hop : editOpOf s.cfg.editOpcodes EditOp.all (s.lookByte e.p) = some .dinc) : editLoop (n + 1) e s =
      editLoop n { e with p := e.p + 2, di := e.di + 1 } (s.putByte e.di (s.lookByte (e.p + 1 + 0))) := by
  simp only [editLoop, Exec.bind_apply, byteRead_calm hc, Exec.get_apply, hop, run_dinc hc e]

theorem editSign_unsigned {a : Attribute} (h : a.type = 4) (p : Word) (s : State) : editSign a p s = .ok (.ok false) s := by
  rw [editSign, h]
  rfl

/-- The fuel holds two operations. -/
theorem editFuel_eq : editFuel = 18446744073709551614 + 1 + 1 := rfl

/-- Settles O49: the sub-program as the loop gives it, and DINC c, DEND as two turns of the loop. -/
theorem editInstruction : Obligations.EditInstruction := by
  unfold Obligations.EditInstruction
  intro s hc heap h0 a
  refine ⟨fun neg e t ht hsign hloop => exec_edit heap h0 ht hsign hloop, ?_⟩
  intro c t h4 hinc hend
  have hct : t.calm = true := (State.putByte_calm s _ _).trans hc
  have hcfg : t.cfg = s.cfg := State.put_cfg s _ _
  have hc' : s.lookByte (s.ac0 + 1 + 0) = c := congrArg s.lookByte (BitVec.add_zero _)
  have hp : s.ac0 + 2 + 1 = s.ac0 + 3 := by bv_omega
  have hloop : editLoop editFuel { attr := a, source := s.ac3, p := s.ac0, si := s.ac3, di := s.ac2, t := false, s := false,
                                   low := false, outside := false } s =
      .ok { attr := a, source := s.ac3, p := s.ac0 + 3, si := s.ac3, di := s.ac2 + 1, t := false, s := false, low := false,
            outside := false } t := by
    rw [editFuel_eq, editLoop_dinc hc _ hinc, hc', ← hp]
    rw [← hcfg] at hend
    exact editLoop_dend hct _ hend
  have hrun := exec_edit heap h0 (h4.trans_le (by omega)) (editSign_unsigned h4 _ s) hloop
  have hfree : t.free = s.free := State.put_free s _ _
  have hpc : t.pc = s.pc := State.put_pc s _ _
  rw [hfree, hpc] at hrun
  exact hrun

end Sys2Proof.Proofs.Decimal
end

section
/-! SUPPORT. The input/output instructions, the processor's own units, the vector instruction (49_io.md). -/

namespace Sys2Proof.Proofs.InputOutput

open Sys2Proof Sys2Proof.Machine Sys2Proof.Proofs.FixedPoint Sys2Proof.Proofs.Bytes Sys2Proof.Proofs.Flow

-- Theorems elaborated side by side each hold a thread's stack, and the memory limit is near.
set_option Elab.async false

/-! ### Which unit answers, and its F functions (R504, R508) -/

theorem unitAt_congr {s t : State} (h : t.cfg = s.cfg) (dev : BitVec 6) : t.unitAt dev = s.unitAt dev := by
  rw [State.unitAt, State.unitAt, State.hasMap, State.hasMap, h]

theorem unitAt_wcs {s : State} (h : s.cfg.hasWcs = true) : s.unitAt 1 = .wcs := by
  rw [State.unitAt, if_neg (by decide), if_pos ⟨rfl, h⟩]

theorem unitAt_ercc {s : State} (h : s.cfg.hasErcc = true) : s.unitAt 2 = .ercc := by
  rw [State.unitAt, if_neg (by decide), if_neg (fun hw => absurd hw.1 (by decide)), if_pos ⟨rfl, h⟩]

theorem unitAt_map {s : State} (h : s.cfg.mapKind ≠ .none) : s.unitAt 3 = .map := by
  have hm : s.hasMap = true := by
    rw [State.hasMap]
    exact bne_iff_ne.2 h
  rw [State.unitAt, if_neg (by decide), if_neg (fun hw => absurd hw.1 (by decide)), if_neg (fun hw => absurd hw.1 (by decide)),
    if_pos ⟨rfl, hm⟩]

theorem unitAt_rtc {s : State} (h : s.cfg.hasRtc = true) : s.unitAt 0o14 = .rtc := by
  rw [State.unitAt, if_neg (by decide), if_neg (fun hw => absurd hw.1 (by decide)), if_neg (fun hw => absurd hw.1 (by decide)),
    if_neg (fun hw => absurd hw.1 (by decide)), if_pos ⟨rfl, h⟩]

theorem unitAt_cpu (s : State) : s.unitAt 0o77 = .cpu := if_pos rfl

section
variable {s : State} {dev : BitVec 6}

theorem flagsAt_peripheral (h : s.unitAt dev = .peripheral) (f : IoF) :
    s.flagsAt f dev = s.updateDevice dev fun d => d.flags f := by rw [State.flagsAt, h]

theorem flagsAt_ercc (h : s.unitAt dev = .ercc) (f : IoF) : s.flagsAt f dev = s.setErcc (s.ercc.flags f) := by
  rw [State.flagsAt, h]

theorem flagsAt_rtc (h : s.unitAt dev = .rtc) (f : IoF) : s.flagsAt f dev = s.setRtc (s.rtc.flags f) := by
  rw [State.flagsAt, h]

theorem flagsAt_wcs (h : s.unitAt dev = .wcs) (f : IoF) : s.flagsAt f dev = s := by rw [State.flagsAt, h]

theorem flagsAt_map (h : s.unitAt dev = .map) (f : IoF) : s.flagsAt f dev = s := by rw [State.flagsAt, h]

theorem flagsAt_cpu (f : IoF) : s.flagsAt f 0o77 = s.ionF f := by rw [State.flagsAt, unitAt_cpu]

end

theorem ionF_pc (s : State) (f : IoF) : (s.ionF f).pc = s.pc := by
  cases f with
  | start =>
    rw [State.ionF]
    split <;> rfl
  | none => rfl
  | clear => rfl
  | pulse => rfl

theorem flagsAt_pc (s : State) (f : IoF) (dev : BitVec 6) : (s.flagsAt f dev).pc = s.pc := by
  rw [State.flagsAt]
  split
  · exact ionF_pc s f
  · rfl
  · rfl
  · rfl
  · rfl

theorem ioEnd_apply (f : IoF) (dev : BitVec 6) (s : State) : ioEnd f dev s = .ok () ((s.flagsAt f dev).setPc (s.pc + 1)) := by
  simp only [ioEnd, Exec.bind_apply, Exec.modify_apply, advance_apply, flagsAt_pc]

/-! ### The shapes of the instructions -/

theorem transferF_congr {s t : State} (h : t.cfg = s.cfg) (f : IoF) (dev : BitVec 6) : t.transferF f dev = s.transferF f dev := by
  rw [State.transferF, State.transferF, unitAt_congr h]

theorem transferF_of_ne {s : State} {dev : BitVec 6} (h : s.unitAt dev ≠ .ercc) (f : IoF) : s.transferF f dev = f := if_neg h

theorem transferF_ercc {s : State} {dev : BitVec 6} (h : s.unitAt dev = .ercc) (f : IoF) : s.transferF f dev = .none := if_pos h

section
variable {s : State} {dev : BitVec 6} (hio : s.ioProtected dev = false)
include hio

theorem dataIn_free {buf : Buffer} (a : Acc) (f : IoF) {v : Word} (hv : inputAt buf dev s = .ok v s) :
    runExec (dataIn buf a f dev) s = .next (((s.setAc a v).flagsAt (s.transferF f dev) dev).setPc (s.pc + 1)) := by
  apply runExec_ok
  simp only [dataIn, Exec.bind_apply, ioGuard_free hio, hv, Exec.modify_apply, Exec.get_apply, ioEnd_apply, State.setAc_pc,
    transferF_congr (State.setAc_cfg s a v)]

theorem dataOut_free {buf : Buffer} (a : Acc) (f : IoF) {t : State} (ht : outputAt buf dev (s.ac a) s = .ok () t)
    (hpc : t.pc = s.pc) : runExec (dataOut buf a f dev) s = .next ((t.flagsAt (s.transferF f dev) dev).setPc (s.pc + 1)) := by
  apply runExec_ok
  simp only [dataOut, Exec.bind_apply, ioGuard_free hio, Exec.get_apply, ht, ioEnd_apply, hpc]

theorem exec_nio_free (a : Acc) (f : IoF) : exec (.nio a f dev) s =
    .next (((if s.unitAt dev = .map ∧ f = .pulse then s.setMap { s.map with singlePending := true } else s).flagsAt f dev).setPc
      (s.pc + 1)) := by
  have hexec : exec (.nio a f dev) s = execNio a f dev s := rfl
  rw [hexec, execNio]
  apply runExec_ok
  simp only [Exec.bind_apply, ioGuard_free hio]
  by_cases h : s.unitAt dev = .map ∧ f = .pulse
  · rw [if_pos h, if_pos h]
    exact ioEnd_apply f dev _
  · rw [if_neg h, if_neg h]
    exact ioEnd_apply f dev s

theorem exec_skp_free (a : Acc) (c : IoTest) :
    exec (.skp a c dev) s = .next (s.setPc (s.pc + if s.skipTest c dev then 2 else 1)) := by
  have hexec : exec (.skp a c dev) s = execSkp a c dev s := rfl
  rw [hexec, execSkp]
  apply runExec_ok
  simp only [Exec.bind_apply, ioGuard_free hio, advanceSkip_apply]
  rfl

end

/-- The test of a skip from the two flags. -/
def flagTest (busy done : Bool) : IoTest → Bool
  | .bn => busy
  | .bz => !busy
  | .dn => done
  | .dz => !done

theorem skipTest_eq {s : State} {dev : BitVec 6} (hne : dev ≠ 0o77) (c : IoTest) :
    s.skipTest c dev = flagTest (s.busyAt dev) (s.doneAt dev) c := by
  simp only [State.skipTest, if_neg hne]
  cases c <;> rfl

/-! ### Peripherals -/

section
variable {s : State} {dev : BitVec 6} (hu : s.unitAt dev = .peripheral)
include hu

theorem inputAt_peripheral (buf : Buffer) :
    inputAt buf dev s = .ok (((s.device dev).map fun d => d.input buf).getD 0) s := by
  simp only [inputAt, Exec.bind_apply, Exec.get_apply, hu]
  cases s.device dev <;> rfl

theorem outputAt_peripheral (buf : Buffer) (v : Word) :
    outputAt buf dev v s = .ok () (s.updateDevice dev fun d => d.output buf v) := by
  simp only [outputAt, Exec.bind_apply, Exec.get_apply, hu]
  rfl

theorem busyAt_peripheral : s.busyAt dev = ((s.device dev).map Device.busy).getD false := by
  simp only [State.busyAt, hu]
  cases s.device dev <;> rfl

theorem doneAt_peripheral : s.doneAt dev = ((s.device dev).map Device.done).getD false := by
  simp only [State.doneAt, hu]
  cases s.device dev <;> rfl

end

theorem setAc_updateDevice (s : State) (a : Acc) (v : Word) (dev : BitVec 6) (g : Device → Device) :
    (s.setAc a v).updateDevice dev g = (s.updateDevice dev g).setAc a v := by cases a <;> rfl

theorem output_code (d : Device) (buf : Buffer) (v : Word) : (d.output buf v).code = d.code := by cases buf <;> rfl

/-- Two changes of one device. -/
theorem updateDevice_updateDevice (s : State) (dev : BitVec 6) {g h : Device → Device} (hg : ∀ d, (g d).code = d.code) :
    (s.updateDevice dev g).updateDevice dev h = s.updateDevice dev fun d => h (g d) := by
  have hmap : (s.devices.map fun d => if d.code = dev then g d else d).map (fun d => if d.code = dev then h d else d) =
      s.devices.map fun d => if d.code = dev then h (g d) else d := by
    rw [List.map_map]
    refine List.map_congr_left fun d _ => ?_
    rw [Function.comp_apply]
    by_cases hd : d.code = dev
    · rw [if_pos hd, if_pos hd, if_pos ((hg d).trans hd)]
    · rw [if_neg hd, if_neg hd, if_neg hd]
  exact congrArg s.setDevices hmap

/-! ### The WCS (45_xop_wcs.md R294 to R296) -/

theorem wcsOut_apply {s : State} (hio : s.ioProtected 1 = false) (hw : s.cfg.hasWcs = true) (a : Acc) (g : State → Word → State)
    (hpc : (g s (s.ac a)).pc = s.pc) : runExec (wcsOut a g) s = .next ((g s (s.ac a)).setPc (s.pc + 1)) := by
  apply runExec_ok
  simp only [wcsOut, Exec.bind_apply, ioGuard_free hio, Exec.modify_apply, hw, if_true, advance_apply, hpc]

theorem wcsOut_missing {s : State} (hio : s.ioProtected 1 = false) (hw : s.cfg.hasWcs = false) (a : Acc) (g : State → Word → State) :
    runExec (wcsOut a g) s = .next (s.setPc (s.pc + 1)) := by
  apply runExec_ok
  simp only [wcsOut, Exec.bind_apply, ioGuard_free hio, Exec.modify_apply, hw, Bool.false_eq_true, if_false, advance_apply]

/-- The entry of the control store that a microword goes to. -/
theorem wcsMicrocode_spec (s : State) (v : Word) : ∃ t, s.wcsMicrocode v = s.setWcs { s.wcs with micro := t } ∧
    ∀ i (h : i < 256), t[i] = if i = (s.wcs.wordReg.extractLsb' 2 8).toNat
      then microField s.wcs.micro[i] (s.wcs.wordReg.extractLsb' 0 2) v else s.wcs.micro[i] := by
  refine ⟨_, rfl, fun i h => ?_⟩
  rw [Vector.getElem_set]
  have hfield : fld s.wcs.wordReg 14 2 = s.wcs.wordReg.extractLsb' 0 2 := rfl
  rw [hfield]
  by_cases hi : i = (s.wcs.wordReg.extractLsb' 2 8).toNat
  · subst hi
    rw [if_pos rfl]
    exact if_pos rfl
  · rw [if_neg hi]
    exact if_neg fun h => hi h.symm

theorem wcsDecodeAddress_spec (s : State) (v : Word) : ∃ t, s.wcsDecodeAddress v = s.setWcs { s.wcs with decode := t } ∧
    ∀ i (h : i < 32), t[i] = if i = (s.wcs.wordReg.extractLsb' 0 1).toNat * 16 + (s.wcs.wordReg.extractLsb' 1 4).toNat
      then v.setWidth 8 else s.wcs.decode[i] := by
  have hplace : (fld s.wcs.wordReg 15 1 ++ fld s.wcs.wordReg 11 4).toNat =
      (s.wcs.wordReg.extractLsb' 0 1).toNat * 16 + (s.wcs.wordReg.extractLsb' 1 4).toNat := toNat_append_eq_add _ _
  refine ⟨_, rfl, fun i h => ?_⟩
  rw [Vector.getElem_set, loByte_eq_setWidth]
  by_cases hi : i = (s.wcs.wordReg.extractLsb' 0 1).toNat * 16 + (s.wcs.wordReg.extractLsb' 1 4).toNat
  · rw [if_pos hi]
    exact if_pos (hplace.trans hi.symm)
  · rw [if_neg hi]
    exact if_neg fun h => hi (h.symm.trans hplace)

/-! ### The instructions at a peripheral (R501 to R505, R524 to R528) -/

section
variable {s : State} {dev : BitVec 6} (hio : s.ioProtected dev = false) (hu : s.unitAt dev = .peripheral)
include hio hu

theorem dataIn_peripheral (buf : Buffer) (a : Acc) (f : IoF) : runExec (dataIn buf a f dev) s =
    .next (((s.updateDevice dev fun d => d.flags f).setAc a (((s.device dev).map fun d => d.input buf).getD 0)).setPc (s.pc + 1)) := by
  have hu' : (s.setAc a (((s.device dev).map fun d => d.input buf).getD 0)).unitAt dev = .peripheral :=
    (unitAt_congr (State.setAc_cfg s a _) dev).trans hu
  rw [dataIn_free hio a f (inputAt_peripheral hu buf), transferF_of_ne (by rw [hu]; decide), flagsAt_peripheral hu', setAc_updateDevice]

theorem dataOut_peripheral (buf : Buffer) (a : Acc) (f : IoF) : runExec (dataOut buf a f dev) s =
    .next ((s.updateDevice dev fun d => (d.output buf (s.ac a)).flags f).setPc (s.pc + 1)) := by
  have hu' : (s.updateDevice dev fun d => d.output buf (s.ac a)).unitAt dev = .peripheral := (unitAt_congr (t := s.setDevices _) rfl dev).trans hu
  rw [dataOut_free hio a f (outputAt_peripheral hu buf (s.ac a)) rfl, transferF_of_ne (by rw [hu]; decide), flagsAt_peripheral hu',
    updateDevice_updateDevice s dev fun d => output_code d buf _]

theorem exec_nio_peripheral (a : Acc) (f : IoF) :
    exec (.nio a f dev) s = .next ((s.updateDevice dev fun d => d.flags f).setPc (s.pc + 1)) := by
  rw [exec_nio_free hio, if_neg (fun h => absurd (hu.symm.trans h.1) (by decide)), flagsAt_peripheral hu]

theorem exec_skp_peripheral (hne : dev ≠ 0o77) (a : Acc) (c : IoTest) : exec (.skp a c dev) s =
    .next (s.setPc (s.pc + if flagTest (((s.device dev).map Device.busy).getD false) (((s.device dev).map Device.done).getD false) c
      then 2 else 1)) := by
  rw [exec_skp_free hio, skipTest_eq hne, busyAt_peripheral hu, doneAt_peripheral hu]

end

/-! ### The ERCC and the clock (R531 to R541) -/

theorem fld_low_two (w : Word) : fld w 14 2 = w.setWidth 2 := BitVec.setWidth_eq_extractLsb' (by omega) |>.symm

section
variable {s : State} (hio : s.ioProtected 2 = false) (hu : s.cfg.hasErcc = true)
include hio hu

theorem exec_doaErcc (a : Acc) (f : IoF) : exec (.doaErcc a f) s =
    .next ((s.setErcc (Ercc.flags { s.ercc with mode := (s.ac a).setWidth 2 } f)).setPc (s.pc + 1)) := by
  have hu' : (s.setErcc { s.ercc with mode := (s.ac a).setWidth 2 }).unitAt 2 = .ercc := unitAt_ercc hu
  have hexec : exec (.doaErcc a f) s = execDoaErcc a f s := rfl
  rw [hexec, execDoaErcc]
  apply runExec_ok
  simp only [Exec.bind_apply, ioGuard_free hio, Exec.modify_apply, hu, if_true, fld_low_two, ioEnd_apply, flagsAt_ercc hu']
  rfl

theorem exec_diaErcc (a : Acc) (f : IoF) : exec (.diaErcc a f) s =
    .next (((s.setErcc (s.ercc.flags f)).setAc a (s.ercc.faultAddr.setWidth 16)).setPc (s.pc + 1)) := by
  have hu' : (s.setAc a (s.ercc.faultAddr.setWidth 16)).unitAt 2 = .ercc :=
    (unitAt_congr (State.setAc_cfg s a _) 2).trans (unitAt_ercc hu)
  have haddr : s.ercc.faultAddr.extractLsb' 0 16 = s.ercc.faultAddr.setWidth 16 := BitVec.setWidth_eq_extractLsb' (by omega) |>.symm
  have hexec : exec (.diaErcc a f) s = execDiaErcc a f s := rfl
  rw [hexec, execDiaErcc]
  apply runExec_ok
  simp only [Exec.bind_apply, ioGuard_free hio, Exec.modify_apply, hu, if_true, haddr, ioEnd_apply, flagsAt_ercc hu',
    State.setAc_ercc, State.setAc_pc]
  cases a <;> rfl

theorem exec_dibErcc (a : Acc) (f : IoF) : exec (.dibErcc a f) s =
    .next (((s.setErcc (s.ercc.flags f)).setAc a (s.ercc.code ++ 0#10 ++ bitOf s.ercc.faultAddr.msb)).setPc (s.pc + 1)) := by
  have hu' : (s.setAc a (s.ercc.code ++ 0#10 ++ bitOf s.ercc.faultAddr.msb)).unitAt 2 = .ercc :=
    (unitAt_congr (State.setAc_cfg s a _) 2).trans (unitAt_ercc hu)
  have hbit : s.ercc.faultAddr.extractLsb' 16 1 = bitOf s.ercc.faultAddr.msb := by
    apply BitVec.eq_of_getLsbD_eq
    intro i hi
    have h0 : i = 0 := by omega
    subst h0
    have hm : s.ercc.faultAddr.getLsbD 16 = s.ercc.faultAddr.msb := rfl
    rw [BitVec.getLsbD_extractLsb', Nat.add_zero, hm]
    cases s.ercc.faultAddr.msb <;> rfl
  have hexec : exec (.dibErcc a f) s = execDibErcc a f s := rfl
  rw [hexec, execDibErcc]
  apply runExec_ok
  simp only [Exec.bind_apply, ioGuard_free hio, Exec.modify_apply, hu, if_true, hbit, ioEnd_apply, flagsAt_ercc hu',
    State.setAc_ercc, State.setAc_pc]
  cases a <;> rfl

theorem exec_nio_ercc (a : Acc) (f : IoF) : exec (.nio a f 2) s = .next ((s.setErcc (s.ercc.flags f)).setPc (s.pc + 1)) := by
  rw [exec_nio_free hio, if_neg (fun h => absurd ((unitAt_ercc hu).symm.trans h.1) (by decide)), flagsAt_ercc (unitAt_ercc hu)]

theorem exec_dic_ercc (a : Acc) (f : IoF) : exec (.dic a f 2) s = .next ((s.setAc a 0).setPc (s.pc + 1)) := by
  have hin : inputAt .c 2 s = .ok 0 s := by
    simp only [inputAt, Exec.bind_apply, Exec.get_apply, unitAt_ercc hu]
    rfl
  have hu' : (s.setAc a 0).unitAt 2 = .ercc := (unitAt_congr (State.setAc_cfg s a _) 2).trans (unitAt_ercc hu)
  have hrun := dataIn_free hio a f hin
  rw [transferF_ercc (unitAt_ercc hu), flagsAt_ercc hu'] at hrun
  exact hrun

theorem dataOut_ercc (buf : Buffer) (a : Acc) (f : IoF) : runExec (dataOut buf a f 2) s = .next (s.setPc (s.pc + 1)) := by
  have hout : outputAt buf 2 (s.ac a) s = .ok () s := by
    simp only [outputAt, Exec.bind_apply, Exec.get_apply, unitAt_ercc hu]
    rfl
  rw [dataOut_free hio a f hout rfl, transferF_ercc (unitAt_ercc hu), flagsAt_ercc (unitAt_ercc hu)]
  rfl

theorem exec_skp_ercc (a : Acc) (c : IoTest) :
    exec (.skp a c 2) s = .next (s.setPc (s.pc + if flagTest false s.ercc.done c then 2 else 1)) := by
  have hbusy : s.busyAt 2 = false := by simp only [State.busyAt, unitAt_ercc hu]
  have hdone : s.doneAt 2 = s.ercc.done := by simp only [State.doneAt, unitAt_ercc hu]
  rw [exec_skp_free hio, skipTest_eq (by decide), hbusy, hdone]

end

section
variable {s : State} (hio : s.ioProtected 0o14 = false) (hu : s.cfg.hasRtc = true)
include hio hu

theorem exec_doaRtc (a : Acc) (f : IoF) : exec (.doaRtc a f) s =
    .next ((s.setRtc (Rtc.flags { s.rtc with freq := (s.ac a).setWidth 2 } f)).setPc (s.pc + 1)) := by
  have hu' : (s.setRtc { s.rtc with freq := (s.ac a).setWidth 2 }).unitAt 0o14 = .rtc := unitAt_rtc hu
  have hexec : exec (.doaRtc a f) s = execDoaRtc a f s := rfl
  rw [hexec, execDoaRtc]
  apply runExec_ok
  simp only [Exec.bind_apply, ioGuard_free hio, Exec.modify_apply, hu, if_true, fld_low_two, ioEnd_apply, flagsAt_rtc hu']
  rfl

theorem exec_nio_rtc (a : Acc) (f : IoF) : exec (.nio a f 0o14) s = .next ((s.setRtc (s.rtc.flags f)).setPc (s.pc + 1)) := by
  rw [exec_nio_free hio, if_neg (fun h => absurd ((unitAt_rtc hu).symm.trans h.1) (by decide)), flagsAt_rtc (unitAt_rtc hu)]

theorem exec_skp_rtc (a : Acc) (c : IoTest) :
    exec (.skp a c 0o14) s = .next (s.setPc (s.pc + if flagTest s.rtc.busy s.rtc.done c then 2 else 1)) := by
  have hbusy : s.busyAt 0o14 = s.rtc.busy := by simp only [State.busyAt, unitAt_rtc hu]
  have hdone : s.doneAt 0o14 = s.rtc.done := by simp only [State.doneAt, unitAt_rtc hu]
  rw [exec_skp_free hio, skipTest_eq (by decide), hbusy, hdone]

end

/-! ### The MAP and the WCS (46_map.md R321, R327; 45_xop_wcs.md R293) -/

section
variable {s : State} (hio : s.ioProtected 3 = false) (hu : s.cfg.mapKind ≠ .none)
include hio hu

theorem exec_nio_map (a : Acc) (f : IoF) : exec (.nio a f 3) s =
    .next ((if f = .pulse then s.setMap { s.map with singlePending := true } else s).setPc (s.pc + 1)) := by
  rw [exec_nio_free hio, unitAt_map hu]
  by_cases hf : f = .pulse
  · rw [if_pos ⟨rfl, hf⟩, if_pos hf]
    have hset : ∀ m, (s.setMap m).flagsAt f 3 = s.setMap m := fun m => flagsAt_map (unitAt_map (s := s.setMap m) hu) f
    exact congrArg (fun t => Host.Outcome.next (t.setPc (s.pc + 1))) (hset _)
  · rw [if_neg (fun h => hf h.2), if_neg hf, flagsAt_map (unitAt_map hu)]

theorem exec_skp_map (a : Acc) (c : IoTest) :
    exec (.skp a c 3) s = .next (s.setPc (s.pc + if flagTest false false c then 2 else 1)) := by
  have hbusy : s.busyAt 3 = false := by simp only [State.busyAt, unitAt_map hu]
  have hdone : s.doneAt 3 = false := by simp only [State.doneAt, unitAt_map hu]
  rw [exec_skp_free hio, skipTest_eq (by decide), hbusy, hdone]

end

section
variable {s : State} (hio : s.ioProtected 1 = false) (hu : s.cfg.hasWcs = true)
include hio hu

theorem exec_nio_wcs (a : Acc) (f : IoF) : exec (.nio a f 1) s = .next (s.setPc (s.pc + 1)) := by
  rw [exec_nio_free hio, if_neg (fun h => absurd ((unitAt_wcs hu).symm.trans h.1) (by decide)), flagsAt_wcs (unitAt_wcs hu)]

theorem exec_skp_wcs (a : Acc) (c : IoTest) :
    exec (.skp a c 1) s = .next (s.setPc (s.pc + if flagTest false false c then 2 else 1)) := by
  have hbusy : s.busyAt 1 = false := by simp only [State.busyAt, unitAt_wcs hu]
  have hdone : s.doneAt 1 = false := by simp only [State.doneAt, unitAt_wcs hu]
  rw [exec_skp_free hio, skipTest_eq (by decide), hbusy, hdone]

theorem dataIn_wcs (buf : Buffer) (a : Acc) (f : IoF) : runExec (dataIn buf a f 1) s = .next ((s.setAc a 0).setPc (s.pc + 1)) := by
  have hin : inputAt buf 1 s = .ok 0 s := by
    simp only [inputAt, Exec.bind_apply, Exec.get_apply, unitAt_wcs hu]
    rfl
  have hu' : (s.setAc a 0).unitAt 1 = .wcs := (unitAt_congr (State.setAc_cfg s a _) 1).trans (unitAt_wcs hu)
  rw [dataIn_free hio a f hin, flagsAt_wcs hu']

end

theorem flagTest_eq (y z : Bool) (c : IoTest) :
    flagTest y z c = match c with | .bn => y | .bz => !y | .dn => z | .dz => !z := by cases c <;> rfl

/-- What a device gives, or what answers where there is none. -/
theorem getD_map_eq {α : Type} (g : Device → α) (z : α) (o : Option Device) :
    (o.map g).getD z = match o with | some d => g d | none => z := by cases o <;> rfl

/-- Settles O52, unit by unit. -/
theorem deviceTransfers : Obligations.DeviceTransfers := by
  unfold Obligations.DeviceTransfers
  refine ⟨?_, ?_⟩
  · intro s a f dev c hio hu hne found read flag change act v next test
    have hflags : ∀ d : Device, d.flags f = act d := fun d => by cases f <;> rfl
    have hact : (s.updateDevice dev fun d => d.flags f) = change act := by
      have hfun : (fun d : Device => d.flags f) = act := funext hflags
      rw [hfun]
      rfl
    have hread : ∀ g : Device → Word, ((s.device dev).map g).getD 0 = read g := fun g => getD_map_eq g 0 found
    have hout : ∀ buf, (s.updateDevice dev fun d => (d.output buf v).flags f) = change fun d => act (d.output buf v) := fun buf => by
      have hfun : (fun d : Device => (d.output buf v).flags f) = fun d => act (d.output buf v) := funext fun d => hflags _
      rw [hfun]
      rfl
    have hin : ∀ buf, runExec (dataIn buf a f dev) s =
        .next (((change act).setAc a (read fun d => d.input buf)).setPc next) := fun buf => by
      rw [dataIn_peripheral hio hu buf a f, hact, hread]
    have hto : ∀ buf, runExec (dataOut buf a f dev) s = .next ((change fun d => act (d.output buf v)).setPc next) := fun buf => by
      rw [dataOut_peripheral hio hu buf a f, hout]
    refine ⟨?_, hin .a, hin .b, hin .c, hto .a, hto .b, hto .c, ?_⟩
    · rw [exec_nio_peripheral hio hu, hact]
    · have hflag : ∀ g : Device → Bool, ((s.device dev).map g).getD false = flag g := fun g => getD_map_eq g false found
      rw [exec_skp_peripheral hio hu hne, hflag, hflag]
      exact congrArg (fun taken : Bool => Host.Outcome.next (s.setPc (s.pc + if taken then 2 else 1))) (flagTest_eq _ _ c)
  · intro s a f v next flagE flagR w entry place
    have hflagE : ∀ x : Ercc, x.flags f = flagE x := fun x => by cases f <;> rfl
    have hflagR : ∀ x : Rtc, x.flags f = flagR x := fun x => by cases f <;> rfl
    refine ⟨fun hio hw => ⟨wcsOut_apply hio hw a _ rfl, ?_, ?_⟩, fun hio hw => ?_, fun hio he => ⟨?_, ?_, ?_⟩, fun hio hr => ?_, ?_⟩
    · obtain ⟨t, ht, hspec⟩ := wcsMicrocode_spec s v
      refine ⟨t, ?_, hspec⟩
      rw [← ht]
      exact wcsOut_apply hio hw a _ rfl
    · obtain ⟨t, ht, hspec⟩ := wcsDecodeAddress_spec s v
      refine ⟨t, ?_, hspec⟩
      rw [← ht]
      exact wcsOut_apply hio hw a _ rfl
    · simp only [List.forall_mem_cons]
      exact ⟨wcsOut_missing hio hw a _, wcsOut_missing hio hw a _, wcsOut_missing hio hw a _,
        fun i hi => absurd hi List.not_mem_nil⟩
    · rw [← hflagE]
      exact exec_doaErcc hio he a f
    · rw [← hflagE]
      exact exec_diaErcc hio he a f
    · rw [← hflagE]
      exact exec_dibErcc hio he a f
    · rw [← hflagR]
      exact exec_doaRtc hio hr a f
    · intro c busy skips
      have hskips : ∀ {dev : BitVec 6} {y z : Bool}, exec (.skp a c dev) s =
          .next (s.setPc (s.pc + if flagTest y z c then 2 else 1)) → skips dev y z := fun {_ y z} h => by
        rw [flagTest_eq] at h
        exact h
      refine ⟨fun hio hm => ⟨hskips (exec_skp_map hio hm a c), exec_nio_map hio hm a f⟩,
        fun hio hw => ⟨hskips (exec_skp_wcs hio hw a c), exec_nio_wcs hio hw a f, ?_⟩,
        fun hio he => ⟨hskips (exec_skp_ercc hio he a c), ?_, exec_dic_ercc hio he a f, dataOut_ercc hio he .b a f,
          dataOut_ercc hio he .c a f⟩,
        fun hio hr => ⟨hskips (exec_skp_rtc hio hr a c), ?_⟩⟩
      · simp only [List.forall_mem_cons]
        exact ⟨dataIn_wcs hio hw .a a f, dataIn_wcs hio hw .b a f, dataIn_wcs hio hw .c a f, fun i hi => absurd hi List.not_mem_nil⟩
      · rw [← hflagE]
        exact exec_nio_ercc hio he a f
      · rw [← hflagR]
        exact exec_nio_rtc hio hr a f

/-! ### Device 77 octal (R512 to R521) -/

/-- ION after an F function of the processor. -/
def ionAfter (ion : Bool) : IoF → Bool
  | .start => true
  | .clear => false
  | _ => ion

/-- An F function of the processor writes ION and its delay only. -/
theorem ionF_shape (s : State) (f : IoF) : ∃ d, s.ionF f = (s.setIonDelay d).setIon (ionAfter s.ion f) := by
  cases f with
  | start =>
    rw [State.ionF]
    cases hion : s.ion with
    | true => exact ⟨s.ionDelay, rfl⟩
    | false => exact ⟨.fresh, rfl⟩
  | none => exact ⟨s.ionDelay, rfl⟩
  | clear => exact ⟨s.ionDelay, rfl⟩
  | pulse => exact ⟨s.ionDelay, rfl⟩

theorem ionF_start (s : State) : s.ionF .start = s.interruptsOn := by
  rw [State.ionF, State.interruptsOn]
  cases hion : s.ion with
  | true =>
    rw [if_pos rfl, if_pos rfl, ← hion]
    rfl
  | false => rfl

theorem ionF_eq (s : State) (f : IoF) : s.ionF f = s.ionAct f := by
  cases f with
  | start => exact ionF_start s
  | none => rfl
  | clear => rfl
  | pulse => rfl

section
variable {s : State} (hio : s.ioProtected 0o77 = false)
include hio

/-- An instruction of the processor that changes some registers. -/
theorem cpu_free {g : State → State} (hpc : (g s).pc = s.pc) (f : IoF) :
    runExec (do ioGuard 0o77; modify g; ioEnd f 0o77) s = .next (((g s).ionAct f).setPc (s.pc + 1)) := by
  apply runExec_ok
  simp only [Exec.bind_apply, ioGuard_free hio, Exec.modify_apply, ioEnd_apply, flagsAt_cpu, ionF_eq, hpc]

theorem exec_inten : exec .inten s = .next (s.interruptsOn.setPc (s.pc + 1)) := by
  have hexec : exec .inten s = execInten s := rfl
  rw [hexec, execInten]
  apply runExec_ok
  simp only [Exec.bind_apply, ioGuard_free hio, ioEnd_apply, flagsAt_cpu, ionF_start]

theorem exec_intds : exec .intds s = .next ((s.setIon false).setPc (s.pc + 1)) := by
  have hexec : exec .intds s = execIntds s := rfl
  rw [hexec, execIntds]
  apply runExec_ok
  simp only [Exec.bind_apply, ioGuard_free hio, ioEnd_apply, flagsAt_cpu]
  rfl

theorem exec_halt (a : Acc) (f : IoF) : exec (.halt a f) s =
    .next ((((s.ionAct f).setConsole { s.console with dataLights := s.ac a }).setRun false).setPc (s.pc + 1)) := by
  obtain ⟨d, hd⟩ := ionF_shape s f
  have hac : (s.ionF f).ac a = s.ac a := by
    rw [hd]
    cases a <;> rfl
  have hcon : (s.ionF f).console = s.console := by
    rw [hd]
    rfl
  have hpc := ionF_pc s f
  have hexec : exec (.halt a f) s = execHalt a f s := rfl
  rw [hexec, execHalt, ← ionF_eq]
  apply runExec_ok
  simp only [Exec.bind_apply, ioGuard_free hio, Exec.modify_apply, advance_apply, hac, hcon, State.setConsole_pc, hpc]
  rfl

theorem exec_skpCpu (c : IoTest) : exec (.skpCpu c) s = .next (s.setPc (s.pc + if s.cpuTest c then 2 else 1)) := by
  have hexec : exec (.skpCpu c) s = execSkpCpu c s := rfl
  rw [hexec, execSkpCpu]
  apply runExec_ok
  simp only [Exec.bind_apply, ioGuard_free hio, advanceSkip_apply]
  rfl

end

/-! ### Who answers INTA (R517) -/

section
variable {s : State} {x : BitVec 6}

theorem ackAt_none (h2 : x = 2 → s.erccReq = false) (h14 : x = 0o14 → s.rtcReq = false)
    (hd : ∀ d ∈ s.devices, d.code = x → s.deviceReq d = false) : s.ackAt x = none := by
  have hfind : (s.devices.find? fun d => d.code == x && s.deviceReq d) = none := by
    rw [List.find?_eq_none]
    intro d hdm hreq
    obtain ⟨hcode, hreq⟩ := Bool.and_eq_true_iff.1 hreq
    exact Bool.false_ne_true ((hd d hdm (beq_iff_eq.1 hcode)).symm.trans hreq)
  rw [State.ackAt, if_neg (fun h => Bool.false_ne_true ((h2 h.1).symm.trans h.2)),
    if_neg (fun h => Bool.false_ne_true ((h14 h.1).symm.trans h.2)), hfind]

theorem ackAt_device (h2 : x ≠ 2) (h14 : x ≠ 0o14) {d : Device}
    (hd : (s.devices.find? fun e => e.code == x && s.deviceReq e) = some d) : s.ackAt x = some d.ackCode := by
  rw [State.ackAt, if_neg (fun h => h2 h.1), if_neg (fun h => h14 h.1), hd]

end

theorem ack_none {s : State} (h : ∀ x, s.ackAt x = none) : s.ack = 0 := by
  have hall : ((s.cfg.busOrder ++ [2, 0o14] ++ s.devices.map Device.code).findSome? s.ackAt) = none :=
    List.findSome?_eq_none_iff.2 fun x _ => h x
  rw [State.ack, hall]
  rfl

theorem ack_first {s : State} {before after : List (BitVec 6)} {x v : BitVec 6} (hbus : s.cfg.busOrder = before ++ x :: after)
    (hbefore : ∀ y ∈ before, s.ackAt y = none) (hx : s.ackAt x = some v) : s.ack = v := by
  rw [State.ack, hbus, List.append_assoc, List.append_assoc, List.findSome?_append, List.findSome?_eq_none_iff.2 hbefore,
    List.cons_append, List.findSome?_cons, hx]
  rfl

/-! ### IORST (R519) -/

/-- What an I/O RESET leaves, element by element (10_state.md R45). -/
theorem ioReset_elements (s : State) : ∃ t, ioReset s = .ok () t ∧ t.pc = s.pc ∧ t.mask = 0 ∧ t.fpsr = s.fpsr &&& 0x03FFFFFF
    ∧ t.ion = s.ion ∧ t.mem = s.mem ∧ (∀ n, t.ac n = s.ac n ∧ t.fpac n = s.fpac n) ∧ t.carry = s.carry
    ∧ t.devices = s.devices.map (fun d => { d with busy := false, done := false, lastPulse := some .reset })
    ∧ t.rtc = { freq := 0, busy := false, done := false } ∧ t.ercc.mode = 2 ∧ t.ercc.done = false
    ∧ t.map = s.map.ioReset (Config.freeWord s.free) (Config.freeWord (s.free + 1)) (Config.freeWord (s.free + 1 + 1))
        (Config.freeWord (s.free + 1 + 1 + 1)) := by
  simp only [ioReset, Exec.bind_apply, freshWord_apply, Exec.modify_apply]
  refine ⟨_, rfl, ?_⟩
  simp

theorem exec_iorst {s t : State} (hio : s.ioProtected 0o77 = false) (ht : ioReset s = .ok () t) (a : Acc) (f : IoF) :
    exec (.iorst a f) s = .next ((t.ionF f).setPc (t.pc + 1)) := by
  have hexec : exec (.iorst a f) s = execIorst a f s := rfl
  rw [hexec, execIorst]
  apply runExec_ok
  simp only [Exec.bind_apply, ioGuard_free hio, ht, ioEnd_apply, flagsAt_cpu]

theorem ionAfter_eq (ion : Bool) (f : IoF) : ionAfter ion f = match f with | .start => true | .clear => false | _ => ion := by
  cases f <;> rfl

/-- Settles O53, instruction by instruction. -/
theorem processorDevice : Obligations.ProcessorDevice := by
  unfold Obligations.ProcessorDevice
  intro s a f c hio next fail test silent
  have hack : ∀ x, silent x → s.ackAt x = none := fun x ⟨h2, h14, hd⟩ => ackAt_none h2 h14 hd
  refine ⟨exec_inten hio, exec_intds hio, cpu_free hio (State.setAc_pc s a _) f, cpu_free hio rfl f,
    cpu_free hio (State.setAc_pc s a _) f, fun h => ack_none fun x => hack x (h x), ?_, exec_halt hio a f, ?_, ?_⟩
  · intro d before after hbus hbefore h2 h14 hfind
    exact ack_first hbus (fun x hx => hack x (hbefore x hx)) (ackAt_device h2 h14 hfind)
  · have htest : s.cpuTest c = test := by cases c <;> rfl
    rw [exec_skpCpu hio, htest]
  · obtain ⟨t, ht, hpc, hmask, hfpsr, hion, hmem, hregs, hcarry, hdev, hrtc, hmode, hdone, hmap⟩ := ioReset_elements s
    obtain ⟨d, hd⟩ := ionF_shape t f
    refine ⟨_, exec_iorst hio ht a f, ?_⟩
    rw [hd, hpc]
    refine ⟨rfl, hmask, hfpsr, (congrArg (ionAfter · f) hion).trans (ionAfter_eq s.ion f), hmem, fun n => ?_, hcarry, hdev, hrtc, hmode,
      hdone, ?_⟩
    · cases n
      · exact hregs .a0
      · exact hregs .a1
      · exact hregs .a2
      · exact hregs .a3
    · simp only [State.setPc_map, State.setIon_map, State.setIonDelay_map, hmap]
      exact ⟨rfl, rfl, rfl, rfl, rfl, rfl, rfl, rfl, rfl, rfl, rfl, rfl, rfl, rfl⟩

/-! ### The vector instruction (R522) -/

theorem setAc2_pushed (s : State) (x v : Word) : (s.setAc2 x).pushed v = (s.pushed v).setAc2 x := by
  rw [State.pushed, State.pushed, State.setAc2_look, State.setAc2_put, State.setAc2_put]

theorem stackChange_calm {s : State} (hc : s.calm = true) : stackChange s = .ok () s.stackChanged := by
  have h1 : (s.put 0o40 (s.look 4)).calm = true := (State.put_calm s _ _).trans hc
  have h2 : ((s.put 0o40 (s.look 4)).put 0o42 ((s.put 0o40 (s.look 4)).look 6)).calm = true := (State.put_calm _ _ _).trans h1
  simp only [stackChange, State.stackChanged, Exec.bind_apply, memRead_calm hc, memWrite_calm hc, memRead_calm h1, memWrite_calm h1,
    memRead_calm h2, memWrite_calm h2]
  generalize hv : ((s.put 0o40 (s.look 4)).put 0o42 ((s.put 0o40 (s.look 4)).look 6)).put 0o43
    (((s.put 0o40 (s.look 4)).put 0o42 ((s.put 0o40 (s.look 4)).look 6)).look 7) = v
  have hcv : v.calm = true := by rw [← hv, State.put_calm, h2]
  have h40 : (v.pushed (s.look 0o40)).calm = true := (State.pushed_calm v _).trans hcv
  have h41 : ((v.pushed (s.look 0o40)).pushed (s.look 0o41)).calm = true := (State.pushed_calm _ _).trans h40
  have h42 : (((v.pushed (s.look 0o40)).pushed (s.look 0o41)).pushed (s.look 0o42)).calm = true := (State.pushed_calm _ _).trans h41
  simp only [push_calm hcv, push_calm h40, push_calm h41, push_calm h42, State.pushedAll, List.foldl_cons, List.foldl_nil]

theorem stackChanged_calm {s : State} (hc : s.calm = true) : s.stackChanged.calm = true := by
  rw [State.stackChanged, pushedAll_calm, State.put_calm, State.put_calm, State.put_calm, hc]

/-- VCT after the stack change and the block. -/
def vectorTail (dct : Addr) (d0 : Word) : Exec Unit := do
  modify fun s => s.setAc2 (wordOfAddr dct)
  let old ← memRead 5
  push old
  let new ← memRead (dct + 1)
  let cur ← memRead 5
  modify fun s => s.setAc0 (new ||| cur)
  memWrite 5 (new ||| cur)
  modify fun s => (s.setMask (new ||| cur)).ionF .start
  modify fun s => s.setPc (addrOf d0)
  checkOverflow (addrOf d0)

theorem vectorThrough_eq (change : Bool) (dct : Addr) : vectorThrough change dct = (do
    if change then stackChange
    let d0 ← memRead dct
    if isIndirect d0 then do
      let w ← memRead 0
      pushBlock (addrOf w)
    vectorTail dct d0) := rfl

theorem vectorTail_calm {u : State} (hc : u.calm = true) (dct : Addr) (d0 : Word) :
    let v := u.pushed (u.look 5)
    let m := v.look (dct + 1) ||| v.look 5
    let w := (((v.put 5 m).setAc0 m).setAc2 (0#1 ++ dct)).setMask m
    (w.interruptsOn.setPc (d0.setWidth 15)).overflowed = false →
    vectorTail dct d0 u = .ok () (w.interruptsOn.setPc (d0.setWidth 15)) := by
  intro v m w ho
  have hc2 : (u.setAc2 (wordOfAddr dct)).calm = true := hc
  have hcv : (v.setAc2 (wordOfAddr dct)).calm = true := (State.pushed_calm u _).trans hc
  have hcm : ((v.setAc2 (wordOfAddr dct)).setAc0 m).calm = true := hcv
  have hput : ((v.setAc2 (wordOfAddr dct)).setAc0 m).put 5 m = ((v.put 5 m).setAc0 m).setAc2 (wordOfAddr dct) := by
    rw [State.setAc0_put, State.setAc2_put]
    rfl
  have hcw : w.calm = true := (State.put_calm v 5 m).trans ((State.pushed_calm u _).trans hc)
  have hci : (w.interruptsOn.setPc (d0.setWidth 15)).calm = true := by
    rw [← ionF_start]
    obtain ⟨d, hd⟩ := ionF_shape w .start
    rw [hd]
    exact hcw
  have hread1 : memRead (dct + 1) (v.setAc2 (wordOfAddr dct)) = .ok (v.look (dct + 1)) (v.setAc2 (wordOfAddr dct)) := memRead_calm hcv _
  have hread5 : memRead 5 (v.setAc2 (wordOfAddr dct)) = .ok (v.look 5) (v.setAc2 (wordOfAddr dct)) := memRead_calm hcv _
  have hwrite : memWrite 5 (v.look (dct + 1) ||| v.look 5) ((v.setAc2 (wordOfAddr dct)).setAc0 (v.look (dct + 1) ||| v.look 5)) =
      .ok () (((v.put 5 m).setAc0 m).setAc2 (wordOfAddr dct)) := (memWrite_calm hcm 5 m).trans (congrArg _ hput)
  have hpush : push (u.look 5) (u.setAc2 (wordOfAddr dct)) = .ok () (v.setAc2 (wordOfAddr dct)) := by
    rw [push_calm hc2, setAc2_pushed]
  simp only [vectorTail, Exec.bind_apply, Exec.modify_apply, memRead_calm hc2, State.setAc2_look, hpush, hread1, hread5, hwrite,
    ionF_start, addrOf_eq_setWidth]
  exact checkOverflow_calm_ok hci ho _

theorem vectorThrough_changed {s : State} (hc : s.calm = true) (dct : Addr) :
    vectorThrough true dct s = vectorThrough false dct s.stackChanged := by
  rw [vectorThrough_eq, vectorThrough_eq]
  simp only [if_true, Bool.false_eq_true, if_false, Exec.bind_apply, stackChange_calm hc]

/-- The stack change comes first. -/
theorem vectorThrough_change {s : State} (hc : s.calm = true) (change : Bool) (dct : Addr) :
    vectorThrough change dct s = vectorThrough false dct (if change then s.stackChanged else s)
    ∧ (if change then s.stackChanged else s).calm = true := by
  cases change with
  | true =>
    rw [if_pos rfl]
    exact ⟨vectorThrough_changed hc dct, stackChanged_calm hc⟩
  | false =>
    rw [if_neg Bool.false_ne_true]
    exact ⟨rfl, hc⟩

/-- The block is pushed where bit 0 of the first word of the device control table is 1. -/
theorem vectorThrough_block {t : State} (hc : t.calm = true) (dct : Addr) :
    let u := if (t.look dct).msb then t.pushedBlock ((t.look 0).setWidth 15) else t
    vectorThrough false dct t = vectorTail dct (t.look dct) u ∧ u.calm = true := by
  rw [vectorThrough_eq]
  simp only [Bool.false_eq_true, if_false, Exec.bind_apply, memRead_calm hc, isIndirect_eq_msb]
  cases hm : (t.look dct).msb with
  | true =>
    simp only [if_true, Exec.bind_apply, memRead_calm hc, pushBlock_calm hc, addrOf_eq_setWidth, State.pushedBlock_calm, hc, and_self]
  | false => simp only [Bool.false_eq_true, if_false, hc, and_self]

/-- Settles O54: the table entry decides between the handler's address and a device control table. -/
theorem vectorInstruction : Obligations.VectorInstruction := by
  unfold Obligations.VectorInstruction
  intro s change table hc hio entry dct t d0 u v m w
  have hexec : exec (.vct change table) s = execVct change table s := rfl
  refine ⟨fun hm => ?_, fun hm ho => ?_⟩
  · have hread : memRead (table + s.ack.zeroExtend 15) s = .ok entry s := memRead_calm hc _
    rw [hexec, execVct]
    apply runExec_ok
    simp only [Exec.bind_apply, ioGuard_free hio, hread, isIndirect_eq_msb, hm, Bool.false_eq_true, if_false, Exec.modify_apply,
      addrOf_eq_setWidth]
  · have hread : memRead (table + s.ack.zeroExtend 15) s = .ok entry s := memRead_calm hc _
    rw [hexec, execVct]
    apply runExec_ok
    simp only [Exec.bind_apply, ioGuard_free hio, hread, isIndirect_eq_msb, hm, if_true, addrOf_eq_setWidth]
    obtain ⟨hchange, hct⟩ := vectorThrough_change hc change (entry.setWidth 15)
    obtain ⟨hblock, hcu⟩ := vectorThrough_block hct (entry.setWidth 15)
    rw [hchange, hblock]
    exact vectorTail_calm hcu dct d0 ho

end Sys2Proof.Proofs.InputOutput
end

section
/-! SUPPORT. The MAP: translation, and the words of its two variants (46_map.md). -/

namespace Sys2Proof.Proofs.Mapping

open Sys2Proof Sys2Proof.Machine Sys2Proof.Proofs.FixedPoint Sys2Proof.Proofs.Cycle Sys2Proof.Proofs.Bytes

-- Theorems elaborated side by side each hold a thread's stack, and the memory limit is near.
set_option Elab.async false

/-! ### Translation (R301, R303, R313, R314) -/

theorem unmapped_eq (s : State) (a : Addr) : s.unmapped a =
    if s.cfg.mapKind ≠ .none ∧ a.toNat / 1024 = 31 then s.map.sup31.toNat * 1024 + a.toNat % 1024 else a.toNat := by
  have hblock : (blockOf a == 31) = true ↔ a.toNat / 1024 = 31 := by
    rw [beq_iff_eq, ← BitVec.toNat_inj, blockOf_toNat]
    rfl
  have hiff : (s.hasMap && blockOf a == 31) = true ↔ s.cfg.mapKind ≠ .none ∧ a.toNat / 1024 = 31 := by
    rw [Bool.and_eq_true, hasMap_iff, hblock]
  rw [State.unmapped, physAddr_eq]
  by_cases h : s.cfg.mapKind ≠ .none ∧ a.toNat / 1024 = 31
  · rw [if_pos h, if_pos (hiff.2 h)]
  · rw [if_neg h, if_neg (fun h' => h (hiff.1 h'))]

theorem translate_supervisor {s : State} (h : s.userMode = false) (w : Bool) (a : Addr) :
    s.translate false w a = .ok (s.unmapped a) := by
  simp [State.translate, h]

theorem translate_user {s : State} (h : s.userMode = true) (w : Bool) (a : Addr) : s.translate false w a = s.mapped w a := by
  simp [State.translate, h]

theorem invalid_eq (k : MapKind) (x : MapEntry) :
    x.invalid k = ((k == .map200 && x.wp && x.phys == 127) || (k == .map230 && x.val == 3)) := by
  cases k with
  | none => rfl
  | map200 =>
    have h : (MapKind.map200 == MapKind.map230) = false := rfl
    rw [MapEntry.invalid, h, Bool.false_and, Bool.or_false, beq_self_eq_true, Bool.true_and]
  | map230 =>
    have h : (MapKind.map230 == MapKind.map200) = false := rfl
    rw [MapEntry.invalid, h, Bool.false_and, Bool.false_and, Bool.false_or, beq_self_eq_true, Bool.true_and]

/-- A reference through a user's map, in arithmetic of addresses. -/
theorem mapped_eq {s : State} {u : User} {on : Bool} (hu : s.curUser = u) (hon : s.enables.wp = on) (w : Bool) (a : Addr) :
    let x : MapEntry := (s.map.umap u).toList.getD (a.toNat / 1024) MapEntry.zero
    s.mapped w a = if x.invalid s.cfg.mapKind then .error .validity else if w && on && x.wp then .error .write
      else .ok (x.phys.toNat * 1024 + a.toNat % 1024) := by
  intro x
  rw [State.mapped, hu, hon, entryAt_blockOf, physAddr_eq]

theorem translate_of_user {s : State} (huser : s.map.userEn = true) {u : User} {on : Bool}
    (hvar : (s.cfg.mapKind = .map200 ∧ u = s.map.lastUser ∧ on = (s.map.ustat u).wp)
      ∨ (s.cfg.mapKind = .map230 ∧ u = s.map.ab ∧ on = s.map.status.wp)) (w : Bool) (a : Addr) :
    let x : MapEntry := (s.map.umap u).toList.getD (a.toNat / 1024) MapEntry.zero
    s.translate false w a = if x.invalid s.cfg.mapKind then .error .validity else if w && on && x.wp then .error .write
      else .ok (x.phys.toNat * 1024 + a.toNat % 1024) := by
  obtain ⟨hk, hu, hon⟩ : s.cfg.mapKind ≠ .none ∧ s.curUser = u ∧ s.enables.wp = on := by
    obtain ⟨hk, hu, hon⟩ | ⟨hk, hu, hon⟩ := hvar
    · have hcur : s.curUser = u := by rw [State.curUser, hk, hu]
      exact ⟨by rw [hk]; decide, hcur, by rw [State.enables, hk, hcur, hon]⟩
    · exact ⟨by rw [hk]; decide, by rw [State.curUser, hk, hu], by rw [State.enables, hk, hon]⟩
  have hmode : s.userMode = true := by
    rw [State.userMode, huser, Bool.and_true]
    exact (hasMap_iff s).2 hk
  exact (translate_user hmode w a).trans (mapped_eq hu hon w a)

/-- Settles O55: the two modes, and in user mode the entry of the current user's map. -/
theorem mapTranslation : Obligations.MapTranslation := by
  unfold Obligations.MapTranslation
  intro s isWrite a offset block
  refine ⟨fun h => ?_, fun huser u on hvar => ?_⟩
  · rw [translate_supervisor h, unmapped_eq]
  · intro x invalid
    rw [show invalid = x.invalid s.cfg.mapKind from (invalid_eq _ _).symm]
    cases u with
    | a => exact translate_of_user huser (u := .a) hvar isWrite a
    | b => exact translate_of_user huser (u := .b) hvar isWrite a

/-! ### The instructions of device 3 -/

theorem mapDataOut_free {s : State} (hio : s.ioProtected 3 = false) (a : Acc) (g : Word → MapUnit → MapUnit) :
    runExec (mapDataOut a fun v => modifyMap (g v)) s = .next ((s.setMap (g (s.ac a) s.map)).setPc (s.pc + 1)) := by
  apply runExec_ok
  simp only [mapDataOut, Exec.bind_apply, ioGuard_free hio, Exec.get_apply, modifyMap, Exec.modify_apply, advance_apply,
    State.setMap_pc]

theorem mapDataIn_free {s t : State} (hio : s.ioProtected 3 = false) (a : Acc) {f : Exec Word} {w : Word} (hf : f s = .ok w t) :
    runExec (mapDataIn a f) s = .next ((t.setAc a w).setPc (t.pc + 1)) := by
  apply runExec_ok
  simp only [mapDataIn, Exec.bind_apply, ioGuard_free hio, hf, Exec.modify_apply, advance_apply, State.setAc_pc]

theorem exec_niop {s : State} (hio : s.ioProtected 3 = false) :
    runExec (do ioGuard 3; mapSingleCycle; advance 1) s = .next ((s.setMap { s.map with singlePending := true }).setPc (s.pc + 1)) := by
  apply runExec_ok
  simp only [Exec.bind_apply, ioGuard_free hio]
  rfl

theorem setEntry_spec (m : Vector MapEntry 32) (b : BitVec 5) (e : MapEntry) (i : Nat) (h : i < 32) :
    (setEntry m b e)[i] = if i = b.toNat then e else m[i] := by
  rw [setEntry, Vector.getElem_set]
  by_cases hi : i = b.toNat
  · rw [if_pos hi, if_pos hi.symm]
  · rw [if_neg hi, if_neg (fun h => hi h.symm)]

theorem entryAt_eq (m : Vector MapEntry 32) (b : BitVec 5) : entryAt m b = m.toList.getD b.toNat MapEntry.zero := by
  have hb : b.toNat < m.toList.length := by
    rw [Vector.length_toList]
    exact b.isLt
  rw [List.getD_eq_getElem _ _ hb, Vector.getElem_toList, entryAt]

theorem entry230_eq (w : Word) : entry230 w = { wp := w.msb, val := w.extractLsb' 8 2, phys := w.setWidth 8 } := by
  have hphys : fld w 8 8 = w.setWidth 8 := (loByte_eq_setWidth w)
  rw [entry230, hphys]
  rfl

/-! ### Words put together from fields, bit by bit -/

/-- The bits of a word, the high-order bit first. -/
def bits {n : Nat} (w : BitVec n) : List Bool := (List.range n).map w.getMsbD

theorem bits_append {n m : Nat} (x : BitVec n) (y : BitVec m) : bits (x ++ y) = bits x ++ bits y := by
  rw [bits, bits, bits, List.range_add, List.map_append, List.map_map]
  congr 1
  · refine List.map_congr_left fun i hi => ?_
    rw [BitVec.getMsbD_append, if_neg (Nat.not_le.2 (List.mem_range.1 hi))]
  · refine List.map_congr_left fun i _ => ?_
    rw [Function.comp_apply, BitVec.getMsbD_append, if_pos (Nat.le_add_right n i), Nat.add_sub_cancel_left]

theorem bits_bitOf (b : Bool) : bits (bitOf b) = [b] := by cases b <;> rfl

theorem bits_bitOfUser (u : User) : bits (bitOfUser u) = [u == .b] := by cases u <;> rfl

theorem bits_three (x : BitVec 3) : bits x = [x.getMsbD 0, x.getMsbD 1, x.getMsbD 2] := rfl

theorem bits_mapStatus230 (m : MapUnit) : bits m.mapStatus230 =
    [false, false, m.fault.io, m.fault.wp, m.fault.ind, m.fault.single, m.sel.getMsbD 0, m.sel.getMsbD 1, m.sel.getMsbD 2,
      m.status.lef, m.status.io, m.status.wp, m.status.ind, m.ab == .b, m.dchEn, m.umodeInt] := by
  have hzero : bits 0#2 = [false, false] := rfl
  rw [MapUnit.mapStatus230]
  iterate 12 rw [bits_append]
  simp only [hzero, bits_bitOf, bits_bitOfUser, bits_three, List.cons_append, List.nil_append]

/-! ### BLOCK CHECK and LOAD MAP by the map code (R332, R338) -/

/-- What a map code selects, and what a load through it writes. -/
theorem selected230_and_load230 {m : MapUnit} {c : BitVec 3} {t : Vector MapEntry 32} (hsel : m.sel = c)
    (ht : (c, t) ∈ [(0, m.umapA), (2, m.umapB), (4, m.dmapA), (5, m.dmapC), (6, m.dmapB), (7, m.dmapD)]) (v : Word) :
    m.selected230 = some t ∧ m.load230 v =
      (match c.toNat with
        | 0 => { m with umapA := setEntry t (fld v 1 5) (entry230 v) }
        | 2 => { m with umapB := setEntry t (fld v 1 5) (entry230 v) }
        | 4 => { m with dmapA := setEntry t (fld v 1 5) (entry230 v) }
        | 5 => { m with dmapC := setEntry t (fld v 1 5) (entry230 v) }
        | 6 => { m with dmapB := setEntry t (fld v 1 5) (entry230 v) }
        | _ => { m with dmapD := setEntry t (fld v 1 5) (entry230 v) }) := by
  rw [MapUnit.selected230, MapUnit.load230, hsel]
  simp only [List.mem_cons, Prod.mk.injEq, List.not_mem_nil, or_false] at ht
  obtain ⟨rfl, rfl⟩ | ⟨rfl, rfl⟩ | ⟨rfl, rfl⟩ | ⟨rfl, rfl⟩ | ⟨rfl, rfl⟩ | ⟨rfl, rfl⟩ := ht <;> exact ⟨rfl, rfl⟩

theorem selected230_reserved {m : MapUnit} (h : m.sel = 1 ∨ m.sel = 3) : m.selected230 = none := by
  obtain h | h := h <;> rw [MapUnit.selected230, h] <;> rfl

theorem blockCheck_some {s : State} {t : Vector MapEntry 32} (h : s.map.selected230 = some t) :
    blockCheck s = .ok (blockCheckWord s.map.sel (entryAt t s.map.checkBlock)) s := by
  simp only [blockCheck, Exec.bind_apply, Exec.get_apply, h, Exec.pure_apply]

theorem blockCheck_none {s : State} (h : s.map.selected230 = none) :
    ∃ w, blockCheck s = .ok w (s.setFree (s.free + 1)) := by
  simp only [blockCheck, Exec.bind_apply, Exec.get_apply, h, freshWord, Exec.set_apply, Exec.pure_apply]
  exact ⟨_, rfl⟩

theorem setAc_setFree (s : State) (k : Nat) (a : Acc) (w : Word) : (s.setFree k).setAc a w = (s.setAc a w).setFree k := by
  cases a <;> rfl

/-- Settles O56, instruction by instruction. -/
theorem mapDevice230 : Obligations.MapDevice230 := by
  unfold Obligations.MapDevice230
  intro s a hio v bit user next m out
  refine ⟨mapDataOut_free hio a _, ?_, mapDataOut_free hio a _, exec_niop hio,
    ⟨m.mapStatus230, mapDataIn_free hio a rfl, bits_mapStatus230 m⟩, fun c t hsel ht => ?_, fun hsel => ?_⟩
  · have hdob := mapDataOut_free hio a fun v m => { m with sup31 := fld v 8 8 }
    rw [show fld (s.ac a) 8 8 = (s.ac a).setWidth 8 from loByte_eq_setWidth _] at hdob
    exact hdob
  · intro x
    refine ⟨?_, fun w => ⟨setEntry t (fld w 1 5) (entry230 w), fun i h => ?_, (selected230_and_load230 hsel ht w).2⟩⟩
    · have hword : blockCheckWord m.sel (entryAt t m.checkBlock) = bitOf x.wp ++ c ++ 0#2 ++ x.val ++ x.phys := by
        rw [hsel, entryAt_eq]
        rfl
      have hcheck := blockCheck_some (selected230_and_load230 hsel ht 0).1
      rw [hword] at hcheck
      exact mapDataIn_free hio a hcheck
    · rw [setEntry_spec _ _ _ _ h, entry230_eq]
      rfl
  · obtain ⟨w, hw⟩ := blockCheck_none (selected230_reserved hsel)
    have hdic := mapDataIn_free hio a hw
    rw [setAc_setFree] at hdic
    exact ⟨w, s.free + 1, hdic⟩

/-! ### The word formats of the S/200 and C/300 (R307 to R309) -/

theorem lowSeven_eq (w : Word) : (0#1 ++ fld w 9 7 : BitVec 8) = (w.setWidth 7).setWidth 8 := by
  apply BitVec.eq_of_toNat_eq
  rw [BitVec.toNat_append, fld, BitVec.extractLsb'_toNat, BitVec.toNat_setWidth, BitVec.toNat_setWidth]
  simp
  omega

theorem entry200_eq (w : Word) : entry200 w = { wp := w.getMsbD 8, val := 0, phys := (w.setWidth 7).setWidth 8 } := by
  rw [entry200, lowSeven_eq]
  rfl

theorem load200_translation {m : MapUnit} {v : Word} (h : fld v 6 2 ≠ 0) : m.load200 v = m.loadTranslation200 v := if_pos h

theorem load200_devices {m : MapUnit} {v : Word} (h : fld v 6 2 = 0) (hone : v.getMsbD 1 = true) :
    m.load200 v = m.loadDevices200 v := by
  rw [MapUnit.load200, if_neg (not_not.2 h), if_pos (show wordBit v 1 = true from hone)]

theorem load200_status {m : MapUnit} {v : Word} (h : fld v 6 2 = 0) (hone : v.getMsbD 1 = false) :
    m.load200 v = m.loadStatus200 v := by
  rw [MapUnit.load200, if_neg (not_not.2 h), if_neg (by rw [wordBit, hone]; decide)]

/-- A format one word and TRANSLATE BLOCK, by the map code in bits 6 and 7. -/
theorem translation200 {m : MapUnit} {v : Word} {k : BitVec 2} (hk : fld v 6 2 = k) :
    (k = 1 → m.load200 v = { m with dmapA := setEntry m.dmapA (fld v 1 5) (entry200 v) })
    ∧ (k = 2 → m.load200 v = { m with umapA := setEntry m.umapA (fld v 1 5) (entry200 v) })
    ∧ (k = 3 → m.load200 v = { m with umapB := setEntry m.umapB (fld v 1 5) (entry200 v) }) := by
  refine ⟨fun h => ?_, fun h => ?_, fun h => ?_⟩ <;> subst h <;>
    rw [load200_translation (by rw [hk]; decide), MapUnit.loadTranslation200, hk] <;> rfl

/-- The field TR that TRANSLATE BLOCK leaves (R324). -/
def foundWord (t : Vector MapEntry 32) (v : Word) : BitVec 8 :=
  bitOf (t.toList.getD (fld v 1 5).toNat MapEntry.zero).wp ++ (t.toList.getD (fld v 1 5).toNat MapEntry.zero).phys.setWidth 7

theorem translateBlock200_code {m : MapUnit} {v : Word} {k : BitVec 2} (hk : fld v 6 2 = k) :
    (k = 0 → m.translateBlock200 v = m)
    ∧ (k = 1 → m.translateBlock200 v = { m with tr := foundWord m.dmapA v })
    ∧ (k = 2 → m.translateBlock200 v = { m with tr := foundWord m.umapA v })
    ∧ (k = 3 → m.translateBlock200 v = { m with tr := foundWord m.umapB v }) := by
  have hword : ∀ t : Vector MapEntry 32,
      bitOf (entryAt t (fld v 1 5)).wp ++ (entryAt t (fld v 1 5)).phys.extractLsb' 0 7 = foundWord t v := fun t => by
    rw [entryAt_eq, foundWord, BitVec.setWidth_eq_extractLsb' (by omega)]
  refine ⟨fun h => ?_, fun h => ?_, fun h => ?_, fun h => ?_⟩ <;> subst h <;>
    simp only [MapUnit.translateBlock200, hk, hword] <;> rfl

theorem loadDevices200_eq (m : MapUnit) (v : Word) : ∃ t : Vector (BitVec 8) 8,
    (∀ i (h : i < 8), t[i] = if i = (fld v 3 3).toNat then v.setWidth 8
      else if v.getMsbD 2 then m.devProtB[i] else m.devProtA[i])
    ∧ m.loadDevices200 v = if v.getMsbD 2 then { m with devProtB := t } else { m with devProtA := t } := by
  have hset : ∀ (p : Vector (BitVec 8) 8) (i : Nat) (h : i < 8),
      (p.set (fld v 3 3).toNat (fld v 8 8) (fld v 3 3).isLt)[i] = if i = (fld v 3 3).toNat then v.setWidth 8 else p[i] := by
    intro p i h
    rw [Vector.getElem_set, show fld v 8 8 = v.setWidth 8 from loByte_eq_setWidth v]
    by_cases hi : i = (fld v 3 3).toNat
    · rw [if_pos hi, if_pos hi.symm]
    · rw [if_neg hi, if_neg (fun h => hi h.symm)]
  by_cases h2 : v.getMsbD 2 = true
  · refine ⟨m.devProtB.set (fld v 3 3).toNat (fld v 8 8) (fld v 3 3).isLt, fun i h => ?_, ?_⟩
    · rw [if_pos h2, hset]
    · rw [MapUnit.loadDevices200, wordBit, if_pos h2, if_pos h2]
  · refine ⟨m.devProtA.set (fld v 3 3).toNat (fld v 8 8) (fld v 3 3).isLt, fun i h => ?_, ?_⟩
    · rw [if_neg h2, hset]
    · rw [MapUnit.loadDevices200, wordBit, if_neg h2, if_neg h2]

theorem loadStatus200_eq (m : MapUnit) (v : Word) : m.loadStatus200 v = { m with
    ustatA := if v.getMsbD 2 then m.ustatA else enables200 v, ustatB := if v.getMsbD 2 then enables200 v else m.ustatB,
    dchEn := v.getMsbD 14,
    enablePending := if v.getMsbD 15 then some (if v.getMsbD 2 then .b else .a) else m.enablePending } := by
  rw [MapUnit.loadStatus200]
  simp only [wordBit, userOfBit]
  by_cases h2 : v.getMsbD 2 = true
  · simp only [h2, ↓reduceIte]
  · simp only [h2, Bool.false_eq_true, ↓reduceIte]

/-! ### The status words of the S/200 and C/300 (R319, R320) -/

theorem bits_userStatus200 (m : MapUnit) : bits m.userStatus200 =
    [false, false, m.lastUser == .b, false, false, false, false, false, false, (m.ustat m.lastUser).lef,
      (m.ustat m.lastUser).io, (m.ustat m.lastUser).wp, (m.ustat m.lastUser).ind, (m.ustat m.lastUser).dchp, m.dchEn,
      m.umodeInt] := by
  have hzero : bits 0#2 = [false, false] := rfl
  have hsix : bits 0#6 = [false, false, false, false, false, false] := rfl
  rw [MapUnit.userStatus200]
  iterate 9 rw [bits_append]
  simp only [hzero, hsix, bits_bitOf, bits_bitOfUser, List.cons_append, List.nil_append]

theorem bits_mapStatus200 (m : MapUnit) : bits m.mapStatus200 =
    [m.dchErr, m.fault.single, m.fault.wp, m.fault.valid, m.fault.ind, m.fault.io, m.lastUser == .b, m.fault.pcUndef] ++
      bits m.tr := by
  rw [MapUnit.mapStatus200]
  iterate 8 rw [bits_append]
  simp only [bits_bitOf, bits_bitOfUser, List.cons_append, List.nil_append]

theorem bits_take_eight (w : Word) : (bits w).take 8 = (List.range 8).map w.getMsbD := rfl

theorem setWidth_mapStatus200 (m : MapUnit) : m.mapStatus200.setWidth 8 = m.tr := by
  rw [MapUnit.mapStatus200, BitVec.setWidth_append]
  simp

theorem ustat_lastUser (m : MapUnit) : m.ustat m.lastUser = if m.lastUser = .b then m.ustatB else m.ustatA := by
  cases m.lastUser <;> rfl

/-- Settles O57, instruction by instruction; DOA and DOC by the map code. -/
theorem mapDevice200 : Obligations.MapDevice200 := by
  unfold Obligations.MapDevice200
  intro s a hio v bit user block dev next m loaded entered enables x found k st
  have hdoa : exec (.doaMap200 a) s = .next ((s.setMap (m.load200 v)).setPc next) := mapDataOut_free hio a _
  have hdoc : exec (.docMap200 a) s = .next ((s.setMap (m.translateBlock200 v)).setPc next) := mapDataOut_free hio a _
  have hload : ∀ {f : MapUnit}, m.load200 v = f → loaded f := fun h => h ▸ hdoa
  have hfound : ∀ {t : Vector MapEntry 32}, m.translateBlock200 v = { m with tr := foundWord t v } → found t := fun h =>
    hdoc.trans (by rw [h]; rfl)
  have hentered : ∀ t : Vector MapEntry 32, entered t (setEntry t (fld v 1 5) (entry200 v)) := fun t i h => by
    rw [setEntry_spec _ _ _ _ h, entry200_eq]
    rfl
  obtain ⟨hl1, hl2, hl3⟩ := translation200 (m := m) (v := v) (k := k) rfl
  obtain ⟨ht0, ht1, ht2, ht3⟩ := translateBlock200_code (m := m) (v := v) (k := k) rfl
  refine ⟨fun h => ⟨⟨_, hentered _, hload (hl1 h)⟩, hfound (ht1 h)⟩, fun h => ⟨⟨_, hentered _, hload (hl2 h)⟩, hfound (ht2 h)⟩,
    fun h => ⟨⟨_, hentered _, hload (hl3 h)⟩, hfound (ht3 h)⟩, fun h => ?_, fun h h1 => ?_, fun h h1 => ?_, ?_, exec_niop hio,
    ⟨m.userStatus200, mapDataIn_free hio a rfl, ?_⟩, ⟨m.mapStatus200, mapDataIn_free hio a rfl, setWidth_mapStatus200 m, ?_⟩⟩
  · rw [hdoc, ht0 h]
    rfl
  · obtain ⟨t, ht, hm⟩ := loadDevices200_eq m v
    exact ⟨t, ht, hload ((load200_devices h h1).trans hm)⟩
  · exact hload ((load200_status h h1).trans (loadStatus200_eq m v))
  · have hdob := mapDataOut_free hio a fun v m => { m with sup31 := 0#1 ++ fld v 9 7 }
    rw [lowSeven_eq] at hdob
    exact hdob
  · rw [show st = m.ustat m.lastUser from (ustat_lastUser m).symm]
    exact bits_userStatus200 m
  · rw [← bits_take_eight, bits_mapStatus200]
    rfl

end Sys2Proof.Proofs.Mapping
end

section
/-! SUPPORT. Protection faults (46_map.md section 2). -/

namespace Sys2Proof.Proofs.Protection

open Sys2Proof Sys2Proof.Machine Sys2Proof.Proofs.Addresses Sys2Proof.Proofs.Float

-- Theorems elaborated side by side each hold a thread's stack, and the memory limit is near.
set_option Elab.async false

/-! ### Where a fault goes -/

/-- The state in which a protection fault jumps through location 3: the violation recorded, the block pushed. -/
def faultBlock (s : State) (v : Violation) : State :=
  (s.faultRecorded (faultStatus s.cfg.mapKind v false (if v = .io then false else isIndirect (Config.freeWord (s.free + 1))))).pushedBlock
    (if v = .io then s.pc + 1 else addrOf (Config.freeWord s.free))

/-- A violation in `s` ends the instruction in `t`, whatever was to follow. -/
def Faults (s : State) (v : Violation) (t : State) : Prop :=
  ∀ (α : Type), (protectionFault v false : Exec α) s = .error .trap t

theorem faults_faultBlock {s : State} (hq : s.quiet = true) {v : Violation} {e : Addr} (hf : (faultBlock s v).follow 32768 3 = some e)
    (ho : (faultBlock s v).overflowed = false) : Faults s v ((faultBlock s v).setPc e) := fun _ =>
  protectionFault_quiet hq v false _ _ e rfl rfl (State.follow_chainFuel _ hf) ho

theorem faultStatus_io (k : MapKind) : faultStatus k .io false false =
    { single := false, wp := false, valid := false, ind := false, io := true, pcUndef := false } := by cases k <;> rfl

theorem faultBlock_io (s : State) : faultBlock s .io =
    (s.faultRecorded { single := false, wp := false, valid := false, ind := false, io := true, pcUndef := false }).pushedBlock
      (s.pc + 1) := by
  rw [faultBlock, if_pos rfl, if_pos rfl, faultStatus_io]

theorem faultBlock_reference (s : State) {v : Violation} (hv : v ≠ .io) : faultBlock s v =
    (s.faultRecorded
      { single := false, wp := v == .write, valid := s.cfg.mapKind == .map200 && v == .validity, ind := v == .indirect,
        io := v == .io, pcUndef := s.cfg.mapKind == .map200 && isIndirect (Config.freeWord (s.free + 1)) }).pushedBlock
      ((Config.freeWord s.free).setWidth 15) := by
  rw [faultBlock, if_neg hv, if_neg hv, addrOf_eq_setWidth, faultStatus]

/-! ### References that are refused -/

theorem memRead_refused {s t : State} (hq : s.quiet = true) {a : Addr} {v : Violation} (ht : s.translate false false a = .error v)
    (h : Faults s v t) : memRead a s = .error .trap t := by
  simp only [memRead, readBus, Exec.bind_apply, beforeAccess_quiet hq, Exec.get_apply, ht, Bool.and_false, Bool.false_and]
  exact h Word

theorem memWrite_refused {s t : State} (hq : s.quiet = true) {a : Addr} {v : Violation} (ht : s.translate false true a = .error v)
    (h : Faults s v t) (w : Word) : memWrite a w s = .error .trap t := by
  simp only [memWrite, writeBus, Exec.bind_apply, beforeAccess_quiet hq, Exec.get_apply, ht, Bool.and_false, Bool.false_and]
  exact h Unit

theorem eaExt_direct {x : ExtMem} (hx : x.ind = false) (s : State) : eaExt x s = .ok (s.extBase x) s := by
  simp only [eaExt, Exec.bind_apply, Exec.get_apply, hx]
  rfl

theorem exec_elda_refused {s t : State} (a : Acc) {x : ExtMem} (hx : x.ind = false) (h : memRead (s.extBase x) s = .error .trap t) :
    exec (.elda a x) s = .next t := by
  have hexec : exec (.elda a x) s = execElda a x s := rfl
  rw [hexec, execElda]
  apply runExec_trap
  simp only [Exec.bind_apply, eaExt_direct hx, h]

theorem exec_esta_refused {s t : State} (a : Acc) {x : ExtMem} (hx : x.ind = false)
    (h : ∀ w, memWrite (s.extBase x) w s = .error .trap t) : exec (.esta a x) s = .next t := by
  have hexec : exec (.esta a x) s = execEsta a x s := rfl
  rw [hexec, execEsta]
  apply runExec_trap
  simp only [Exec.bind_apply, eaExt_direct hx, Exec.get_apply, h]

/-! ### The fifteenth address word of a chain (R310, D21) -/

/-- A chain of address words that may be read, up to its fourteenth: it ends there, or goes on to the fifteenth. -/
theorem chase_fourteen {s : State} (hq : s.quiet = true) (he : s.map.enablePending = none) {a : Addr}
    (hread : ∀ k, k < 14 → s.readable (s.chainAddr a k) = true)
    (hind : ∀ k, k < 13 → isIndirect (s.look (s.chainAddr a k)) = true) (n : Nat) :
    ∀ d k, d + k = 13 → chase eaBus false (n + d + 1) k false (s.chainAddr a k) s =
      if isIndirect (s.look (s.chainAddr a 13)) then chase eaBus false n 14 false (s.chainAddr a 14) s
      else .ok (s.chainAddr a 14) s := by
  have hguard : ∀ k, k < 14 → eaBus.guard k s = .ok () s := fun k hk => by
    have hne : (k == 14) = false := beq_eq_false_iff_ne.2 (Nat.ne_of_lt hk)
    show indirectGuard k s = _
    simp [indirectGuard, hne]
  have hlevel : ∀ k, k < 14 → chainLevel eaBus false false (s.chainAddr a k) s =
      .ok (s.look (s.chainAddr a k), isIndirect (s.look (s.chainAddr a k))) s := fun k hk => by
    have hr : eaBus.read false (s.chainAddr a k) s = .ok (s.look (s.chainAddr a k)) s := memRead_quiet hq (hread k hk)
    simp only [chainLevel, Exec.bind_apply, hr]
    cases autoUpdate (s.chainAddr a k) (s.look (s.chainAddr a k)) <;> simp
  have hafter : eaBus.after s = .ok () s := enablePendingUser_none he
  intro d
  induction d with
  | zero =>
    intro k hk
    have hk : k = 13 := by omega
    subst hk
    simp only [chase, Exec.bind_apply, hguard 13 (by decide), hlevel 13 (by decide), hafter]
    cases isIndirect (s.look (s.chainAddr a 13)) <;> rfl
  | succ d ih =>
    intro k hk
    rw [show n + (d + 1) + 1 = (n + d + 1) + 1 from rfl, chase]
    simp only [Exec.bind_apply, hguard k (by omega), hlevel k (by omega), hafter, hind k (by omega), if_true]
    exact ih (k + 1) (by omega)

theorem chase_fifteenth {s t : State} (hu : s.userMode = true) (hi : s.enables.ind = true) (h : Faults s .indirect t) (n : Nat)
    (a : Addr) : chase eaBus false (n + 1) 14 false a s = .error .trap t := by
  have hguard : eaBus.guard 14 s = .error .trap t := by
    show indirectGuard 14 s = _
    simp only [indirectGuard, Exec.bind_apply, Exec.get_apply, hu, hi]
    exact h Unit
  simp only [chase, Exec.bind_apply, hguard]

theorem exec_ejmp_fourteen {s : State} (hq : s.quiet = true) (he : s.map.enablePending = none) {y : ExtMem} (hy : y.ind = true)
    (hread : ∀ k, k < 14 → s.readable (s.chainAddr (s.extBase y) k) = true)
    (hind : ∀ k, k < 13 → isIndirect (s.look (s.chainAddr (s.extBase y) k)) = true)
    (hlast : isIndirect (s.look (s.chainAddr (s.extBase y) 13)) = false) :
    exec (.ejmp y) s = .next (s.setPc (s.chainAddr (s.extBase y) 14)) := by
  have hc := chase_fourteen hq he hread hind 34359738354 13 0 rfl
  rw [hlast, if_neg Bool.false_ne_true] at hc
  have hea : eaExt y s = .ok (s.chainAddr (s.extBase y) 14) s := (eaExt_indirect hy s).trans hc
  rw [exec_ejmp]
  apply runExec_ok
  simp only [ejmpRule, Exec.bind_apply, hea]
  rfl

theorem exec_ejmp_fifteen {s t : State} (hq : s.quiet = true) (hu : s.userMode = true) (hi : s.enables.ind = true)
    (he : s.map.enablePending = none) {y : ExtMem} (hy : y.ind = true)
    (hread : ∀ k, k < 14 → s.readable (s.chainAddr (s.extBase y) k) = true)
    (hind : ∀ k, k < 13 → isIndirect (s.look (s.chainAddr (s.extBase y) k)) = true)
    (hlast : isIndirect (s.look (s.chainAddr (s.extBase y) 13)) = true) (h : Faults s .indirect t) :
    exec (.ejmp y) s = .next t := by
  have hc := chase_fourteen hq he hread hind 34359738354 13 0 rfl
  rw [hlast, if_pos rfl] at hc
  have hea : eaExt y s = .error .trap t := ((eaExt_indirect hy s).trans hc).trans (chase_fifteenth hu hi h 34359738353 _)
  rw [exec_ejmp]
  apply runExec_trap
  simp only [ejmpRule, Exec.bind_apply, hea]

/-! ### The block of FPSH and FPOP, word by word (R401, R402) -/

theorem storedAbove_eq (ws : List Word) : ∀ (s : State) (sp : Word), ∃ m, s.storedAbove sp ws = s.setMem m := by
  induction ws with
  | nil => exact fun s _ => ⟨s.mem, rfl⟩
  | cons w ws ih =>
    intro s sp
    obtain ⟨m, hm⟩ := ih (s.put (addrOf (sp + 1)) w) (sp + 1)
    refine ⟨m, ?_⟩
    rw [State.storedAbove, hm, State.put_eq]
    rfl

theorem storedAbove_take_succ (s : State) (sp : Word) {ws : List Word} {i : Nat} {w : Word} (hw : ws[i]? = some w) :
    s.storedAbove sp (ws.take (i + 1)) = (s.storedAbove sp (ws.take i)).put (addrOf (sp + BitVec.ofNat 16 i + 1)) w := by
  have hi : i < ws.length := (List.getElem?_eq_some_iff.1 hw).1
  rw [List.take_add_one, hw, Option.toList_some, State.storedAbove_append, List.length_take, Nat.min_eq_left hi.le]
  rfl

section

variable {s t : State} {sp : Word} {ws : List Word} {k : Nat} (hq : s.quiet = true)
  (hwrite : ∀ j, j < k → s.writable (addrOf (sp + 1 + BitVec.ofNat 16 j)) = true)
  (hfault : ∀ w, memWrite (addrOf (sp + 1 + BitVec.ofNat 16 k)) w (s.storedAbove sp (ws.take k)) = .error .trap t)
  (hread : ∀ j, j < k → s.readable (addrOf (sp - BitVec.ofNat 16 j)) = true)
  (hend : memRead (addrOf (sp - BitVec.ofNat 16 k)) s = .error .trap t)

include hq hwrite hfault

/-- The i-th word of a block is stored, or it is the one refused. -/
theorem pushAbove_or_fault {i : Nat} (hi : i ≤ k) {q w : Word} (hsp : q = sp + BitVec.ofNat 16 i) (hw : ws[i]? = some w)
    {f : Word → Exec Unit} (hf : i + 1 ≤ k → f (q + 1) (s.storedAbove sp (ws.take (i + 1))) = .error .trap t) :
    (pushAbove q w >>= f) (s.storedAbove sp (ws.take i)) = .error .trap t := by
  have hplace : q + 1 = sp + 1 + BitVec.ofNat 16 i := by rw [hsp, BitVec.add_assoc, BitVec.add_comm (BitVec.ofNat 16 i), BitVec.add_assoc]
  obtain rfl | hlt := Nat.eq_or_lt_of_le hi
  · simp only [pushAbove, Exec.bind_apply, hplace, hfault]
  · obtain ⟨m, hm⟩ := storedAbove_eq (ws.take i) s sp
    have hput : memWrite (addrOf (q + 1)) w (s.storedAbove sp (ws.take i)) = .ok () (s.storedAbove sp (ws.take (i + 1))) := by
      rw [storedAbove_take_succ s sp hw, ← hsp, hm]
      refine memWrite_quiet (s := s.setMem m) hq ?_ w
      rw [hplace]
      exact hwrite i hlt
    simp only [pushAbove, Exec.bind_apply, hput, Exec.pure_apply]
    exact hf hlt

theorem pushQuad_or_fault {i : Nat} (hi : i ≤ k) {q : Word} {v : Quad} (hsp : q = sp + BitVec.ofNat 16 i)
    (h0 : ws[i]? = some (v.extractLsb' 48 16)) (h1 : ws[i + 1]? = some (v.extractLsb' 32 16))
    (h2 : ws[i + 2]? = some (v.extractLsb' 16 16)) (h3 : ws[i + 3]? = some (v.extractLsb' 0 16))
    {f : Word → Exec Unit} (hf : i + 4 ≤ k → f (q + 4) (s.storedAbove sp (ws.take (i + 4))) = .error .trap t) :
    (pushQuad q v >>= f) (s.storedAbove sp (ws.take i)) = .error .trap t := by
  have hat : ∀ j : Nat, q + BitVec.ofNat 16 j = sp + BitVec.ofNat 16 (i + j) := fun j => by
    rw [hsp, BitVec.add_assoc, BitVec.ofNat_add]
  have at2 : q + 1 + 1 = sp + BitVec.ofNat 16 (i + 2) := by
    rw [← hat 2, BitVec.add_assoc]
    rfl
  have at3 : q + 1 + 1 + 1 = sp + BitVec.ofNat 16 (i + 3) := by
    rw [← hat 3, BitVec.add_assoc, BitVec.add_assoc]
    rfl
  have at4 : q + 1 + 1 + 1 + 1 = q + 4 := by bv_omega
  rw [← at4] at hf
  simp only [pushQuad, bind_assoc]
  refine pushAbove_or_fault hq hwrite hfault hi hsp h0 fun hi => ?_
  refine pushAbove_or_fault hq hwrite hfault hi (hat 1) h1 fun hi => ?_
  refine pushAbove_or_fault hq hwrite hfault hi at2 h2 fun hi => ?_
  exact pushAbove_or_fault hq hwrite hfault hi at3 h3 hf

omit hwrite hfault

include hread hend

/-- The i-th word of the stack is read, or it is the one refused. -/
theorem memRead_or_fault {i : Nat} (hi : i ≤ k) {a : Addr} (ha : a = addrOf (sp - BitVec.ofNat 16 i)) {α : Type} {f : Word → Exec α}
    (hf : i + 1 ≤ k → ∀ w, f w s = .error .trap t) : (memRead a >>= f) s = .error .trap t := by
  obtain rfl | hlt := Nat.eq_or_lt_of_le hi
  · rw [Exec.bind_apply, ha, hend]
  · rw [Exec.bind_apply, ha, memRead_quiet hq (hread i hlt)]
    exact hf hlt _

theorem popQuad_or_fault {i : Nat} (hi : i ≤ k) {q : Word} (hsp : q = sp - BitVec.ofNat 16 i) {α : Type} {f : Quad → Exec α}
    (hf : i + 4 ≤ k → ∀ v, f v s = .error .trap t) : (popQuad q >>= f) s = .error .trap t := by
  have hat : ∀ j, addrOf (q - BitVec.ofNat 16 j) = addrOf (sp - BitVec.ofNat 16 (i + j)) := fun j => by
    rw [hsp, BitVec.sub_sub, BitVec.ofNat_add]
  simp only [popQuad, bind_assoc, pure_bind]
  refine memRead_or_fault hq hread hend hi (congrArg addrOf hsp) fun hi _ => ?_
  refine memRead_or_fault hq hread hend hi (hat 1) fun hi _ => ?_
  refine memRead_or_fault hq hread hend hi (hat 2) fun hi _ => ?_
  refine memRead_or_fault hq hread hend hi (hat 3) fun hi _ => ?_
  exact hf hi _

end

theorem exec_fpsh_refused {s t : State} (hq : s.quiet = true) (hfpu : s.cfg.hasFpu = true) (hr : s.readable 0o40 = true) {k : Nat}
    (hk : k < 18) (hwrite : ∀ j, j < k → s.writable (addrOf (s.look 0o40 + 1 + BitVec.ofNat 16 j)) = true)
    (hfault : ∀ w, memWrite (addrOf (s.look 0o40 + 1 + BitVec.ofNat 16 k)) w
      (s.storedAbove (s.look 0o40) (s.floatBlock.take k)) = .error .trap t) :
    exec .fpsh s = .next t := by
  have hexec : exec .fpsh s = execFpsh s := rfl
  rw [hexec, execFpsh, if_pos hfpu]
  apply runExec_trap
  rw [Exec.bind_apply, memRead_quiet hq hr]
  generalize s.look 0o40 = sp at hwrite hfault ⊢
  have h2 : sp + 1 + 1 = sp + 2 := by bv_omega
  have h6 : sp + 2 + 4 = sp + 6 := by bv_omega
  have h10 : sp + 6 + 4 = sp + 10 := by bv_omega
  have h14 : sp + 10 + 4 = sp + 14 := by bv_omega
  refine pushAbove_or_fault hq hwrite hfault (Nat.zero_le k) (BitVec.add_zero sp).symm rfl fun hi => ?_
  refine pushAbove_or_fault hq hwrite hfault hi rfl rfl fun hi => ?_
  refine pushQuad_or_fault hq hwrite hfault hi h2 rfl rfl rfl rfl fun hi => ?_
  rw [h2]
  refine pushQuad_or_fault hq hwrite hfault hi h6 rfl rfl rfl rfl fun hi => ?_
  rw [h6]
  refine pushQuad_or_fault hq hwrite hfault hi h10 rfl rfl rfl rfl fun hi => ?_
  rw [h10]
  refine pushQuad_or_fault hq hwrite hfault hi h14 rfl rfl rfl rfl fun hi => ?_
  omega

theorem exec_fpop_refused {s t : State} (hq : s.quiet = true) (hfpu : s.cfg.hasFpu = true) (hr : s.readable 0o40 = true) {k : Nat}
    (hk : k < 18) (hread : ∀ j, j < k → s.readable (addrOf (s.look 0o40 - BitVec.ofNat 16 j)) = true)
    (hend : memRead (addrOf (s.look 0o40 - BitVec.ofNat 16 k)) s = .error .trap t) : exec .fpop s = .next t := by
  have hexec : exec .fpop s = execFpop s := rfl
  rw [hexec, execFpop, if_pos hfpu]
  apply runExec_trap
  rw [Exec.bind_apply, memRead_quiet hq hr]
  generalize s.look 0o40 = sp at hread hend ⊢
  refine popQuad_or_fault hq hread hend (Nat.zero_le k) (BitVec.sub_zero sp).symm fun hi _ => ?_
  refine popQuad_or_fault hq hread hend hi rfl fun hi _ => ?_
  refine popQuad_or_fault hq hread hend hi rfl fun hi _ => ?_
  refine popQuad_or_fault hq hread hend hi rfl fun hi _ => ?_
  refine memRead_or_fault hq hread hend hi rfl fun hi _ => ?_
  refine memRead_or_fault hq hread hend hi rfl fun hi _ => ?_
  omega

/-! ### I/O protection (R311, R312) -/

/-- An instruction that begins with the check of I/O protection for a device. -/
def Guarded (dev : BitVec 6) (i : Instr) : Prop :=
  ∀ s : State, ∃ f : Unit → Exec Unit, exec i s = runExec (ioGuard dev >>= f) s

theorem exec_guarded {s t : State} {dev : BitVec 6} {i : Instr} (hi : Guarded dev i) (hio : s.ioProtected dev = true)
    (h : Faults s .io t) : exec i s = .next t := by
  obtain ⟨f, hf⟩ := hi s
  have hguard : ioGuard dev s = .error .trap t := by
    simp only [ioGuard, Exec.bind_apply, Exec.get_apply, hio]
    exact h Unit
  rw [hf]
  apply runExec_trap
  rw [Exec.bind_apply, hguard]

theorem guarded_device (a : Acc) (f : IoF) (dev : BitVec 6) (c : IoTest) :
    ∀ i ∈ [Instr.nio a f dev, .dia a f dev, .doa a f dev, .dib a f dev, .dob a f dev, .dic a f dev, .doc a f dev,
      .skp a c dev], Guarded dev i := by
  simp only [List.forall_mem_cons]
  exact ⟨fun _ => ⟨_, rfl⟩, fun _ => ⟨_, rfl⟩, fun _ => ⟨_, rfl⟩, fun _ => ⟨_, rfl⟩, fun _ => ⟨_, rfl⟩, fun _ => ⟨_, rfl⟩,
    fun _ => ⟨_, rfl⟩, fun _ => ⟨_, rfl⟩, fun _ h => absurd h List.not_mem_nil⟩

theorem guarded_cpu (a : Acc) (f : IoF) (c : IoTest) :
    ∀ i ∈ [Instr.inten, .intds, .reads a f, .inta a f, .msko a f, .iorst a f, .halt a f, .skpCpu c], Guarded 0o77 i := by
  simp only [List.forall_mem_cons]
  exact ⟨fun _ => ⟨_, rfl⟩, fun _ => ⟨_, rfl⟩, fun _ => ⟨_, rfl⟩, fun _ => ⟨_, rfl⟩, fun _ => ⟨_, rfl⟩, fun _ => ⟨_, rfl⟩,
    fun _ => ⟨_, rfl⟩, fun _ => ⟨_, rfl⟩, fun _ h => absurd h List.not_mem_nil⟩

theorem guarded_vct (change : Bool) (table : Addr) : Guarded 0o77 (.vct change table) := fun _ => ⟨_, rfl⟩

theorem guarded_units (a : Acc) (f : IoF) :
    ∀ p ∈ [((3 : BitVec 6), Instr.doaMap200 a), (3, .doaMap230 a), (3, .dobMap200 a), (3, .dobMap230 a),
      (3, .docMap200 a), (3, .docMap230 a), (3, .diaMap200 a), (3, .diaMap230 a), (3, .dicMap200 a), (3, .dicMap230 a),
      (3, .niopMap200), (3, .niopMap230), (1, .doaWcs a), (1, .dobWcs a), (1, .docWcs a), (2, .doaErcc a f),
      (2, .diaErcc a f), (2, .dibErcc a f), (0o14, .doaRtc a f)], Guarded p.1 p.2 := by
  simp only [List.forall_mem_cons]
  exact ⟨fun _ => ⟨_, rfl⟩, fun _ => ⟨_, rfl⟩, fun _ => ⟨_, rfl⟩, fun _ => ⟨_, rfl⟩, fun _ => ⟨_, rfl⟩, fun _ => ⟨_, rfl⟩,
    fun _ => ⟨_, rfl⟩, fun _ => ⟨_, rfl⟩, fun _ => ⟨_, rfl⟩, fun _ => ⟨_, rfl⟩, fun _ => ⟨_, rfl⟩, fun _ => ⟨_, rfl⟩,
    fun _ => ⟨_, rfl⟩, fun _ => ⟨_, rfl⟩, fun _ => ⟨_, rfl⟩, fun _ => ⟨_, rfl⟩, fun _ => ⟨_, rfl⟩, fun _ => ⟨_, rfl⟩,
    fun _ => ⟨_, rfl⟩, fun _ h => absurd h List.not_mem_nil⟩

/-- Settles O59: each fault goes where `faultBlock` says, from the state in which the violation arises. -/
theorem protectionFaults : Obligations.ProtectionFaults := by
  unfold Obligations.ProtectionFaults
  intro s a f dev x c v e hq hu hx old recorded io goes pushed t sp u word
  have hpushed : ∀ m, v ≠ .io → pushed (s.setMem m) = faultBlock (s.setMem m) v := fun m hv =>
    (faultBlock_reference (s.setMem m) hv).symm
  have hfaults : ∀ m, v ≠ .io → goes (pushed (s.setMem m)) → Faults (s.setMem m) v ((pushed (s.setMem m)).setPc e) := by
    intro m hv hgo
    rw [hpushed m hv] at hgo ⊢
    exact faults_faultBlock (s := s.setMem m) hq hgo.1 hgo.2
  have hio : goes u → Faults s .io (u.setPc e) := fun hgo => by
    have hub : u = faultBlock s .io := (faultBlock_io s).symm
    rw [hub] at hgo ⊢
    exact faults_faultBlock hq hgo.1 hgo.2
  have htoo : v ≠ .io → goes t → Faults s v (t.setPc e) := hfaults s.mem
  refine ⟨fun y hy hi he hread hind => ⟨fun hlast => exec_ejmp_fourteen hq he hy hread hind hlast, fun hlast hv hgo => ?_⟩,
    fun hv hgo => ⟨fun h => exec_elda_refused a hx (memRead_refused hq h (htoo hv hgo)),
      fun h => exec_esta_refused a hx (memWrite_refused hq h (htoo hv hgo))⟩, fun k hv hk hfpu hr => ?_,
    fun hgo hp i hi => exec_guarded (guarded_device a f dev c i hi) hp (hio hgo),
    fun hgo hp i hi => exec_guarded (guarded_cpu a f c i hi) hp (hio hgo),
    fun change table hgo hp => exec_guarded (guarded_vct change table) hp (hio hgo),
    fun hgo p hp hprot => exec_guarded (guarded_units a f p hp) hprot (hio hgo)⟩
  · have hf := htoo (by rw [hv]; decide) hgo
    rw [hv] at hf
    exact exec_ejmp_fifteen hq hu hi he hy hread hind hlast hf
  · intro w r u
    refine ⟨fun hwrite ht hgo => exec_fpsh_refused hq hfpu hr hk (fun j hj => ?_) fun x => ?_,
      fun hread ht hgo => exec_fpop_refused hq hfpu hr hk (fun j hj => ?_) ?_⟩
    · rw [addrOf_eq_setWidth]
      exact hwrite j hj
    · obtain ⟨m, hm⟩ := storedAbove_eq (s.floatBlock.take k) s sp
      have hue : u = pushed (s.setMem m) := congrArg pushed hm
      rw [hue] at hgo ⊢
      rw [addrOf_eq_setWidth, hm]
      exact memWrite_refused (s := s.setMem m) hq ht (hfaults m hv hgo) x
    · rw [addrOf_eq_setWidth]
      exact hread j hj
    · rw [addrOf_eq_setWidth]
      exact memRead_refused hq ht (htoo hv hgo)

end Sys2Proof.Proofs.Protection
end

section
/-! SUPPORT. The console functions (70_reset_and_hazards.md section 2). -/

namespace Sys2Proof.Proofs.Operator

open Sys2Proof Sys2Proof.Machine Sys2Proof.Proofs.Addresses Sys2Proof.Proofs.Cycle

-- Theorems elaborated side by side each hold a thread's stack, and the memory limit is near.
set_option Elab.async false

/-! ### Which function acts (R605, R612) -/

theorem console_locked {s : State} (h : s.console.power = .lock) (f : ConsoleFn) : consoleFunction f s = s := by
  have hacts : s.consoleActs = false := by simp [State.consoleActs, h]
  rw [consoleFunction, hacts]
  rfl

theorem consoleActs_on {s : State} (hp : s.console.powered = true) (hs : s.console.suspended = false) (hon : s.console.power = .on) :
    s.consoleActs = true := by
  simp [State.consoleActs, hp, hs, hon]

theorem console_running {s : State} (ha : s.consoleActs = true) (hr : s.run = true) (f : ConsoleFn) :
    consoleFunction f s = runningFunction f s := by
  rw [consoleFunction, ha, hr, if_neg (by decide), if_pos (Bool.true_or _)]

theorem console_stopped {s : State} (ha : s.consoleActs = true) (hr : s.run = false) (he : s.endless = .none) (f : ConsoleFn) :
    consoleFunction f s = stoppedFunction f s := by
  have hend : (s.endless != .none) = false := by rw [he]; rfl
  rw [consoleFunction, ha, hr, hend, if_neg (by decide), if_neg (by decide)]

theorem running_nothing {f : ConsoleFn} (hstop : f ≠ .stop) (hreset : f ≠ .reset) (s : State) : runningFunction f s = s := by
  cases f with
  | stop => exact absurd rfl hstop
  | reset => exact absurd rfl hreset
  | _ => rfl

theorem console_reset {s : State} (ha : s.consoleActs = true) : consoleFunction .reset s = s.after resetFunction := by
  have hnot : ¬(!s.consoleActs) = true := by rw [ha]; decide
  rw [consoleFunction, if_neg hnot]
  exact ite_self _

/-! ### References of the console (R607) -/

theorem consoleRead_calm {s : State} (h : s.calm = true) (a : Addr) : s.consoleRead a = some (s.look a, s) := by
  obtain ⟨hq, hu⟩ := (State.calm_iff s).1 h
  obtain ⟨-, hev, -⟩ := (State.quiet_iff s).1 hq
  have ht : s.translate false false a = .ok (s.unmapped a) := by simp [State.translate, hu]
  simp only [State.consoleRead, ht, State.physRead_quiet hev, State.look_of_calm h]

theorem consoleWrite_calm {s : State} (h : s.calm = true) (a : Addr) (v : Word) : s.consoleWrite a v = some (s.put a v) := by
  have ht : s.translate false true a = .ok (s.unmapped a) := by simp [State.translate, ((State.calm_iff s).1 h).2]
  simp only [State.consoleWrite, ht, State.put_of_calm h]

/-! ### PROGRAM LOAD (R610) -/

/-- A store below block 31 in installed memory, read back anywhere below it. -/
theorem look_put_low {s : State} (h : s.calm = true) (hwf : Memory.wf s.mem = true) {i : Nat} (hi : i < 32)
    (hm : 32 ≤ s.cfg.memWords) (w : Word) {k : Nat} (hk : k < 32) :
    (s.put (BitVec.ofNat 15 i) w).look (BitVec.ofNat 15 k) = if k = i then w else s.look (BitVec.ofNat 15 k) := by
  have hlow : ∀ j, j < 32 → s.unmapped (BitVec.ofNat 15 j) = j := fun j hj => by
    have hj' : (BitVec.ofNat 15 j).toNat = j := by
      rw [BitVec.toNat_ofNat]
      omega
    rw [unmapped_of_lt (by omega), hj']
  rw [State.look_of_calm ((State.put_calm s _ _).trans h), State.look_of_calm h, State.put_unmapped, State.put_of_calm h, hlow i hi,
    hlow k hk]
  by_cases hki : k = i
  · rw [if_pos hki, hki]
    exact State.content_physWrite_same hwf (by omega) w
  · rw [if_neg hki]
    exact State.content_physWrite_other hwf hki w

/-- Words loaded from location i on stand there; the rest of the first 32 locations is as before. -/
theorem loadWords_low (ws : List Word) : ∀ (i : Nat) (s : State), s.calm = true → Memory.wf s.mem = true → 32 ≤ s.cfg.memWords →
    i + ws.length ≤ 32 → (∃ m, loadWords ws (BitVec.ofNat 15 i) s = s.setMem m) ∧
      ∀ k, k < 32 → (loadWords ws (BitVec.ofNat 15 i) s).look (BitVec.ofNat 15 k) =
        if i ≤ k ∧ k < i + ws.length then ws.getD (k - i) 0 else s.look (BitVec.ofNat 15 k) := by
  induction ws with
  | nil =>
    intro i s _ _ _ _
    refine ⟨⟨s.mem, rfl⟩, fun k _ => (if_neg ?_).symm⟩
    rw [List.length_nil]
    omega
  | cons w ws ih =>
    intro i s h hwf hm hlen
    rw [List.length_cons] at hlen
    have hload : loadWords (w :: ws) (BitVec.ofNat 15 i) s = loadWords ws (BitVec.ofNat 15 (i + 1)) (s.put (BitVec.ofNat 15 i) w) := by
      rw [loadWords, consoleWrite_calm h, Option.getD_some, BitVec.ofNat_add]
      rfl
    have hput : Memory.wf (s.put (BitVec.ofNat 15 i) w).mem = true := by
      rw [State.put_of_calm h]
      exact wf_physWrite hwf _ _
    obtain ⟨⟨m, hmem⟩, hlook⟩ := ih (i + 1) (s.put (BitVec.ofNat 15 i) w) ((State.put_calm s _ _).trans h) hput
      (by rw [State.put_cfg]; exact hm) (by omega)
    rw [hload]
    refine ⟨⟨m, ?_⟩, fun k hk => ?_⟩
    · rw [hmem, State.put_eq]
      rfl
    · rw [hlook k hk, look_put_low h hwf (by omega) hm w hk, List.length_cons]
      by_cases hki : k = i
      · subst hki
        rw [if_neg (by omega), if_pos rfl, if_pos (by omega), Nat.sub_self, List.getD_cons_zero]
      · rw [if_neg hki]
        by_cases hin : i + 1 ≤ k ∧ k < i + 1 + ws.length
        · rw [if_pos hin, if_pos (by omega), show k - i = k - (i + 1) + 1 by omega, List.getD_cons_succ]
        · rw [if_neg hin, if_neg (by omega)]

theorem programLoad_calm {s : State} (h : s.calm = true) (hwf : Memory.wf s.mem = true) (hm : 32 ≤ s.cfg.memWords) :
    let t := stoppedFunction .programLoad s
    t = (((s.setMem t.mem).setPc 0).setRun true) ∧ ∀ k, k < 32 → t.look (BitVec.ofNat 15 k) = bootWords.getD k 0 := by
  intro t
  obtain ⟨⟨m, hmem⟩, hlook⟩ := loadWords_low bootWords 0 s h hwf hm (by decide)
  have ht : t = (((s.setMem m).setPc 0).setRun true) := congrArg (fun x : State => (x.setPc 0).setRun true) hmem
  refine ⟨?_, fun k hk => ?_⟩
  · rw [ht]
    rfl
  · have hk' : k < 0 + bootWords.length := by
      rw [Nat.zero_add]
      exact hk
    have hl := hlook k hk
    rw [if_pos ⟨Nat.zero_le k, hk'⟩, Nat.sub_zero, hmem] at hl
    rw [ht]
    exact hl

/-! ### An instruction for the console (R609) -/

theorem reachesLef_iff (s : State) (i : Instr) : s.reachesLef i = true ↔
    (∃ a m, i = .lef a m) ∨ ∃ b, i = .xct b ∧ ∃ a m, decode s.decodeCtx (s.xctWord 4 b) 0 = .ok (.lef a m) := by
  unfold State.reachesLef
  split
  · next a m => exact ⟨fun _ => .inl ⟨a, m, rfl⟩, fun _ => rfl⟩
  · next b =>
    constructor
    · intro h
      split at h
      · next a m hd => exact .inr ⟨b, rfl, a, m, hd⟩
      · cases h
    · rintro (⟨a, m, hi⟩ | ⟨c, hc, a, m, hd⟩)
      · cases hi
      · cases hc
        rw [hd]
  · next hlef hxct =>
    constructor
    · intro h
      cases h
    · rintro (⟨a, m, hi⟩ | ⟨c, hc, -⟩)
      · exact absurd hi (hlef a m)
      · exact absurd hc (hxct c)

theorem refuseLef_ok {m : Exec Instr} {s : State} {i : Instr} (h : m s = .ok i s) (hi : s.reachesLef i = false) :
    refuseLef m s = .ok i s := by
  simp only [refuseLef, Exec.bind_apply, h, Exec.get_apply, hi, Bool.false_eq_true, if_false, Exec.pure_apply]

theorem refuseLef_refuses {m : Exec Instr} {s : State} {i : Instr} (h : m s = .ok i s) (hi : s.reachesLef i = true) :
    refuseLef m s = .error (.refuse .consoleLef) s := by
  simp only [refuseLef, Exec.bind_apply, h, Exec.get_apply, hi, if_true, Exec.throw_apply]

theorem endOfConsoleInstruction_apply {u : State} (hu : u.unended = false) (he : u.endless = .none) :
    ∃ d, runExec endOfConsoleInstruction u = .next (u.stoppedAfter d) := by
  refine ⟨Config.freeWord (serveChannel u).advanceHolds.free, runExec_ok ?_⟩
  simp only [endOfConsoleInstruction, Exec.bind_apply, Exec.get_apply, hu, he, Bool.false_eq_true, if_false, ne_eq, not_true_eq_false,
    Exec.modify_apply]
  exact stopProcessor_apply _

/-- The console's instruction, fetched by `m`, runs and the processor stops. -/
theorem consoleInstruction_stops {m : Exec Instr} {s u : State} {i : Instr}
    (hm : m (s.setConsole { s.console with oneShot := .none }) = .ok i (s.setConsole { s.console with oneShot := .none }))
    (hi : s.reachesLef i = false) (hexec : exec i (s.setConsole { s.console with oneShot := .none }) = .next u)
    (hu : u.unended = false) (he : u.endless = .none) : ∃ d, consoleInstruction m exec s = .next (u.stoppedAfter d) := by
  have hrun : executeFrom (refuseLef m) exec (s.setConsole { s.console with oneShot := .none }) = .next u := by
    rw [executeFrom, refuseLef_ok hm hi]
    exact hexec
  rw [consoleInstruction, hrun]
  exact endOfConsoleInstruction_apply hu he

theorem consoleInstruction_refuses {m : Exec Instr} {s : State} {i : Instr}
    (hm : m (s.setConsole { s.console with oneShot := .none }) = .ok i (s.setConsole { s.console with oneShot := .none }))
    (hi : s.reachesLef i = true) : consoleInstruction m exec s = .refused .consoleLef := by
  have hrun : executeFrom (refuseLef m) exec (s.setConsole { s.console with oneShot := .none }) = .refused .consoleLef := by
    rw [executeFrom, refuseLef_refuses hm hi]
  rw [consoleInstruction, hrun]

theorem step_stopped {s : State} (hu : s.undisturbed = true) (he : s.endless = .none) (hr : s.run = false) : step s = idleStep exec s := by
  rw [step_undisturbed hu he, wholeStep, hr, if_neg (by decide)]

/-- The console's step is its instruction, whether the word comes from memory or from the switches. -/
theorem step_asked {s : State} {w w2 : Word} {i : Instr} (hu : s.undisturbed = true) (he : s.endless = .none) (hr : s.run = false)
    (hq : s.quiet = true) (hw : s.console.oneShot = .step ∧ s.readable s.pc = true ∧ w = s.look s.pc ∨ s.console.oneShot = .execute w)
    (h2 : if s.needsSecond w then s.readable (s.pc + 1) = true ∧ w2 = s.look (s.pc + 1) else w2 = 0)
    (hd : decode s.decodeCtx w w2 = .ok i) :
    ∃ m : Exec Instr, step s = consoleInstruction m exec s ∧
      m (s.setConsole { s.console with oneShot := .none }) = .ok i (s.setConsole { s.console with oneShot := .none }) := by
  have hinstr := instructionOf_quiet (s := s.setConsole { s.console with oneShot := .none }) hq h2 hd
  rw [step_stopped hu he hr, idleStep]
  obtain ⟨hone, hread, rfl⟩ | hone := hw
  · refine ⟨fetchInstr, by rw [hone], ?_⟩
    have hfetch : memRead s.pc (s.setConsole { s.console with oneShot := .none }) =
        .ok (s.look s.pc) (s.setConsole { s.console with oneShot := .none }) :=
      memRead_quiet (s := s.setConsole { s.console with oneShot := .none }) hq hread
    simp only [fetchInstr, Exec.bind_apply, Exec.get_apply, State.setConsole_pc, hfetch]
    exact hinstr
  · exact ⟨instructionOf w, by rw [hone], hinstr⟩

/-- Settles O60: the console functions by the state of the processor, then the console's own instruction. -/
theorem consoleFunctions : Obligations.ConsoleFunctions := by
  unfold Obligations.ConsoleFunctions
  refine ⟨?_, ?_, ?_⟩
  · intro s n hp hs press v a b show' data
    have hacts := consoleActs_on hp hs
    refine ⟨fun hlock f => console_locked hlock f, fun hon hr => ⟨console_running (hacts hon) hr .stop, fun f hstop hreset => ?_⟩,
      fun hon => ?_, fun hon hr he hc => ?_⟩
    · exact (console_running (hacts hon) hr f).trans (running_nothing hstop hreset s)
    · obtain ⟨t, ht, hmask, hmap, hion, hrun, -, hmem, -, -, -, -, hacs, -⟩ := resetFunction_apply s
      have hpress : press .reset = t := (console_reset (hacts hon)).trans (by rw [State.after, ht])
      rw [hpress]
      exact ⟨hion, hrun, hmask, hmap, hmem, (hacs n).1⟩
    · have hpress : ∀ f, press f = stoppedFunction f s := console_stopped (hacts hon) hr he
      have hexamine : ∀ x, examineAt x s = show' (s.setPc x) x (s.look x) := fun x => by
        rw [examineAt, consoleRead_calm hc]
      have ha : addrOf s.console.switches = a := addrOf_eq_setWidth _
      have hdeposit : depositHere s = data (s.put s.pc v) v := by
        rw [depositHere, consoleWrite_calm hc]
        exact congrArg (fun c : Console => (s.put s.pc v).setConsole { c with dataLights := v }) (State.put_console s s.pc v)
      have hnext : Machine.depositNext s = show' ((s.put b v).setPc b) b v := by
        rw [Machine.depositNext, consoleWrite_calm hc]
        exact congrArg (fun c : Console => ((s.put b v).setPc b).setConsole { c with addressLights := b, dataLights := v })
          (State.put_console s b v)
      simp only [hpress]
      refine ⟨?_, rfl, ?_, hexamine b, hdeposit, hnext, rfl, rfl, rfl, rfl, rfl, programLoad_calm hc⟩
      · rw [← ha]
        rfl
      · rw [← ha]
        exact hexamine _
  · intro s w w2 i hu he hr hq hw h2 hd lefOf
    obtain ⟨m, hstep, hm⟩ := step_asked hu he hr hq hw h2 hd
    rw [hstep]
    refine ⟨fun u hlef hxct hexec hus hue huc => ?_, fun a l hi => ?_, fun b hi hl => ?_⟩
    · refine consoleInstruction_stops hm ?_ hexec (unended_eq_false hus huc) hue
      rw [Bool.eq_false_iff, ne_eq, reachesLef_iff]
      rintro (⟨a, l, hi⟩ | ⟨b, hb, hl⟩)
      · exact hlef a l hi
      · exact hxct b hb hl
    · exact consoleInstruction_refuses hm ((reachesLef_iff s i).2 (.inl ⟨a, l, hi⟩))
    · exact consoleInstruction_refuses hm ((reachesLef_iff s i).2 (.inr ⟨b, hi, hl⟩))
  · intro s hu he hr hone
    rw [step_stopped hu he hr, idleStep, hone]

end Sys2Proof.Proofs.Operator
end
